-- ==== Sys2Proof/Word.lean ====
section
/-! DEFINITION. The word types of the YX3 model: bytes, byte strings and the two halves of the die (R7, R10). -/

namespace Sys2Proof

/-- One byte as it stands in memory, in a packet or in a dictionary value. -/
abbrev Byte := BitVec 8

/-- A byte string; multi-byte fields in it are little-endian (R7). -/
abbrev Bytes := List Byte

/-- A table from keys to values, each key at most once: a register bank, a record array, a queue by number. -/
abbrev Tbl (κ α : Type) := List (κ × α)

/-- The two halves of the logic die (R10). -/
inductive Half where
  | west
  | east
deriving DecidableEq, Repr

/-- West 0 and east 1, the numbering of R384 and R460. -/
def Half.num : Half → Nat
  | .west => 0
  | .east => 1

/-- The far half. -/
def Half.other : Half → Half
  | .west => .east
  | .east => .west

end Sys2Proof
end

