-- ==== Sys2Proof/Syntax.lean ====
section
/-! DEFINITION. The commands of the YX3: one constructor per row of spec/opcode_table.json, with the operands
the numbered rules give the message, dictionary write or event. Every command carries `dt`, the core cycles that
have passed since the previous command was taken (R9, R26). -/

namespace Sys2Proof

/-- The destination of a packet that is for another node, the devices that have routed it onward, and whether it is relayed (R312,
R321, R322). -/
structure Transit where
  dst : Nat
  hop : Nat := 0
  rl : Bool := false
deriving DecidableEq, Repr

/-- How a message on the data side reaches the device (R24, R46, R295, R325). -/
inductive Via where
  | port (p : Nat)                    -- on fabric port p
  | batch (p : Nat)                   -- an inner packet of a batch that arrived on gateway port p
  | geled (e : Half) (hv : Bool)      -- a Geled message whose last unit arrived on end e
  | onward (p : Nat) (t : Transit)    -- on fabric port p, for another node (a request for memory says so in its own fields)
deriving DecidableEq, Repr

/-- Where a device coordination packet comes from: the way it took, and the node that sent it (R312). -/
structure Sender where
  via : Via
  node : Nat
deriving DecidableEq, Repr

/-- A check ID (R224): the issuing node and a 32-bit serial. -/
structure CheckId where
  node : Nat
  serial : Nat
deriving DecidableEq, Repr

/-- A spar (R200). -/
structure Spar where
  crc : BitVec 32
  tag : Nat
deriving DecidableEq, Repr

/-- The operation of a memory or coherence request (R314, R245); the last two are row updates (R127). -/
inductive MemOp where
  | read | write | atomic | bget | bput | caprel
  | rds | rdo | upg | wbd | evc | pub
  | rowAdd | rowSet
deriving DecidableEq, Repr

/-- A memory, bulk or coherence request as its header and body give it (R294, R312, R317). `addr` is a VA at an
eave port or on the Geled Link outside context 0, and a GA otherwise. -/
structure Req where
  via : Via
  ctx : Nat
  job : Nat
  tag : Nat
  src : Nat := 0x3FFF
  sid : Nat := 0
  dst : Nat := 0x3FFF
  addr : Nat
  size : Nat := 0
  len : Nat := 4            -- units in the packet or message, header included
  rc : Nat := 0
  cap : Bool := false
  u : Bool := false
  ck : CheckId := ⟨0, 0⟩    -- the check ID unit, when u is set
  rl : Bool := false
  hop : Nat := 0
  aop : Nat := 0            -- bits 4 (w) and 5 (f) of R283 with the operation in [3:0]
  data : Bytes := []
  pz : Nat := 0
  st : Nat := 0
  seg : Nat := 0
  last : Bool := false
  spar : Option Spar := none
  agentTag : Nat := 0
deriving DecidableEq, Repr

/-- A snoop response (R245, R246). -/
structure Srsp where
  via : Via
  agentTag : Nat
  line : Nat                -- GA[61:7]
  hit : Bool
  dirty : Bool
  poison : Bool
  data : Bytes
  ctx : Nat := 0
  job : Nat := 0xFFFF
  u : Bool := false
  ck : CheckId := ⟨0, 0⟩
deriving DecidableEq, Repr

/-- A response on channel 1 (R312, R317, R330). -/
structure Rsp where
  src : Nat                 -- the device that answers
  sid : Nat                 -- the source the answer is for
  tag : Nat
  port : Nat := 0           -- the port it arrives on
  status : Nat := 0
  fault : Nat := 0
  sv : Bool := false
  stall : Nat := 0
  ld : Nat := 0
  data : Bytes := []
  tg : Nat := 0
  pz : Nat := 0
  u : Bool := false
  ck : CheckId := ⟨0, 0⟩
  loc : Option Nat := none
  seg : Nat := 0
  last : Bool := false
  st : Nat := 0
  spar : Option Spar := none
  grant : Nat := 0          -- DATA and ACK (R245): the grant
  on : Option Transit := none   -- an answer for another node
deriving DecidableEq, Repr

/-- The three management paths of R431; a mailbox request has the end it came on, hv and its context. -/
inductive Path where
  | mgmt (p : Nat)
  | i3c
  | mailbox (e : Half) (hv : Bool) (ctx : Nat)
deriving DecidableEq, Repr

/-- The authentication trailer of R414. -/
structure Trailer where
  slot : Nat
  counter : Nat
  tag : Bytes
deriving DecidableEq, Repr

/-- A Waest PDU (R436) with the path and the source it comes from; the command's row gives kind, index and
subindex, or its own operands do. -/
structure Pdu where
  path : Path
  src : Nat := 0            -- address and port, MCTP endpoint, or the tag of the mailbox message, as one number
  magic : Nat := 0x5057     -- "WP"
  version : Nat := 1
  tag : Nat := 0
  flags : Nat := 0
  offset : Nat := 0
  total : Nat := 0          -- write: the value's length; read: bytes wanted
  data : Bytes := []
  trailer : Option Trailer := none
deriving DecidableEq, Repr

/-- A job submission (R295, R314): the descriptor with its header fields. -/
structure Submit where
  via : Via
  ctx : Nat
  job : Nat
  tag : Nat
  desc : Bytes
deriving DecidableEq, Repr

/-- The three engine classes, numbered 1, 2, 3 in R371. -/
inductive EngClass where
  | tile
  | yealm
  | update
deriving DecidableEq, Repr

/-- One engine: its class and device-wide number (R10). -/
structure Engine where
  cls : EngClass
  idx : Nat
deriving DecidableEq, Repr

/-- An entry of a part request (R122). -/
structure PartEntry where
  row : Nat
  bag : Nat
  weight : BitVec 32
deriving DecidableEq, Repr

/-- A part request as reassembled (R122, R315). -/
structure Part where
  src : Nat
  sid : Nat
  tag : Nat
  ctx : Nat
  job : Nat
  desc : Bytes
  tableTag : Nat
  partNo : Nat
  entries : List PartEntry
  via : Via := .batch 0
deriving DecidableEq, Repr

/-- An entry of a part answer (R122): a raw row (kind 1) or an FP32 partial (kind 0). -/
structure Partial where
  bag : Nat
  n : Nat
  raw : Bool
  data : Bytes
deriving DecidableEq, Repr

/-- A part answer as reassembled, with the detail code of a refusal (R120). -/
structure PartAnswer where
  src : Nat
  tag : Nat
  partNo : Nat
  status : Nat
  loc : Option Nat := none
  entries : List Partial
  detail : Nat := 0
  ld : Nat := 0
  sv : Bool := false
  stall : Nat := 0
  via : Via := .batch 0
deriving DecidableEq, Repr

/-- A row-update request (R127, R129). -/
structure RowUpdate where
  src : Nat
  sid : Nat
  tag : Nat
  ctx : Nat
  job : Nat
  table : Nat
  row : Nat
  set : Bool                -- true scatter-set, false scatter-add
  vfmt : Nat
  seq : Nat
  pos : Nat
  u : Bool := false
  ck : CheckId := ⟨0, 0⟩
  rc : Nat := 0
  data : Bytes
  via : Via := .batch 0
deriving DecidableEq, Repr

/-- An integrity message (R213) with where it came from. -/
structure IntegrityMsg where
  via : Via
  src : Nat := 0
  sid : Nat := 0
  reason : Nat := 0
  ctx : Nat
  job : Nat := 0
  node : Nat := 0
  serial : Nat := 0
  course : Nat := 0
  reserved : Bool := false  -- the op field holds a reserved value: the message is not well formed (R215)
deriving DecidableEq, Repr

/-- A packet as its own row carries it: an inner packet of a batch (R325), or one that is routed onward (R321, R322). -/
inductive Inner where
  | mem (op : MemOp) (q : Req)
  | caprel (src sid job tag status : Nat)
  | rsp (r : Rsp)
  | bdata (r : Rsp)
  | bdone (r : Rsp)
  | srsp (r : Srsp)
  | submit (cls : EngClass) (j : Submit)
  | forwarded (src sid : Nat) (cls : EngClass) (j : Submit)
  | part (x : Part)
  | partAnswer (x : PartAnswer)
  | rowUpdate (x : RowUpdate)
  | integrity (op : Nat) (m : IntegrityMsg)
  | invalidation (src op ctx seq addr pages : Nat)
  | invalidationAck (src seq : Nat)
  | hint (src : Nat) (payload : Bytes)
  | spaceRequest (src ctx ga : Nat)
  | pub (q : Req) (region version node : Nat)
  | spaceAnswer (src ga : Nat) (accept : Bool)
  | frameRequest (src t n ga : Nat)
  | frameAnswer (src t n ga : Nat) (accept : Bool)
  | fencePlaced (src ga pages : Nat)
  | fenceDone (src ga pages : Nat) (drops : List (Nat × Nat))
  | portState (src node : Nat) (up : Bool) (rcvd : Nat)
  | course (n : Nat)
  | onward (t : Transit) (x : Inner)
deriving DecidableEq, Repr

/-- A placement hint comes as a message or as a write of 0x3F20.03 (R96). -/
inductive HintSrc where
  | msg (via : Via) (src : Nat)
  | object (p : Pdu)
deriving DecidableEq, Repr

/-- A link of flashing: a fabric port or one end of the Geled Link (R339). -/
inductive Link where
  | port (p : Nat)
  | geled (e : Half)
deriving DecidableEq, Repr

/-- One lane codeword as received: the physical lane of the link's engine and its 272 bytes (R341). -/
structure Codeword where
  lane : Nat
  bytes : Bytes
deriving DecidableEq, Repr

/-- The training record of R347. -/
structure TrainRec where
  node : Nat
  port : Nat
  role : Nat
  stepping : Nat
  good : Nat
deriving DecidableEq, Repr

/-- A part that has a health score (R376) or that a gutter record names (R394): its kind code and index. -/
structure PartRef where
  kind : Nat
  idx : Nat
deriving DecidableEq, Repr

/-- An error that scrub or an access meets in a stack line (R361, R362), or a change of the stored bytes that the
line's ECC does not see. -/
inductive StackError where
  | corrected (line : Nat)
  | uncorrectable (line : Nat)
  | altered (off : Nat) (mask : Byte)
deriving DecidableEq, Repr

/-- An access on the IEEE 1149.1 debug port (R421, R502). -/
inductive DebugAccess where
  | idcode
  | bypass
  | boundaryScan
  | trace (h : Half)
  | read (h : Half) (addr : Nat)
  | halt (h : Half)
  | write (h : Half) (addr : Nat) (v : Nat)
deriving DecidableEq, Repr

/-- The commands: one constructor per row of spec/opcode_table.json, in the table's order. -/
inductive Instr where
  | courseBeaconEdge (dt : Nat)
  | courseMessage (dt : Nat) (via : Via) (course : Nat)
  | beaconSilenceTimeout (dt : Nat)
  | contextDescriptorWrite (dt : Nat) (c sub : Nat) (p : Pdu)
  | read (dt : Nat) (q : Req)
  | write (dt : Nat) (q : Req)
  | walkReadResponse (dt : Nat) (r : Rsp)
  | mismatchRecordExpiry (dt : Nat) (h : Half) (src sid tag block : Nat)
  | add (dt : Nat) (q : Req)
  | smin (dt : Nat) (q : Req)
  | smax (dt : Nat) (q : Req)
  | umin (dt : Nat) (q : Req)
  | umax (dt : Nat) (q : Req)
  | and (dt : Nat) (q : Req)
  | or (dt : Nat) (q : Req)
  | xor (dt : Nat) (q : Req)
  | swap (dt : Nat) (q : Req)
  | cas (dt : Nat) (q : Req)
  | fadd (dt : Nat) (q : Req)
  | vadd (dt : Nat) (q : Req)
  | bget (dt : Nat) (q : Req)
  | bputSegment (dt : Nat) (q : Req)
  | bdataSegment (dt : Nat) (r : Rsp)
  | bdone (dt : Nat) (r : Rsp)
  | caprel (dt : Nat) (via : Via) (src sid job tag status : Nat)
  | rsp (dt : Nat) (r : Rsp)
  | homeBlockCheck (dt : Nat) (ga : Nat) (errs : List StackError)
  | stallThreshold (dt : Nat) (sid tag : Nat) (retraining : Bool)
  | fallbackThreshold (dt : Nat) (sid tag : Nat)
  | invalidation (dt : Nat) (via : Via) (src tag op ctx seq addr pages : Nat)
  | invalidationAck (dt : Nat) (via : Via) (src seq : Nat)
  | grant (dt : Nat) (p : Pdu)
  | zeroingComplete (dt : Nat) (n : Nat)
  | revoke (dt : Nat) (p : Pdu)
  | revocationDrainEnd (dt : Nat) (n : Nat)
  | revocationDrainLimit (dt : Nat) (n : Nat)
  | acknowledge (dt : Nat) (p : Pdu)
  | regionCommand (dt : Nat) (p : Pdu)
  | shelfGrant (dt : Nat) (p : Pdu)
  | fallbackRecordCommand (dt : Nat) (p : Pdu)
  | placementHint (dt : Nat) (h : HintSrc) (payload : Bytes)
  | spaceRequest (dt : Nat) (src : Sender) (ctx ga : Nat)
  | spaceAnswer (dt : Nat) (src : Sender) (ga : Nat) (accept : Bool)
  | pageCopyComplete (dt : Nat) (ga : Nat)
  | fencePlacedCopies (dt : Nat) (src : Sender) (ga pages : Nat)
  | fenceDone (dt : Nat) (src : Sender) (ga pages : Nat) (drops : List (Nat × Nat))
  | frameRequest (dt : Nat) (src : Sender) (t n ga : Nat)
  | frameAnswer (dt : Nat) (src : Sender) (t n ga : Nat) (accept : Bool)
  | forwardedJob (dt : Nat) (src sid : Nat) (cls : EngClass) (j : Submit)
  | tableDefinition (dt : Nat) (p : Pdu)
  | tableFree (dt : Nat) (p : Pdu)
  | gather (dt : Nat) (j : Submit)
  | scatterAdd (dt : Nat) (j : Submit)
  | scatterSet (dt : Nat) (j : Submit)
  | prefetch (dt : Nat) (j : Submit)
  | partRequest (dt : Nat) (x : Part)
  | partAnswer (dt : Nat) (x : PartAnswer)
  | rowUpdate (dt : Nat) (x : RowUpdate)
  | rowBlockCopyComplete (dt : Nat) (t b : Nat)
  | tileJob (dt : Nat) (j : Submit)
  | gangStart (dt : Nat) (leader : Nat)
  | partialAccumulator (dt : Nat) (leader member p n : Nat)
  | panelDelivery (dt : Nat) (tile panel : Nat)
  | checkVerdict (dt : Nat) (tile : Nat) (upset : List (Nat × Nat × BitVec 32))
  | recomputationComplete (dt : Nat) (tile : Nat) (upset : List (Nat × Nat × BitVec 32))
  | updateProgram (dt : Nat) (j : Submit)
  | windowComplete (dt : Nat) (unit : Nat)
  | confirm (dt : Nat) (m : IntegrityMsg)
  | confirmSend (dt : Nat) (serial : Nat)
  | retract (dt : Nat) (m : IntegrityMsg)
  | jobEnd (dt : Nat) (m : IntegrityMsg)
  | courseCommit (dt : Nat) (m : IntegrityMsg)
  | holdWaitResume (dt : Nat) (i : Nat)
  | reopen (dt : Nat) (p : Pdu)
  | courseCommitCommand (dt : Nat) (p : Pdu)
  | jobRecordQuery (dt : Nat) (p : Pdu)
  | register (dt : Nat) (p : Pdu)
  | deregister (dt : Nat) (p : Pdu)
  | deregistrationWalkEnd (dt : Nat) (a : Nat)
  | domainModeCommand (dt : Nat) (p : Pdu)
  | domainRebuild (dt : Nat) (p : Pdu)
  | rebuildProceed (dt : Nat)
  | publicationRegionDefine (dt : Nat) (p : Pdu)
  | publicationRegionFree (dt : Nat) (p : Pdu)
  | rds (dt : Nat) (q : Req)
  | rdo (dt : Nat) (q : Req)
  | upg (dt : Nat) (q : Req)
  | wbd (dt : Nat) (q : Req)
  | evc (dt : Nat) (q : Req)
  | srsp (dt : Nat) (r : Srsp)
  | pub (dt : Nat) (q : Req) (region version node : Nat)
  | publishReady (dt : Nat) (src sid job tag : Nat)
  | pq (dt : Nat) (e : Half) (fseq tag : Nat) (rd : Bool) (line : Nat) (void : Bool)
  | snoopTimeout (dt : Nat) (h : Half) (line : Nat)
  | reclaimWalkEnd (dt : Nat) (a : Nat)
  | agedHeadTimeout (dt : Nat) (h : Half) (line : Nat)
  | geledFrame (dt : Nat) (e : Half) (fseq creq crsp ccoh cctl : Nat) (replayed : Bool) (query : Nat)
      (units : List Nat)
  | endWidthChange (dt : Nat) (e : Half) (good : Nat)
  | endLost (dt : Nat) (e : Half)
  | endLostMessage (dt : Nat) (e : Half) (lost : Half) (fseq : Nat)
  | linkLossTimeout (dt : Nat)
  | registerWrite (dt : Nat) (e : Half) (hv : Bool) (tag : Nat) (win : Half) (off : Nat) (data : BitVec 32)
  | snapshot (dt : Nat) (e : Half) (hv : Bool) (tag : Nat) (win : Half)
  | snapshotBoth (dt : Nat) (e : Half) (hv : Bool) (tag : Nat) (win : Half)
  | evtStatClear (dt : Nat) (e : Half) (hv : Bool) (tag : Nat) (win : Half) (data : BitVec 32)
  | mailboxRequest (dt : Nat) (e : Half) (hv : Bool) (ctx tag : Nat) (pdu : Bytes)
  | linkWord (dt : Nat) (p : Nat) (cr0 cr1 cr2 cr3 : Nat)
  | batch (dt : Nat) (p near bseq vc units : Nat) (inner : List Inner)
  | batchAck (dt : Nat) (p bseq : Nat)
  | batchCloseTime (dt : Nat) (p vc : Nat)
  | portState (dt : Nat) (src : Sender) (node : Nat) (up : Bool) (rcvd : Nat)
  | portDown (dt : Nat) (p : Nat)
  | portUp (dt : Nat) (p : Nat)
  | loadLevelRecompute (dt : Nat)
  | flashReceived (dt : Nat) (l : Link) (cws : List Codeword)
  | replayTimeout (dt : Nat) (l : Link)
  | spareRequest (dt : Nat) (l : Link) (log phy sw : Nat)
  | spareAnswer (dt : Nat) (l : Link) (log phy sw : Nat)
  | widthRequest (dt : Nat) (l : Link) (width sw : Nat)
  | widthAnswer (dt : Nat) (l : Link) (width sw : Nat)
  | retrainRequest (dt : Nat) (l : Link) (phy : Nat)
  | plannedDown (dt : Nat) (l : Link)
  | plannedDownAnswer (dt : Nat) (l : Link)
  | powerReport (dt : Nat) (l : Link) (txp : List Nat) (oma : List Int)
  | powerReportSend (dt : Nat) (l : Link) (txp : List Nat)
  | laneMessageResend (dt : Nat) (l : Link)
  | linkTrainingStart (dt : Nat) (l : Link)
  | trainingStepDone (dt : Nat) (lane step : Nat) (pass : Bool) (oma : Int) (rec : TrainRec)
  | trainingRepeat (dt : Nat) (l : Link)
  | laneDeclaredBad (dt : Nat) (lane : Nat)
  | badLaneRetry (dt : Nat) (lane : Nat)
  | laserModuleFlag (dt : Nat) (m laser ratio : Nat) (overLimit : Bool)
  | laserModuleDrain (dt : Nat) (p : Pdu)
  | laserDrainCancel (dt : Nat) (p : Pdu)
  | laserDrainComplete (dt : Nat) (m : Nat)
  | moduleRemoved (dt : Nat) (m : Nat)
  | modulePresent (dt : Nat) (m : Nat) (bol : List Nat) (hours : Nat)
  | moduleWarm (dt : Nat) (m : Nat) (bias : List Nat) (temp : Nat)
  | scrub (dt : Nat) (s : Nat) (errs : List StackError)
  | directoryScrub (dt : Nat) (h : Half) (bad : List Nat)
  | channelFailure (dt : Nat) (s ch : Nat) (unreadable : List Nat)
  | spareCopyComplete (dt : Nat) (s : Nat) (unreadable : List Nat)
  | fieldTestDue (dt : Nat) (e : Engine)
  | fieldTestForced (dt : Nat) (e : Engine)
  | dormerSlot (dt : Nat) (e : Engine)
  | fieldTestComplete (dt : Nat) (e : Engine) (pass : Bool) (step sig : Nat)
  | fieldTestRequest (dt : Nat) (p : Pdu)
  | peerProbe (dt : Nat) (h : Half)
  | probeTimeout (dt : Nat) (h : Half) (node : Nat)
  | requestUnanswered (dt : Nat) (sid tag : Nat)
  | peerSilence (dt : Nat) (node : Nat)
  | expelNow (dt : Nat) (p : Pdu)
  | readmitNow (dt : Nat) (p : Pdu)
  | clearSuspect (dt : Nat) (p : Pdu)
  | returnEngine (dt : Nat) (p : Pdu)
  | leaseRecord (dt : Nat) (dest : Half) (holder : Half) (seq course : Nat)
  | lockstepMismatch (dt : Nat) (h : Half)
  | halfControllerRestarted (dt : Nat) (h : Half)
  | purlinHeartbeat (dt : Nat) (h : Half)
  | purlinLost (dt : Nat)
  | purlinRetrain (dt : Nat)
  | purlinRejoin (dt : Nat)
  | admission (dt : Nat) (p : Pdu)
  | admissionTestingDone (dt : Nat) (pass : Bool)
  | admissionLoadingDone (dt : Nat) (ok : Bool)
  | announceAck (dt : Nat) (sub tag idx : Nat)
  | announceResend (dt : Nat) (sub seq : Nat)
  | monitorSample (dt : Nat) (rails : List (Nat × Nat)) (junctions : List Int) (power : Nat)
  | referenceClockLost (dt : Nat) (lostWest lostEast : Bool)
  | referenceClockReturn (dt : Nat)
  | enclaveLockstepMismatch (dt : Nat)
  | enclaveRestarted (dt : Nat) (testsPass : Bool)
  | segment (dt : Nat) (p : Pdu)
  | verify (dt : Nat) (p : Pdu)
  | activate (dt : Nat) (p : Pdu)
  | commitSvn (dt : Nat) (p : Pdu)
  | liveUpdateStageDone (dt : Nat)
  | liveUpdateRevert (dt : Nat)
  | getVersion (dt : Nat) (eid : Nat)
  | getCapabilities (dt : Nat) (eid : Nat)
  | negotiateAlgorithms (dt : Nat) (eid : Nat)
  | getDigests (dt : Nat) (eid : Nat)
  | getCertificate (dt : Nat) (eid slot offset length : Nat)
  | challenge (dt : Nat) (eid slot : Nat) (nonce : Bytes)
  | getMeasurements (dt : Nat) (eid op : Nat) (signed : Bool) (nonce : Bytes)
  | install (dt : Nat) (p : Pdu)
  | keyRevoke (dt : Nat) (p : Pdu)
  | releaseOwnership (dt : Nat) (p : Pdu)
  | debugUnlock (dt : Nat) (p : Pdu) (dbgEn : Bool)
  | selfTestRun (dt : Nat) (p : Pdu) (pass : Bool)
  | waestRead (dt : Nat) (p : Pdu) (index sub : Nat)
  | waestDescribe (dt : Nat) (p : Pdu) (index sub : Nat)
  | objectWrite (dt : Nat) (p : Pdu) (index sub : Nat)
  | slateActivate (dt : Nat) (p : Pdu)
  | slateDiscard (dt : Nat) (p : Pdu)
  | pendingRead (dt : Nat) (p : Pdu)
  | slateHeaderWritten (dt : Nat)
  | setEndpointId (dt : Nat) (src eid : Nat)
  | getEndpointId (dt : Nat) (src : Nat)
  | getMctpVersionSupport (dt : Nat) (src typ : Nat)
  | getMessageTypeSupport (dt : Nat) (src : Nat)
  | i3cDynamicAddress (dt : Nat) (addr : Nat)
  | resetRelease (dt : Nat) (strapAddr : Nat) (mfg : Bool)
  | reset (dt : Nat)
  | clockLock (dt : Nat)
  | enclaveBootDone (dt : Nat) (testsPass : Bool)
  | slateSelection (dt : Nat)
  | stackInitialisationDone (dt : Nat) (failed : List (Nat × Nat))
  | opticalTrainingDone (dt : Nat)
  | purlinBringupRetry (dt : Nat) (up : Bool)
  | ridgeInitialisation (dt : Nat)
  | firstFieldTestsDone (dt : Nat) (failed : List Engine)
  | joinComplete (dt : Nat)
  | powerLoss (dt : Nat)
  | streamUnfollowable (dt : Nat) (p : Nat)
  | entropyHealthTestFailure (dt : Nat)
  | managementPortLinkChange (dt : Nat) (p : Nat) (up gigabit : Bool)
  | debugPortAccess (dt : Nat) (a : DebugAccess) (rstLow dbgEn : Bool)
deriving DecidableEq, Repr

end Sys2Proof
end

