-- ==== Sys2Proof/Config.lean ====
section
/-! DEFINITION. What one part fixes and what the manual leaves open. Every constant here is opaque: nothing can be
proved of its value, so a theorem holds for every value of it. Each has an entry in notes/assumptions. -/

namespace Sys2Proof.Config

/-- The pseudorandom draw of a memory controller at an access to a counted page (R86), by draw number. -/
opaque accessDraw : Nat → Nat

/-- Sign and payload of a NaN that an FP32 operation on these operands returns (R150, R183, R284). -/
opaque nanBits : BitVec 32 → BitVec 32 → BitVec 32 → BitVec 32

/-- Whether min or max of two zeros of different sign is the first (R181). -/
opaque zeroFirst : BitVec 32 → BitVec 32 → Bool

/-- The two hashes of a line and its half in a presence filter copy (R264), below 2^23. -/
opaque filterHash1 : Nat → Half → Nat
opaque filterHash2 : Nat → Half → Nat

/-- The outcome of FEC decoding of one lane codeword (R341): the message bytes, and the bytes corrected; `none` when
the codeword cannot be corrected. The manual does not give the code's first root. -/
opaque fecDecode : Bytes → Option (Bytes × Nat)

/-- A value a unit returns that no rule gives (a debug read, a trace word), by draw number. -/
opaque freeValue : Nat → Nat

/-- Constants of the part: lot and serial, date code, MAC address of a management port. -/
opaque lotSerial : Bytes
opaque dateCode : Nat
opaque uid : Nat
opaque macAddress : Nat → Bytes

/-- The link-local IPv6 address of a management port (R434); how it is formed is not given. -/
opaque linkLocal : Nat → Bytes

/-- The unique device secret (R399, R407). -/
opaque uds : Bytes

/-- Digests of the vendor key sets in the fuse array (R402), by key set. -/
opaque vendorKeys : Nat → Bytes

/-- What bank 0 holds when the part is first powered: the image Brodgabry loaded, if any (R401, R403). -/
opaque factoryImage : Bytes

/-- Verification of a public-key signature over a message (R404): key, message, signature. -/
opaque ecdsaOk : Bytes → Bytes → Bytes → Bool
opaque lmsOk : Bytes → Bytes → Bytes → Bool

/-- Signatures the enclave makes (R411): with the Alias key of one derivation, and with one leaf of the LMS key. -/
opaque ecdsaSign : Nat → Bytes → Bytes
opaque lmsSign : Nat → Bytes → Bytes

/-- The key an install carries (R418): ephemeral public key and wrapped key; none when the unwrap fails. -/
opaque unwrapKey : Bytes → Bytes → Option Bytes

/-- Parts of an image payload, whose layout the manual does not give: 1 the enclave firmware, 2 the half controller
firmware, 3 the field-test programs (R403, R410). -/
opaque payloadPart : Nat → Bytes → Bytes

/-- The oldest image version a payload states that it can run beside (R451). -/
opaque imageBeside : Bytes → Nat

/-- Digest of the boot ROM (R410), and the certificate chain with one derivation of the Alias key (R408). -/
opaque romDigest : Bytes
opaque certChain : Nat → Bytes

end Sys2Proof.Config
end

