-- ==== Sys2Proof/Machine/Float.lean ====
section
/-! DEFINITION. Number formats (R109, R110, R125, R149, R181 to R185, R284): exact dyadic numbers, FP32 with one
rounding to nearest even, and the narrow and block-scaled formats of the engines. -/

namespace Sys2Proof.Machine

/-- The dyadic number m × 2^e. -/
structure Dy where
  m : Int
  e : Int
deriving DecidableEq, Repr

/-- m × 2^k for k not negative, and m otherwise. -/
def shlInt (m : Int) (k : Int) : Int := m * (2 ^ k.toNat : Nat)

/-- Both mantissas at the smaller exponent. -/
def Dy.align (x y : Dy) : Int × Int × Int :=
  let e := min x.e y.e
  (shlInt x.m (x.e - e), shlInt y.m (y.e - e), e)

def Dy.add (x y : Dy) : Dy :=
  let (a, b, e) := x.align y
  ⟨a + b, e⟩

def Dy.neg (x : Dy) : Dy := ⟨-x.m, x.e⟩
def Dy.sub (x y : Dy) : Dy := x.add y.neg
def Dy.mul (x y : Dy) : Dy := ⟨x.m * y.m, x.e + y.e⟩
def Dy.abs (x : Dy) : Dy := ⟨(x.m.natAbs : Int), x.e⟩
def Dy.lt (x y : Dy) : Bool :=
  let (a, b, _) := x.align y
  decide (a < b)
def Dy.zero : Dy := ⟨0, 0⟩
def Dy.ofNat (n : Nat) : Dy := ⟨n, 0⟩

/-- A value of a floating format: the exact number with its sign bit, an infinity, or a NaN with its sign bit. -/
inductive Fp where
  | fin (neg : Bool) (v : Dy)          -- v is the magnitude with its sign applied; zero keeps `neg`
  | inf (neg : Bool)
  | nan (neg : Bool)
deriving DecidableEq, Repr

def Fp.isNeg : Fp → Bool
  | .fin n _ => n
  | .inf n => n
  | .nan n => n

def Fp.isNan : Fp → Bool
  | .nan _ => true
  | _ => false

def Fp.isFin : Fp → Bool
  | .fin _ _ => true
  | _ => false

def Fp.isZero : Fp → Bool
  | .fin _ v => v.m == 0
  | _ => false

/-- The exact value; zero for what is not finite. -/
def Fp.val : Fp → Dy
  | .fin _ v => v
  | _ => Dy.zero

/-- Decode a sign, an exponent field of `eb` bits and a fraction of `mb` bits with the given bias, every exponent
value finite. -/
def decodeFin (eb mb bias : Nat) (n : Nat) : Fp :=
  let neg := n / 2 ^ (eb + mb) % 2 == 1
  let ex := n / 2 ^ mb % 2 ^ eb
  let fr := n % 2 ^ mb
  let mag : Int := if ex == 0 then (fr : Int) else ((fr + 2 ^ mb : Nat) : Int)
  let e : Int := (if ex == 0 then 1 else (ex : Int)) - bias - mb
  .fin neg ⟨if neg then -mag else mag, e⟩

/-- Decode an IEEE 754 format: the top exponent holds infinities and NaNs. -/
def decodeIeee (eb mb bias : Nat) (n : Nat) : Fp :=
  let neg := n / 2 ^ (eb + mb) % 2 == 1
  if n / 2 ^ mb % 2 ^ eb == 2 ^ eb - 1 then
    if n % 2 ^ mb == 0 then .inf neg else .nan neg
  else decodeFin eb mb bias n

def f32 (b : BitVec 32) : Fp := decodeIeee 8 23 127 b.toNat

/-- The integer q and last-place exponent l ≥ lmin with q × 2^l nearest to mag × 2^e with at most p bits, ties to
even. -/
def roundMag (p : Nat) (lmin : Int) (mag : Nat) (e : Int) : Nat × Int :=
  let l := max (e + (Nat.log2 mag + 1 : Nat) - p) lmin
  if l ≤ e then (mag * 2 ^ (e - l).toNat, l)
  else
    let d := 2 ^ (l - e).toNat
    let q := mag / d
    let r := mag % d
    (if 2 * r > d || (2 * r == d && q % 2 == 1) then q + 1 else q, l)

/-- FP32 of a nonzero or zero dyadic, rounded to nearest even; `neg` is the sign of a zero result. -/
def toF32 (v : Dy) (neg : Bool) : BitVec 32 :=
  if v.m == 0 then (if neg then 0x80000000#32 else 0#32)
  else
    let (q, l) := roundMag 24 (-149) v.m.natAbs v.e
    let bits := q + (l + 149).toNat * 2 ^ 23
    let bits := if bits ≥ 0x7F800000 then 0x7F800000 else bits
    BitVec.ofNat 32 (if v.m < 0 then bits + 2 ^ 31 else bits)

def infF32 (neg : Bool) : BitVec 32 := if neg then 0xFF800000#32 else 0x7F800000#32

/-- A quiet NaN whose sign and payload are open (log entry 9). -/
def nanF32 (a b c : BitVec 32) : BitVec 32 := Config.nanBits a b c ||| 0x7FC00000#32

/-- Sign of an exact zero sum under round to nearest even. -/
def zeroSign (na nb : Bool) : Bool := na && nb

def fadd (a b : BitVec 32) : BitVec 32 :=
  match f32 a, f32 b with
  | .fin na x, .fin nb y => toF32 (x.add y) (zeroSign na nb)
  | .inf na, .inf nb => if na == nb then infF32 na else nanF32 a b 0
  | .inf na, .fin _ _ => infF32 na
  | .fin _ _, .inf nb => infF32 nb
  | _, _ => nanF32 a b 0

def fneg (a : BitVec 32) : BitVec 32 := a ^^^ 0x80000000#32
def fabs (a : BitVec 32) : BitVec 32 := a &&& 0x7FFFFFFF#32
def fsub (a b : BitVec 32) : BitVec 32 := if (f32 b).isNan then nanF32 a b 0 else fadd a (fneg b)

def fmul (a b : BitVec 32) : BitVec 32 :=
  match f32 a, f32 b with
  | .fin na x, .fin nb y => toF32 (x.mul y) (na != nb)
  | .inf na, .inf nb => infF32 (na != nb)
  | .inf na, .fin nb y => if y.m == 0 then nanF32 a b 0 else infF32 (na != nb)
  | .fin na x, .inf nb => if x.m == 0 then nanF32 a b 0 else infF32 (na != nb)
  | _, _ => nanF32 a b 0

/-- The product before rounding. -/
def Fp.mul (x y : Fp) : Fp :=
  match x, y with
  | .nan n, _ => .nan n
  | _, .nan n => .nan n
  | .fin a u, .fin b v => .fin (a != b) (u.mul v)
  | .inf a, .inf b => .inf (a != b)
  | .inf a, .fin b v => if v.m == 0 then .nan false else .inf (a != b)
  | .fin a u, .inf b => if u.m == 0 then .nan false else .inf (a != b)

/-- The sum before rounding. -/
def Fp.add (x y : Fp) : Fp :=
  match x, y with
  | .nan n, _ => .nan n
  | _, .nan n => .nan n
  | .fin a u, .fin b v =>
      let w := u.add v
      .fin (if w.m == 0 then zeroSign a b else decide (w.m < 0)) w
  | .inf a, .inf b => if a == b then .inf a else .nan false
  | .inf a, .fin _ _ => .inf a
  | .fin _ _, .inf b => .inf b

def Fp.neg : Fp → Fp
  | .fin a v => .fin (!a) v.neg
  | .inf a => .inf (!a)
  | .nan a => .nan (!a)

/-- Round an exact value once to FP32; a NaN is the quiet NaN of the operation's operands. -/
def Fp.toF32 (x : Fp) (a b c : BitVec 32) : BitVec 32 :=
  match x with
  | .fin n v => Machine.toF32 v n
  | .inf n => infF32 n
  | .nan _ => nanF32 a b c

def ffma (a b c : BitVec 32) : BitVec 32 := (((f32 a).mul (f32 b)).add (f32 c)).toF32 a b c

/-- a + c × (b − a) with one rounding (R181). -/
def flerp (a b c : BitVec 32) : BitVec 32 :=
  ((f32 a).add ((f32 c).mul ((f32 b).add (f32 a).neg))).toF32 a b c

/-- The quotient of two nonzero dyadics, cut to enough bits for one rounding: the last bit stands for a remainder. -/
def Dy.quot (x y : Dy) : Dy :=
  let k := Nat.log2 y.m.natAbs + 64
  let n := x.m.natAbs * 2 ^ k
  let q := n / y.m.natAbs
  let q2 := if n % y.m.natAbs == 0 then 2 * q else 2 * q + 1
  let s : Int := if (decide (x.m < 0)) != (decide (y.m < 0)) then -1 else 1
  ⟨s * q2, x.e - y.e - k - 1⟩

def Fp.div (x y : Fp) : Fp :=
  match x, y with
  | .nan n, _ => .nan n
  | _, .nan n => .nan n
  | .inf _, .inf _ => .nan false
  | .inf a, .fin b _ => .inf (a != b)
  | .fin a _, .inf b => .fin (a != b) Dy.zero
  | .fin a u, .fin b v =>
      if v.m == 0 then (if u.m == 0 then .nan false else .inf (a != b))
      else if u.m == 0 then .fin (a != b) Dy.zero
      else .fin (a != b) (u.quot v)

def fdiv (a b : BitVec 32) : BitVec 32 := ((f32 a).div (f32 b)).toF32 a b 0

/-- Integer square root by bits: the greatest r below 2^k with r² ≤ n. -/
def isqrtAux (n : Nat) : Nat → Nat → Nat
  | 0, r => r
  | k + 1, r => isqrtAux n k (if (r + 2 ^ k) * (r + 2 ^ k) ≤ n then r + 2 ^ k else r)

def isqrt (n : Nat) : Nat := isqrtAux n (Nat.log2 n / 2 + 1) 0

/-- A positive dyadic with an even exponent. -/
def Dy.evenExp (v : Dy) : Dy := if v.e % 2 == 0 then v else ⟨v.m * 2, v.e - 1⟩

/-- Square root of a positive dyadic to enough bits for one rounding. -/
def Dy.sqrt (v : Dy) : Dy :=
  let w := v.evenExp
  let n := w.m.natAbs * 2 ^ 128
  let r := isqrt n
  ⟨if r * r == n then 2 * r else 2 * r + 1, w.e / 2 - 65⟩

/-- The exact square root of a positive dyadic, when it is one. -/
def Dy.sqrtExact (v : Dy) : Option Dy :=
  let w := v.evenExp
  let r := isqrt w.m.natAbs
  if r * r == w.m.natAbs then some ⟨r, w.e / 2⟩ else none

/-- One over the square root of a positive dyadic to enough bits for one rounding. -/
def Dy.rsqrt (v : Dy) : Dy :=
  let w := v.evenExp
  let k := Nat.log2 w.m.natAbs + 128
  let k := k + k % 2
  let n := 2 ^ (2 * k)
  let r := isqrt (n / w.m.natAbs)
  ⟨if r * r * w.m.natAbs == n then 2 * r else 2 * r + 1, -(w.e / 2) - k - 1⟩

def fsqrt (a : BitVec 32) : BitVec 32 :=
  match f32 a with
  | .fin n v => if v.m == 0 then a else if n then nanF32 a 0 0 else toF32 v.sqrt false
  | .inf n => if n then nanF32 a 0 0 else infF32 false
  | .nan _ => nanF32 a 0 0

def frsqrt (a : BitVec 32) : BitVec 32 :=
  match f32 a with
  | .fin n v => if v.m == 0 then infF32 n else if n then nanF32 a 0 0 else toF32 v.rsqrt false
  | .inf n => if n then nanF32 a 0 0 else 0#32
  | .nan _ => nanF32 a 0 0

/-- Whether |a| exceeds t × |√b + c| for t ≥ 0, a ≠ 0, b > 0 not a square (so the two are never equal). -/
def adamExceeds (a b c t : Dy) : Bool :=
  let pos := if c.m ≥ 0 then true else (c.mul c).lt b
  let ta := a.abs
  let tc := t.mul c.abs
  if pos then
    -- |a| − t c > t √b
    let x := if c.m ≥ 0 then ta.sub tc else ta.add tc
    decide (x.m > 0) && ((t.mul t).mul b).lt (x.mul x)
  else
    -- t √b > t |c| − |a|
    let y := tc.sub ta
    decide (y.m < 0) || (y.mul y).lt ((t.mul t).mul b)

/-- The midpoint between FP32 magnitude pattern k and the next. -/
def midpoint (k : Nat) : Dy :=
  let ex : Nat := k / 2 ^ 23
  if ex == 0 then ⟨2 * k + 1, -150⟩ else ⟨2 * (k % 2 ^ 23 + 2 ^ 23) + 1, (ex : Int) - 151⟩

/-- The greatest pattern below 2^n from `k` whose lower midpoint the value exceeds. -/
def bisectF32 (exceeds : Dy → Bool) : Nat → Nat → Nat
  | 0, k => k
  | n + 1, k =>
      let k2 := k + 2 ^ n
      bisectF32 exceeds n (if k2 ≤ 0x7F800000 && exceeds (midpoint (k2 - 1)) then k2 else k)

/-- a ÷ (√b + c) with one rounding (R181, R183). -/
def fadamdiv (a b c : BitVec 32) : BitVec 32 :=
  match f32 b with
  | .nan _ => nanF32 a b c
  | .inf n => if n then nanF32 a b c else ((f32 a).div ((Fp.inf false).add (f32 c))).toF32 a b c
  | .fin n v =>
      if v.m == 0 then ((f32 a).div ((Fp.fin n Dy.zero).add (f32 c))).toF32 a b c
      else if n then nanF32 a b c
      else match v.sqrtExact, f32 c, f32 a with
        | some r, x, y => (y.div ((Fp.fin false r).add x)).toF32 a b c
        | none, .fin _ x, .fin s y =>
            let pos := if x.m ≥ 0 then true else (x.mul x).lt v
            let neg := s != !pos
            if y.m == 0 then (if neg then 0x80000000#32 else 0#32)
            else
              let k := bisectF32 (adamExceeds y v x) 31 0
              BitVec.ofNat 32 (if neg then k + 2 ^ 31 else k)
        | none, .fin _ x, .inf s =>
            let pos := if x.m ≥ 0 then true else (x.mul x).lt v
            infF32 (s != !pos)
        | none, x, y => (y.div ((Fp.fin false ⟨1, 0⟩).add x)).toF32 a b c

/-- a < b for numbers that are not NaN; the two zeros are equal. -/
def Fp.lt (x y : Fp) : Bool :=
  match x, y with
  | .fin _ u, .fin _ v => u.lt v
  | .inf n, .fin _ _ => n
  | .fin _ _, .inf n => !n
  | .inf a, .inf b => a && !b
  | _, _ => false

/-- min and max (R181): a NaN input gives NaN, and the choice between two zeros is open (log entry 10). -/
def fmin (a b : BitVec 32) : BitVec 32 :=
  let x := f32 a
  let y := f32 b
  if x.isNan || y.isNan then nanF32 a b 0
  else if x.lt y then a else if y.lt x then b
  else if Config.zeroFirst a b then a else b

def fmax (a b : BitVec 32) : BitVec 32 :=
  let x := f32 a
  let y := f32 b
  if x.isNan || y.isNan then nanF32 a b 0
  else if y.lt x then a else if x.lt y then b
  else if Config.zeroFirst a b then a else b

/-! ### Narrow formats -/

/-- Element width in bits of a format code (R109); 0 for a reserved code. -/
def fmtBits (c : Nat) : Nat :=
  match c with
  | 1 => 32 | 2 => 16 | 3 => 8 | 4 => 8 | 5 => 8 | 6 => 8 | 7 => 6 | 8 => 6 | 9 => 4 | 10 => 8
  | _ => 0

/-- Block-scaled formats (R109). -/
def fmtScaled (c : Nat) : Bool := 5 ≤ c && c ≤ 10

/-- Exponent bits, fraction bits and bias of a narrow floating format. -/
def fmtShape (c : Nat) : Nat × Nat × Nat :=
  match c with
  | 1 => (8, 23, 127)
  | 2 => (8, 7, 127)
  | 3 | 5 => (4, 3, 7)
  | 4 | 6 => (5, 2, 15)
  | 7 => (3, 2, 3)
  | 8 => (2, 3, 1)
  | 9 => (2, 1, 1)
  | _ => (0, 0, 0)

/-- The value of an element of format `c` without its block scale (R109, OCP MX v1.0). -/
def decodeElem (c n : Nat) : Fp :=
  match c with
  | 1 => decodeIeee 8 23 127 n
  | 2 => decodeIeee 8 7 127 n
  | 3 | 5 => if n % 128 == 127 then .nan (n / 128 % 2 == 1) else decodeFin 4 3 7 n
  | 4 | 6 => decodeIeee 5 2 15 n
  | 7 => decodeFin 3 2 3 n
  | 8 => decodeFin 2 3 1 n
  | 9 => decodeFin 2 1 1 n
  | _ =>
      let v : Int := if n % 256 < 128 then (n % 256 : Nat) else ((n % 256 : Nat) : Int) - 256
      .fin (decide (v < 0)) ⟨v, -6⟩

/-- 2^(scale − 127); 0xFF is NaN (R110). -/
def decodeScale (n : Nat) : Fp := if n == 0xFF then .nan false else .fin false ⟨1, (n : Int) - 127⟩

/-- Element times block scale and table scale, rounded once (R110). -/
def dequant (c n : Nat) (scale : Nat) (tab : Option (BitVec 32)) : BitVec 32 :=
  let x := decodeElem c n
  let x := if fmtScaled c then x.mul (decodeScale scale) else x
  let x := match tab with
    | none => x
    | some t => x.mul (f32 t)
  match c, tab with
  | 1, none => BitVec.ofNat 32 n
  | _, _ => x.toF32 (BitVec.ofNat 32 n) (BitVec.ofNat 32 scale) (tab.getD 0)

/-- The largest finite magnitude pattern of a format, without its sign. -/
def fmtMax (c : Nat) : Nat :=
  match c with
  | 1 => 0x7F7FFFFF | 2 => 0x7F7F | 3 | 5 => 0x7E | 4 | 6 => 0x7B | 7 => 0x1F | 8 => 0x1F | 9 => 7 | _ => 0

/-- What one conversion gives: the stored bits, whether it saturated, whether it is NaN or infinite. -/
structure Conv where
  bits : Nat
  sat : Bool := false
  nonfin : Bool := false
deriving DecidableEq, Repr

/-- The magnitude pattern of q × 2^l in a format of `mb` fraction bits whose least exponent is lmin. -/
def packMag (mb : Nat) (lmin : Int) (q : Nat) (l : Int) : Nat := q + (l - lmin).toNat * 2 ^ mb

/-- Convert an exact finite value to format c with a choice of rounding: `draw` none is nearest even (R125, R183), a
draw is stochastic (R184). -/
def convFin (c : Nat) (neg : Bool) (v : Dy) (draw : Option Nat) : Conv :=
  let (eb, mb, bias) := fmtShape c
  let sign := if neg then 2 ^ (eb + mb) else 0
  if v.m == 0 then ⟨sign, false, false⟩
  else
    let lmin : Int := 1 - bias - mb
    let mag := v.m.natAbs
    let near := roundMag (mb + 1) lmin mag v.e
    let pat := match draw with
      | none => packMag mb lmin near.1 near.2
      | some r =>
          let l := max (v.e + (Nat.log2 mag + 1 : Nat) - (mb + 1 : Nat)) lmin
          if l ≤ v.e then packMag mb lmin near.1 near.2
          else
            let d := 2 ^ (l - v.e).toNat
            let lo := packMag mb lmin (mag / d) l
            if mag % d != 0 && r * d < (mag % d) * 2 ^ 32 && lo != fmtMax c then lo + 1 else
              if lo == fmtMax c then packMag mb lmin near.1 near.2 else lo
    if pat > fmtMax c then
      if c == 2 then ⟨sign + 0x7F80, false, true⟩
      else if c == 1 then ⟨sign + 0x7F800000, false, true⟩
      else ⟨sign + fmtMax c, true, false⟩
    else ⟨sign + pat, false, false⟩

/-- Convert an FP32 value to an output format of codes 0x01 to 0x04 (R125). -/
def convF32 (c : Nat) (x : BitVec 32) (draw : Option Nat) : Conv :=
  if c == 1 then ⟨x.toNat, false, !(f32 x).isFin⟩
  else match f32 x with
    | .fin n v => convFin c n v draw
    | .inf n =>
        let s := if n then 1 else 0
        match c with
        | 2 => ⟨s * 0x8000 + 0x7F80, false, true⟩
        | 4 => ⟨s * 0x80 + 0x7C, false, true⟩
        | _ => ⟨s * 0x80 + 0x7F, false, true⟩
    | .nan n =>
        let s := if n then 1 else 0
        if c == 2 then ⟨s * 0x8000 + 0x7FC0, false, true⟩ else ⟨s * 0x80 + 0x7F, false, true⟩

/-- Nearest-even BF16 of an FP32 value as the VADD atomic stores it (R284). -/
def bf16 (x : BitVec 32) : Nat := (convF32 2 x none).bits

def ofBf16 (n : Nat) : BitVec 32 := BitVec.ofNat 32 (n * 65536)

/-- The scale byte of a block of MX elements to be stored (R185): the largest exponent less emax, biased, clamped. -/
def mxScale (c : Nat) (xs : List (BitVec 32)) : Nat :=
  if xs.any (fun x => !(f32 x).isFin) then 0xFF
  else
    let top := xs.foldl (fun (t : Option Int) x =>
      let v := (f32 x).val
      if v.m == 0 then t
      else
        let e := v.e + (Nat.log2 v.m.natAbs : Nat)
        match t with
        | none => some e
        | some u => some (max e u)) none
    match top with
    | none => 0x7F
    | some e =>
        let emax : Int := match c with
          | 5 => 8 | 6 => 15 | 7 => 4 | _ => 2
        let s := e - emax + 127
        if s < 0 then 0 else if s > 254 then 254 else s.toNat

/-- One element of an MX block under its scale (R183, R184, R185): beyond the largest finite magnitude after scaling it
saturates, and counts. -/
def convMx (c scale : Nat) (x : BitVec 32) (draw : Option Nat) : Conv :=
  if scale == 0xFF then ⟨0, false, true⟩
  else match f32 x with
    | .fin n v =>
        let y : Dy := ⟨v.m, v.e - ((scale : Int) - 127)⟩
        let (eb, mb, _) := fmtShape c
        if Dy.lt (decodeElem c (fmtMax c)).val.abs y.abs then ⟨(if n then 2 ^ (eb + mb) else 0) + fmtMax c, true, false⟩
        else convFin c n y draw
    | _ => ⟨0, false, true⟩

/-- The stochastic-rounding draw of element i of stream j (R184). -/
def srDraw (seed i j : Nat) : Nat :=
  let m := 2 ^ 64
  let x := Nat.xor (seed * 2 ^ 32 + i) (j * 2 ^ 61 % m)
  let x := Nat.xor x (x / 2 ^ 30)
  let x := x * 0xBF58476D1CE4E5B9 % m
  let x := Nat.xor x (x / 2 ^ 27)
  let x := x * 0x94D049BB133111EB % m
  let x := Nat.xor x (x / 2 ^ 31)
  x / 2 ^ 32

end Sys2Proof.Machine
end

