-- ==== Sys2Proof/Machine/State.lean ====
section
/-! DEFINITION. The state of one YX3: every register, record, buffer, queue, mode and pin the manual gives it,
as plain data, and State.reset. Field defaults are the values at power-up (R486); docstrings cite the rule. -/

namespace Sys2Proof.Machine

/-- The completion status codes of R3. -/
inductive Status where
  | ok
  | okDefaultRow
  | retry
  | poisoned
  | accessRevoked
  | rightsFault
  | translationFault
  | quotaExceeded
  | versionConflict
  | tierFallback
  | unconfirmedRetracted
  | nodeUnreachable
  | authFailed
  | counterStale
  | checkMismatch
  | domainDown
  | jobEnded
deriving DecidableEq, Repr

/-- Why a command would stop the machine: no rule stops it, so there is no constructor, and no meaning ends in a fault
(log entry 4). -/
inductive Fault where
deriving DecidableEq, Repr

/-- Why a command has no meaning in this model. -/
inductive Refusal where
  /-- Raised by an arm of exec whose command has no meaning yet. Safe: the model stops. -/
  | notModelled (mnemonic : String)
deriving DecidableEq, Repr

/-- 0xFFFF_FFFF_FFFF: no course has begun (R33). -/
def noCourse : Nat := 0xFFFF_FFFF_FFFF

/-! ### What leaves the device -/

/-- Who a message of the device goes to. -/
inductive Party where
  | host (p : Nat)                       -- the host at eave port p
  | companion (e : Half) (hv : Bool)     -- the companion, on end e while it is up (R298)
  | node (n sid : Nat)                   -- source sid of node n, by the fabric
  | mgmt (path : Path) (src : Nat)
  | agent (a : Nat)
  | self (sid : Nat)                     -- a unit of this device
deriving DecidableEq, Repr

/-- A 4 KiB block as it travels (R207, R210, R317). -/
structure Blk where
  data : Bytes
  poison : Nat                     -- bit i: line i
  spar : Spar
  st : Nat := 0
  void : Bool := false
  ck : Option CheckId := none
  fell : Bool := false             -- read from a fallback copy, whose tag gives its element format (R204)
deriving DecidableEq, Repr

/-- The fields of a response (R294, R312); `blks` holds the blocks of a bulk answer. -/
structure Reply where
  tag : Nat := 0
  status : Status := .ok
  fault : Nat := 0
  sv : Bool := false
  stall : Nat := 0
  ld : Nat := 0
  data : Bytes := []
  tg : Nat := 0
  pz : Nat := 0
  u : Bool := false
  ck : CheckId := ⟨0, 0⟩
  loc : Option Nat := none
  seg : Nat := 0
  last : Bool := true
  st : Nat := 0
  spar : Option Spar := none
  grant : Nat := 0
  version : Option Nat := none
  blks : List Blk := []
deriving DecidableEq, Repr

/-- The reply to a dictionary request (R436, R439). -/
structure WReply where
  tag : Nat
  index : Nat
  sub : Nat
  status : Status
  detail : Nat := 0
  fault : Nat := 0
  offset : Nat := 0
  total : Nat := 0
  data : Bytes := []
deriving DecidableEq, Repr

/-- The body of a message the device sends on the fabric, to an eave host or on the Geled Link (R295, R314). -/
inductive Msg where
  | request (op : MemOp) (q : Req)
  | publish (q : Req) (region version : Nat)     -- PUB, with its body (R262)
  | caprel (src sid job tag : Nat) (status : Status)
  | mem (r : Reply)
  | bdata (r : Reply)
  | bdone (r : Reply)
  | data (line : Nat) (r : Reply)
  | ack (line : Nat) (r : Reply)
  | snoop (agentTag op line : Nat)
  | job (cls : EngClass) (ctx job tag : Nat) (desc : Bytes) (issuer : Party)
  | part (x : Part) (seg : Nat) (last : Bool) (data : Bytes)               -- a segment; its entries are in data
  | partAnswer (x : PartAnswer) (seg : Nat) (last : Bool) (data : Bytes)
  | onward (t : Transit) (x : Inner) (seg : Nat) (last : Bool) (data : Bytes)  -- what another node sent, unchanged
  | rowUpdate (x : RowUpdate)
  | completion (cls : EngClass) (tag : Nat) (rec : Bytes)
  | report (rec : Bytes)
  | invAck (status : Status) (seq : Nat)
  | integrity (op reason ctx job node serial course : Nat)
  | coordination (kind ans t n ga : Nat)
  | fenceDone (pages ga : Nat) (drops : List (Nat × Nat))
  | portState (node : Nat) (up : Bool) (rcvd : Nat)
  | batchAck (bseq : Nat)
  | endLost (lost : Half) (fseq : Nat)
  | register (tag : Nat) (status : Status) (data : BitVec 32)
  | mailbox (tag : Nat) (r : WReply)
  | mailboxRetry (tag : Nat)
  | hint (payload : Bytes)
deriving DecidableEq, Repr

/-- A packet on a fabric port: where it goes, and the header bits the switch itself reads or writes. -/
structure Pkt where
  dst : Nat                        -- destination node; 0x3FFF for the host at an eave port
  sid : Nat := 0
  vc : Nat
  units : Nat
  rl : Bool := false
  hop : Nat := 0
  m : Msg
deriving DecidableEq, Repr

/-- The messages, packets and signals the device sends. -/
inductive Out where
  | port (p : Nat) (x : Pkt)
  | batch (p far bseq vc : Nat) (inner : List Pkt)
  | credits (p : Nat) (cr : List Nat)
  | geled (e : Half) (hv : Bool) (m : Msg)
  | control (l : Link) (ack : Nat) (nk : Bool)   -- ack and nk of the control words from now on (R342, R344)
  | agent (a : Nat) (m : Msg)            -- a snoop or DOWN to a caching agent of this device
  | presence (e : Half) (fseq tag : Nat) (hit valid : Bool)
  | frameCredits (e : Half) (cr : List Nat)
  | geledInit (e : Half) (node stepping width : Nat) (cr : List Nat) (fseq : Nat)
  | lane (l : Link) (typ log phy sw : Nat) (txp : List Nat)
  | flash (l : Link) (seq : Nat) (replay : Bool)
  | lease (dest holder : Half) (seq course : Nat)
  | heartbeat (dest : Half)
  | waest (path : Path) (src : Nat) (r : WReply)
  | announce (port sub seq : Nat)
  | spdm (eid code param : Nat) (data : Bytes)
  | mctp (dest cmd cc : Nat) (data : Bytes)
  | debug (v : Nat)
  | shelfGrant (node : Nat) (payload : Bytes)
deriving DecidableEq, Repr

/-! ### Courses (R26 to R43) -/

/-- An event that a command has put on a half's list for a course boundary (R38, R40); the other events of R40 follow
from the state of what they concern. -/
inductive Ev where
  | slate (course : Nat)
  | firmware (course : Nat)
  | admission (course : Nat)
deriving DecidableEq, Repr

/-! ### Address space (R44 to R74) -/

/-- A context descriptor, index 0x3000 + c (R49, R83, R336). -/
structure Ctx where
  on : Bool := false
  s1root : Nat := 0
  s1geo : Nat := 0
  s2root : Nat := 0
  s2geo : Nat := 0
  mask : Nat := 0
  lastFault : Nat := 0
  lastVa : Nat := 0
  faults : Nat := 0
  nearQuota : Nat := 0
  bulkQuota : Nat := 0
  bulkUsed : Nat := 0
  flags : Nat := 0
  promRefused : Nat := 0
  bucketRate : Nat := 0
deriving DecidableEq, Repr

/-- An extent record, index 0x3400 + n (R68), with what its revocation collects (R71, R73). -/
structure Extent where
  state : Nat := 0
  ctx : Nat := 0
  base : Nat := 0
  pages : Nat := 0
  grantNode : Nat := 0
  revokeNode : Nat := 0x3FFF
  late : Nat := 0
  path : Nat := 0
  zero : Bool := false
  stamp : Nat := 0
  course : Nat := 0
  drops : Tbl Nat Nat := []        -- dropped writes by job
  ended : Nat := 0
  dirty : Nat := 0
  reportSeq : Nat := 0
  holders : List (Nat × Nat) := [] -- pages whose placed copies or blocks are still being fenced, with their holders (R41, R95)
deriving DecidableEq, Repr

/-- An extent granted on a shelf this device owns (R84). -/
structure ShelfGrant where
  node : Nat
  ctx : Nat
  base : Nat
  pages : Nat
deriving DecidableEq, Repr

/-- A combined VA-to-GA translation in a cache (R57, R62). -/
structure Tlb where
  ctx : Nat
  vpage : Nat
  size : Nat                       -- log2 of the translated page size
  ga : Nat
  rights : Nat                     -- bit 0 R, bit 1 W, bit 2 A
  s1rights : Nat
  s1level : Nat
  s2level : Nat
  gen : Nat                        -- identifies the entry to invalidations
deriving DecidableEq, Repr

/-- An invalidation that is not yet acknowledged (R65). -/
structure Inv where
  dest : Party
  seq : Nat
  gens : List Nat                  -- the entries it dropped
  reject : Bool
  far : Option (Half × Nat × Nat × Nat × Nat) := none  -- not yet done in this half, for want of the purlin: op, context, address, pages
deriving DecidableEq, Repr

/-- A region record, index 0x3C00 + r (R80). -/
structure Region where
  cls : Nat := 0                   -- class; while draining, the class it drains from
  ctx : Nat := 0
  base : Nat := 0
  pages : Nat := 0
  drain : Option Nat := none       -- the class it drains to; 0 is free (R81)
deriving DecidableEq, Repr

/-- A counter word (R85); `snap`, `snapCand` and `snapWeight` are its fields in the last snapshot (R87). -/
structure Counter where
  count : Nat := 0
  cand : Nat := 0
  weight : Nat := 0
  placed : Bool := false
  snap : Nat := 0
  snapCand : Nat := 0              -- cand and weight in that snapshot
  snapWeight : Nat := 0
deriving DecidableEq, Repr

/-- A placed copy held here (R77): the page's home GA, its context and its frame. -/
structure Placed where
  ctx : Nat
  frame : Nat                      -- near offset of the 64 KiB frame
  live : Bool := false             -- the move has committed: accesses that enter here use it
  cls : Nat := 2                   -- class of the page's region at another device's home (R78)
  drain : Bool := false            -- its region drains there (R81)
  src : Nat := 0                   -- the device that asked for the space
deriving DecidableEq, Repr

/-- A page being moved from here (R91). `phase` 0: space asked for; 1: copying; 2: copied; 3: in switchover. -/
structure PMove where
  page : Nat                       -- home GA of the page, >> 16
  ctx : Nat
  dest : Nat                       -- node; the home's own number for a demotion
  demote : Bool
  phase : Nat := 0
  dirty : List Nat := []           -- lines written since they were copied
  deferrals : Nat := 0
  accepted : Bool := false         -- space granted
  left : Nat := 0                  -- reads and writes of its copy not yet answered
  hinted : Bool := false           -- a hint chose it (R105)
deriving DecidableEq, Repr

/-- A fence that a page's home has raised on the copies and row blocks of a page range held here (R41, R95). -/
structure PFence where
  src : Nat                        -- the home, or the device that owns its shelf
  base : Nat                       -- GA of the first page
  pages : Nat
  drops : Tbl Nat Nat := []        -- dropped writes by job; dirty lines of agents under 0xFFFF
deriving DecidableEq, Repr

/-- A placement hint (R96). -/
structure Hint where
  ctx : Nat
  target : Nat
  page : Nat
  pages : Nat
deriving DecidableEq, Repr

/-- A fallback record, index 0x3E00 + k (R102). -/
structure Fallback where
  ctx : Nat
  base : Nat
  pages : Nat
  copy : Nat
  ratio : Nat
deriving DecidableEq, Repr

/-! ### Yealm tables (R108 to R145) -/

/-- A shard map entry (R111). -/
structure Shard where
  first : Nat
  node : Nat
  base : Nat
deriving DecidableEq, Repr

/-- A table record (R108, R115). -/
structure Table where
  state : Nat := 1
  ctx : Nat
  tag : Nat
  rows : Nat
  rowlog : Nat
  fmt : Nat
  dim : Nat
  flags : Nat
  scale : BitVec 32
  shards : List Shard
  spillBase : Nat
  frames : Nat
  defaultRow : Bytes
deriving DecidableEq, Repr

/-- Where a row block is (R144): a node and, on this device, the offset of the block there. `learned` marks an
override that an answer taught an entry device. -/
structure Over where
  node : Nat
  off : Nat
  learned : Bool
  live : Bool := true              -- at a spill frame: the switch has been seen
deriving DecidableEq, Repr

/-- A block load word (R141) with the count of the last snapshot. -/
structure Load where
  count : Nat := 0
  heat : Nat := 0
  moved : Bool := false
  snap : Nat := 0
deriving DecidableEq, Repr

/-- A row block being moved from here (R143). `phase` 0: frame asked for; 1: copying; 2: copied and replayed; 3: in
switchover. -/
structure RMove where
  t : Nat
  b : Nat
  dest : Nat                       -- node
  frame : Nat                      -- offset at the destination when it is this device
  phase : Nat := 0
  marks : List Nat := []           -- rows updated since they were copied
  deferrals : Nat := 0
  back : Bool := false             -- a return to the origin
  accepted : Bool := false         -- frame granted
  left : Nat := 0                  -- reads and writes of its copy not yet answered
deriving DecidableEq, Repr

/-- A controller's selection of hot blocks while it waits for a frame answer (R142). -/
structure RLoop where
  budget : Nat
  proj : Nat
  limit : Nat
  mean : Nat
  left : List (Nat × Nat)          -- table and block, hottest first
deriving DecidableEq, Repr

/-- A staged row (R136 to R139). -/
structure Staged where
  t : Nat
  row : Nat
  off : Nat                        -- near offset of the row
  size : Nat
  ctx : Nat
  job : Nat
  ticket : Nat                     -- 0: unprotected
  boundaries : Nat                 -- boundaries since staging
  engine : Nat                     -- whose share of the pool holds it
deriving DecidableEq, Repr

/-- The lowest scatter-set stamp kept for a row in the course (R129). -/
structure Stamp where
  src : Nat
  seq : Nat
  pos : Nat
  job : Nat
  stack : Nat                      -- of the controller that keeps it
deriving DecidableEq, Repr

/-! ### Blocks and integrity (R200 to R237) -/

/-- The metadata word of a 4 KiB block (R201); the default is the word of R237. -/
structure Meta where
  crc : BitVec 32 := 0
  tag : Nat := 0
  st : Nat := 0                    -- 0 confirmed, 1 unconfirmed, 2 retracted
  hold : Nat := 0
  void : Bool := true
deriving DecidableEq, Repr

/-- A job record (R216, R235). -/
structure Job where
  ended : Bool := false
  reason : Nat := 0
  course : Nat := noCourse
  used : Nat := 0                  -- order of last use
  endedAt : Nat := 0               -- order of ending
deriving DecidableEq, Repr

/-- A hold group (R224). `phase` 0: open; 1: closed, confirmed, its confirm messages still to be sent. -/
structure Group where
  ctx : Nat
  job : Nat
  serial : Nat
  phase : Nat := 0
  deps : List CheckId := []
  pending : Nat := 0
  receivers : List Nat := []
  blocks : List Nat := []
deriving DecidableEq, Repr

/-- Where the answer to a request goes when it completes. -/
inductive Origin where
  | host (dest : Party)                 -- it entered here from a host: entry completion, then the host
  | remote (dest : Party)               -- it entered at another node: the answer goes there
  | shelfRead (dest : Party) (tag : Nat)    -- a coherent request sent on to an owned shelf as a plain read (R238)
  | engine (e : Engine) (key : Nat)     -- an engine of this device
  | walk (id : Nat)                     -- a table walk of this device (R56)
  | copy (page blk : Nat)               -- blocks of a placement copy, from 4 KiB block `blk` of the page on
  | rowCopy (t b at' : Nat)             -- bytes of a row block's copy, from its byte `at'` on
  | front (id key : Nat)                -- the front end that dispatches a descriptor (R97, R121)
  | load (i : Nat)                      -- an admission load (R390)
  | probe (h : Half)
  | device                              -- other traffic of this device; nobody waits
deriving DecidableEq, Repr

/-- A request inside the device: the packet, the GA translation gave it, and where its answer goes. -/
structure Acc where
  op : MemOp
  q : Req
  ga : Nat := 0
  org : Origin
  issue : Nat := 0                      -- issue order within its source and job (R280)
  region : Nat := 0                     -- a publish's region and version (R262)
  version : Nat := 0
  gens : List Nat := []                 -- the cached translation it used (R65)
  waited : Bool := false                -- it waited at this device (R333)
  cause : Nat := 1                      -- stall cause of that wait (R99)
  hold : Bool := false                  -- a held write being applied, or a released cap: not held again
  passed : Bool := false                -- it has passed the fence of stage 5 (R71)
  fell : Bool := false                  -- a read of a fallback copy in place of its own range (R103)
deriving DecidableEq, Repr

/-- A write or publish in the held-write buffer (R226, R262): it takes `bytes` of it. -/
structure Held where
  acc : Acc
  bytes : Nat
  released : Bool := true          -- a publish: every earlier write of its source and job has landed
deriving DecidableEq, Repr

/-- A write answered RETRY (R276). -/
structure Retried where
  src : Nat
  sid : Nat
  ctx : Nat
  job : Nat
  tag : Nat
  ga : Nat
deriving DecidableEq, Repr

/-- A spar mismatch record (R205). -/
structure Mismatch where
  src : Nat
  sid : Nat
  tag : Nat
  block : Nat
deriving DecidableEq, Repr

/-- A course commit that waits for the job's open group (R229). -/
structure CommitWait where
  ctx : Nat
  job : Nat
  course : Nat
  reply : Option Pdu                   -- the command to answer; none for a message
deriving DecidableEq, Repr

/-- A request that waits under R230: for a dependency slot, a receiver slot or a free group. `reply` is the answer
that cannot yet be taken; without one the request itself waits, at its home or at its entry. -/
structure GroupWait where
  acc : Acc
  reply : Option Reply
  atHome : Bool
deriving DecidableEq, Repr

/-- The outstanding writes of one source and job at the entry device (R279, R280). -/
structure SrcJob where
  out : List (Nat × Nat) := []         -- tag and issue number of each write outstanding
  next : Nat := 0
  fails : List (Nat × Status) := []    -- writes that completed in class T or F, by issue number
  lastCap : Option Nat := none         -- issue number of the capping write or publish released last
  caps : List (Nat × Nat × Nat) := []  -- capping writes or publishes not released: tag, issue number, destination
deriving DecidableEq, Repr

/-! ### The ridge (R238 to R268) -/

/-- A directory entry (R242): st 1 Shared one sharer, 2 Shared group, 3 Exclusive, 4 Modified, 5 and 6
Recall-pending; `use` orders entries by last use (R249). -/
structure Entry where
  st : Nat
  shr : Nat
  use : Nat := 0
deriving DecidableEq, Repr

/-- What a line's snoops are for (R247). -/
inductive Why where
  | coherent (a : Acc) (agent : Nat)
  | access (id : Nat)
  | version (a : Acc) (region version : Nat)
  | overflow
  | fence (n : Nat)
  | placeFence (page : Nat)             -- of a placed copy, by its home (R95)
  | move
  | deregister (a : Nat)
  | entryError
  | defineRegion (p : Nat)
deriving DecidableEq, Repr

/-- An operation in the pending table (R247, R250). -/
structure Pend where
  snp : Nat                        -- 8 SNPS, 9 SNPI, 0xA SNPR
  await : List Nat                 -- agents whose SRSP is awaited
  hit : Bool := false
  dirty : Option (Bytes × Bool) := none
  wbd : List Nat := []             -- agents whose WBD stood for the SRSP's data (R246)
  old : Entry
  why : Why
  resent : Bool := false
  discard : Bool := false          -- dirty data is dropped (R254)
  stamp : Nat := 0                 -- core cycle its snoops were last sent (R250)
deriving DecidableEq, Repr

/-- An Aged request in the queue (R252). -/
structure Aged where
  line : Nat
  src : Nat
  sid : Nat
  tag : Nat
  head : Bool := false
  since : Nat := 0                 -- core cycle from which its arrival is awaited
deriving DecidableEq, Repr

/-- An agent record (R240). -/
structure Agent where
  state : Nat := 0
  node : Nat := 0x3FFF
  tag : Nat := 0
  timeouts : Nat := 0
  snoops : Nat := 0
  port : Option Nat := none        -- the eave port an agent of this device was last heard on
deriving DecidableEq, Repr

/-- A publication region (R260). -/
structure PubRegion where
  ctx : Nat
  base : Nat
  pages : Nat
  version : Nat
  accepted : Nat := 0
  conflicts : Nat := 0
deriving DecidableEq, Repr

/-! ### Requests in flight and engines -/

/-- An access at the ridge that waits for the snoops of some of its lines (R247). -/
structure Blocked where
  acc : Acc
  off : Nat                        -- near offset of its first byte
  waits : List Nat                 -- lines whose snoops are outstanding
  read : List Nat := []            -- lines a non-allocating read has already snooped
deriving DecidableEq, Repr

/-- A request waiting for a table walk (R56): the table entries read so far by GA, and the GA asked for. -/
structure Walk where
  acc : Acc
  got : List (Nat × Bytes) := []
  fail : Option (Nat × Nat) := none  -- the entry whose read failed, and the fault code (R56)
  await : Option Nat := none
deriving DecidableEq, Repr

/-- A request this device has outstanding to another node (R279, R330, R334). -/
structure OutReq where
  acc : Acc
  node : Nat                       -- destination
  tag : Nat
  sid : Nat
  issued : Nat                     -- core cycle it reached stage 3
  sent : Bool := true              -- false: still in the switch
  cause : Option Nat := none       -- counted as a stall of this cause
  joined : List Acc := []          -- joined to it, in arrival order (R328)
  fell : Bool := false             -- answered from the fallback path
  again : Bool := false            -- already resent to the home (R93)
  reread : Bool := false           -- a bulk read already sent again for a crc mismatch (R206)
  segs : List Rsp := []            -- segments of a bulk answer so far (R317)
deriving DecidableEq, Repr

/-- A bulk write arriving: its segments and the blocks not performed (R205, R317). -/
structure BputRx where
  segs : List Req := []
  mask : Nat := 0
  status : Status := .ok
  waiting : Nat := 0               -- blocks performed later than their arrival
  blocks : Nat := 0
  lastSeen : Bool := false
  sv : Bool := false
  stall : Nat := 0
deriving DecidableEq, Repr

/-- A part that its node has not answered yet (R121, R144). -/
structure PartOut where
  no : Nat
  node : Nat
  tag : Nat
  entries : List PartEntry
  again : Bool := false            -- sent again after a stale location
  sent : Bool := true              -- not while its node's window or a change of route holds it back
deriving DecidableEq, Repr

/-- What a yealm descriptor or part keeps while it runs (R121 to R133). -/
structure YRun where
  split : Bool := false            -- the indices have been classified and split
  ents : List PartEntry := []      -- rows this engine reads itself, numbered from 0
  todo : List Nat := []            -- numbers of those not yet asked for (R140)
  left : List Nat := []            -- numbers of those not yet whole
  chunks : List (Nat × Bytes) := []    -- pieces of rows by key
  parts : List PartOut := []       -- parts unanswered
  panels : Nat := 0                -- panels of a gather-fed job handed over (R166)
  acc : List (Nat × Nat × List (BitVec 32)) := []        -- bag, rows in it, accumulator
  updates : List Nat := []         -- row updates unanswered
  loc : Option Nat := none         -- a moved block's location, for the answer of a part
  missing : Nat := 0
  negative : Nat := 0
  outRange : Nat := 0
  unreach : Nat := 0
  fallback : Nat := 0
  staged : Nat := 0
  dropped : Nat := 0
  conflicts : Nat := 0
  empty : Nat := 0
  saturated : Nat := 0
  prefetched : Nat := 0
deriving DecidableEq, Repr

/-- The checker's quantities for a unit (R217). -/
structure Chk where
  cs : List (BitVec 32) := []
  cabs : List (BitVec 32) := []
  rs : List (BitVec 32) := []
  rabs : List (BitVec 32) := []
  na : List (BitVec 32) := []
  nb : List (BitVec 32) := []
  nin : Nat := 0
deriving DecidableEq, Repr

/-- An output unit in a tile's accumulators (R158, R220). -/
structure OutUnit where
  p : Nat
  n : Nat
  rows : Nat
  acc : List (List (BitVec 32))
  parts : List (List (List (BitVec 32))) := []   -- members' partials added to it, in arrival order (R163)
  chk : Chk := {}
  waiting : Nat := 0               -- partials not yet arrived from gang members
  sums : Bool := false             -- members' partials are added to it
  checked : Bool := false          -- the tile's own partial has passed its check (R219)
  summed : Bool := false           -- a sub-leader's sum has passed its check (R219)
  drained : Nat := 0               -- blocks that have left the device before the verdict
  pends : Bool := false            -- counted in the group's pending count (R224)
  recompute : Option Nat := none   -- the tile that recomputes it (R221)
deriving DecidableEq, Repr

/-- What a tile job keeps while it runs (R158 to R172). -/
structure TRun where
  leader : Nat := 0                -- where this tile's partials go; its own number for the leader
  top : Bool := true               -- the leader of the job
  active : List Nat := []          -- leader: members still at work
  used : Nat := 1
  reduce : Bool := false           -- units are reduced at the leader (R163, R164)
  ks : List Nat := []              -- 256-element strips of K this tile computes
  share : List (Nat × Nat) := []   -- units this tile computes
  units : List (Nat × Nat) := []   -- units still to do, in order
  owed : List (Nat × Nat) := []    -- units begun on another tile, already in the group's pending count (R224)
  unit : Option OutUnit := none
  fedAsked : Bool := false
  fedOut : List (Nat × Bytes) := []  -- panels the gather has completed (R166)
  slots : List (Nat × Bytes) := [] -- gather-fed panels delivered to the two slots
  start : Option Nat := none
  written : Nat := 0
  remote : Nat := 0
  nonfinite : Nat := 0
  saturated : Nat := 0
  dropped : Nat := 0
  resumed : Nat := 0
  gidx : Nat := 0
  gdef : Nat := 0
  gfall : Nat := 0
  gempty : Nat := 0
deriving DecidableEq, Repr

/-- What an update program keeps while it runs (R182 to R195). -/
structure URun where
  window : Nat := 0                -- windows complete
  writing : Bool := false          -- the window is computed and its blocks are being written
  slots : List (List (BitVec 32)) := []   -- 512 lane partials of slots 0 and 1
  crc : BitVec 32 := 0xFFFF_FFFF
  next : List (List (BitVec 32)) := []    -- the same after the window in progress
  nextCrc : BitVec 32 := 0xFFFF_FFFF
  stream : Nat := 0xFF             -- faulting stream
  scales : Tbl Nat Bytes := []     -- scale bytes an output stream's windows have put into the block now open
  start : Option Nat := none
  nonfinite : Nat := 0
  saturated : Nat := 0
  dropped : Nat := 0
deriving DecidableEq, Repr

/-- Where the results of a descriptor go: its issuer, the node that sent a part, or a tile's gather-fed panel. -/
inductive Sink where
  | host
  | part (node sid tag no : Nat)
  | panel (tile p : Nat)
  | member (leader : Nat)          -- a gang member's share
  | gang (leader : Nat)            -- the place a queued gang keeps in a member's queue (R162)
deriving DecidableEq, Repr

/-- A descriptor queued or running on an engine. -/
structure Work where
  desc : Bytes
  ctx : Nat
  job : Nat
  tag : Nat
  issuer : Party
  sink : Sink := .host
  started : Bool := false
  got : List (Nat × Blk) := []     -- blocks read so far, by VA >> 12
  await : List Nat := []           -- keys of requests not yet answered
  want : List Nat := []            -- blocks to read as soon as the engine's outstanding reads allow
  reread : List Nat := []          -- keys of blocks read again after a mismatch (R206)
  writing : Bool := false          -- results are being written
  recorded : Bool := false         -- the completion record is being written
  lastWrite : Option Nat := none   -- when the last write before that record landed
  status : Status := .ok
  fault : Nat := 0
  detail : Nat := 0
  stopped : Bool := false
  entries : List PartEntry := []   -- a part's entries
  y : YRun := {}
  t : TRun := {}
  u : URun := {}
deriving DecidableEq, Repr

/-- An engine (R366 to R374, R397): its service state, queue, test state and job list. -/
structure Eng where
  state : Nat := 0                 -- 0 in service, 1 under test, 2 out pending test, 3 out failed
  queue : List Work := []
  run : Option Work := none
  fails : Nat := 0
  checkerFirst : Bool := false
  passCourse : Nat := noCourse     -- at which the last passing test began
  due : Bool := true
  dueAt : Nat := 0
  forced : Bool := false
  doneAt : Nat := 0                -- core cycle of the last test's completion
  doneCourse : Nat := 0
  testFrom : Nat := noCourse       -- course at which the test in progress or last passed began
  override : Bool := false         -- the test in progress was asked for by R383
  jobs : List (Nat × Nat) := []
  overflow : Bool := false
  outs : List Nat := []            -- courses at which it was taken out pending test
deriving DecidableEq, Repr

/-- A descriptor at the front end, before an engine has it (R97, R121): its operand pages are being translated, its index
list read, the record of its refusal written, or no engine takes it yet. -/
structure Front where
  cls : EngClass
  w : Work
  h : Half                         -- the half whose front end has it
  forwarded : Bool
  refused : Bool := false          -- only its completion is left
  known : Tbl Nat (Option Nat) := []   -- pages translated for dispatch: VA >> 16 to GA; none where it faults
  await : List Nat := []           -- keys of requests not yet answered
deriving DecidableEq, Repr

/-- A queued gang (R162): its members in order and the work of each. -/
structure Gang where
  leader : Nat
  works : List (Nat × Work)
deriving DecidableEq, Repr

/-! ### Fabric ports and nodes (R309 to R338) -/

/-- A token bucket (R331), in bytes times the core clock: tokens are kept in 1/16 byte per core cycle. -/
structure Bucket where
  src : Nat
  ctx : Nat
  tokens : Nat
  at' : Nat
deriving DecidableEq, Repr

/-- An open batch of one channel (R324). -/
structure OpenBatch where
  vc : Nat
  inner : List Pkt
  units : Nat
  since : Nat
  closed : Bool := false           -- due to leave, waiting for credits
  bseq : Option Nat := none        -- a batch sent before, on a port that went down
deriving DecidableEq, Repr

/-- A flash kept until it is acknowledged (R344): its seq and the messages whose last unit it carries. -/
structure Flash where
  seq : Nat
  carries : List Pkt
  units : Nat
  since : Nat                      -- core cycle it was sent, or last replayed
deriving DecidableEq, Repr

/-- A lane-message request without its answer (R345). -/
structure LaneReq where
  typ : Nat
  log : Nat
  phy : Nat
  sw : Nat
deriving DecidableEq, Repr

/-- The flashing state of one link (R341 to R351). -/
structure LinkSt where
  up : Bool := false
  training : Bool := false
  width : Nat := 0
  txSeq : Nat := 0
  rxSeq : Nat := 0                 -- last flash received whole
  nk : Bool := false
  unacked : List Flash := []
  reqs : List LaneReq := []
  replays : Nat := 0               -- in this course
  wasDown : Bool := false          -- went down in this course, other than by drain
  width7 : Bool := false           -- ran at width 7 in this course
  downEdge : Bool := false         -- down at the last edge
  since : Nat := 0                 -- start of the training attempt
  planned : Bool := false          -- down, or told that it will go down, by a drain on either side (R345, R355)
deriving DecidableEq, Repr

/-- Score and clean count of a part (R376, R397). -/
structure Health where
  score : Nat := 255
  clean : Nat := 0
  expelled : Bool := false
  suspect : Bool := false
  hardDead : Bool := false
  mark : Nat := 255                -- of the course in progress
  lastMark : Nat := 255
  due : Nat := 0                   -- 1: due for expulsion since the last edge; 2: since an earlier one
  held : Bool := false             -- held by the brake since it became due
deriving DecidableEq, Repr

/-- A fabric port (R309 to R338). -/
structure Port where
  link : LinkSt := {}
  health : Health := {}
  farNode : Nat := 0x3FFF
  farRole : Nat := 0
  farValid : Bool := false
  mismatch : Bool := false
  relay : Bool := false
  draining : Bool := false         -- stops starting packets (R355)
  drained : Bool := false
  credits : List Nat := [0, 0, 0, 0]
  owed : Nat := 0                  -- units sent whose credit has not been returned
  queue : List Pkt := []           -- packets waiting for credits or for the port, in order
  sent : Nat := 0
  rcvd : Nat := 0                  -- packets received whole, modulo 2^32
  waitSince : Option Nat := none
  buckets : List Bucket := []
  batches : List OpenBatch := []
  kept : List (Nat × Nat × List Pkt) := [] -- unacknowledged batches: bseq, channel, inner packets
deriving DecidableEq, Repr

/-- What this device keeps of another node (R332, R334, R377). -/
structure Node where
  ld : Nat := 0
  win : Nat := 0x4000
  cut : Nat := 0
  grow : Nat := 0
  health : Health := {}
  probes : List Half := []         -- probes unanswered
  heard : Nat := 0                 -- core cycle of the last packet from it
deriving DecidableEq, Repr

/-- A physical lane (R348, R358). -/
structure Lane where
  st : Nat := 0                    -- 0 Off, 1 Training, 2 Standby, 3 Active, 4 Bad, 5 Retired
  logical : Nat := 0x1F
  oma : Int := 0                   -- 0.1 dBm
  trainOma : Int := 0
  step : Nat := 0                  -- training steps passed
  bads : Nat := 0
  darkCourse : Bool := false       -- dark at the last edge
  cws : Nat := 0                   -- codewords received in this course, and bytes FEC corrected in them
  corr : Nat := 0
  connector : Bool := false        -- shows the loss of R353
  health : Health := {}
deriving DecidableEq, Repr

/-- A laser module (R352, R353); `bol` and `hours` are in the module's own memory. -/
structure Module where
  st : Nat := 0                    -- 0 Absent ... 6 Out
  present : Bool := false
  enable : Bool := false           -- LAS_EN_m
  bol : List Nat := []
  bias : List Nat := []
  ratio : Nat := 0
  flagged : Bool := false
  hours : Nat := 0
  dark : Nat := 0
  temp : Nat := 0
  connector : Nat := 0
  health : Health := {}
  drainReply : Option Pdu := none
deriving DecidableEq, Repr

/-! ### The Geled Link (R290 to R308) -/

/-- What the header of a message being received says (R294). -/
structure GHead where
  cls : Nat
  op : Nat
  len : Nat
  hv : Bool
  tag : Nat := 0
deriving DecidableEq, Repr

/-- One end of the link. -/
structure GEnd where
  st : Nat := 0                    -- 0 Down, 1 Training, 2 Align, 3 Init, 4 Up
  half : Bool := false
  link : LinkSt := {}
  sent : Nat := 0
  rcvd : Nat := 0
  credits : List Nat := [0, 0, 0, 0]
  first : Bool := true             -- no Up since power-up: credits still to be set
  inits : Nat := 0                 -- consecutive init frames received
  partUnits : Nat := 0             -- units still to come of a partly received message
  partHead : Option GHead := none  -- its header
  farCredits : List Nat := [0, 0, 0, 0]
  good : Nat := 0
  upFseq : Nat := 0                -- the fseq at which the end becomes Up
  queue : List (Nat × Nat × Bool × Msg) := []  -- messages waiting: channel, units, hv, message
  log : List (Nat × Bool × Msg) := []          -- messages sent, with the fseq of their last unit (R306)
deriving DecidableEq, Repr

/-! ### Half controllers, registers -/

/-- The register window of a half (R463 to R468). -/
structure Regs where
  scratch0 : BitVec 32 := 0
  scratch1 : BitVec 32 := 0
  pair : Bool := false
  single : Bool := false
  snapSeq : Nat := 0
  evtStat : BitVec 32 := 0
  evtMask : BitVec 32 := 0
  badacc : Nat := 0
  holding : Tbl (Nat × Nat) Nat := []      -- object and subindex to its copied value
  snapCourse : Nat := 0
  snapStamp : Nat := 0
  shownPhase : Nat := 0            -- HID_STATE's copies, kept while the pair restarts (R464)
  shownDomain : Nat := 0
  shownHolder : Half := .west
  farRst : Bool := false           -- kept while the purlin is lost (R463)
deriving DecidableEq, Repr

/-- One half (R10): course view, event list, slate values in effect, ridge part, buffers, counts, lease, registers. -/
structure HalfSt where
  course : Nat := noCourse
  armed : Option Nat := none       -- announcement for the next accepted edge (R32)
  events : List Ev := []
  unacked : List Ev := []          -- those of them that the other half has not acknowledged yet (R38)
  slate : Tbl (Nat × Nat) Bytes := []
  counts : Tbl (Nat × Nat) Nat := []
  dir : Tbl Nat Entry := []
  pend : Tbl Nat Pend := []
  recalls : List (Nat × Why) := [] -- walks and recalls waiting for a pending-table entry (R250)
  aged : List Aged := []
  retried : List Retried := []     -- writes answered RETRY and not performed since (R276)
  held : List Held := []           -- held writes and publishes, in arrival order
  caps : List Acc := []            -- the cap buffer
  mismatches : List Mismatch := []
  staged : List Staged := []
  tlb : List Tlb := []             -- the shared cache of combined entries
  unitTlb : Tbl Nat (List Tlb) := []   -- the caches of engines and eave ports, by source code
  walkCache : List (Nat × Nat × Bytes) := []   -- table entries read by walks: context, GA, bytes
  redirects : Tbl Nat Nat := []
  leaseHolder : Half := .west
  leaseSeq : Nat := 1
  leaseCourse : Nat := noCourse
  running : Bool := true           -- the controller pair runs (R386)
  ctlMem : Tbl Nat Nat := []       -- what the debug port has written to the halted pair (R421)
  regs : Regs := {}
deriving DecidableEq, Repr

/-! ### Security (R399 to R426) -/

/-- A command key slot (R412). -/
structure Slot where
  key : Option Bytes := none
  scope : Nat := 0
  last : Nat := 0
  reserved : Nat := 0
  fails : Nat := 0
  throttle : Option Nat := none    -- core cycle of the latest verification while throttled
  kcv : Nat := 0
deriving DecidableEq, Repr

/-- A firmware bank (R401, R403, R406). -/
structure Bank where
  image : List (Nat × Bytes) := []  -- segments written, by offset
  verified : Bool := false
deriving DecidableEq, Repr

/-- What only ever grows: the fused revoke mask, one bit for each vendor key set, and the minimum SVN (R402, R406). -/
structure Fuses where
  revoke : Nat := 0
  minSvn : Nat := 0
deriving DecidableEq, Repr

/-- The security enclave. -/
structure Enclave where
  st : Nat := 0                    -- 0 booting, 1 operational, 2 error, 3 restarting, 4 recovery
  slots : Tbl Nat Slot := []
  banks : Bank × Bank := ({ image := [(0, Config.factoryImage)] }, {})
  active : Nat := 0
  version : Nat := 0
  svn : Nat := 0
  approvedBuild : Bool := false
  testsOk : Bool := false
  debug : Nat := 0
  lmsNext : Nat := 0
  lmsReserved : Nat := 0
  aliasGen : Nat := 0              -- counts derivations of the Alias key (R407)
deriving DecidableEq, Repr

/-! ### Management (R427 to R454) -/

/-- The body and header of a slate region (R443 to R446): `none` empty; a header is present while the region is
sealed. -/
structure SlateHdr where
  seq : Nat
  course : Nat
  crc : BitVec 32
  tag : Bytes
  bodyLen : Nat
deriving DecidableEq, Repr

structure SlateReg where
  written : Bool := false
  hdr : Option SlateHdr := none
  recs : Tbl (Nat × Nat) Bytes := []
deriving DecidableEq, Repr

/-- Slate control (R446 to R449). -/
structure Slates where
  a : SlateReg := {}
  b : SlateReg := {}
  active : Nat := 0
  seq : Nat := 0
  openSeq : Option Nat := none     -- pending sequence of the open or scheduled slate
  scheduled : Option Nat := none   -- its effective course
  writing : Option Nat := none     -- a header write is in progress; the effective course
  report : Nat := 0
  ignored : Nat := 0
deriving DecidableEq, Repr

/-- A value being reassembled (R437): its segments by offset, in arrival order. -/
structure Reasm where
  src : Path × Nat
  tag : Nat
  index : Nat
  sub : Nat
  segs : List (Nat × Bytes)
deriving DecidableEq, Repr

/-- A kept reply (R438). -/
structure Kept where
  src : Path × Nat
  kind : Nat
  tag : Nat
  index : Nat
  sub : Nat
  offset : Nat
  data : Bytes
  reply : Option WReply            -- none while the command's reply is still to come
deriving DecidableEq, Repr

/-- A gutter record (R392 to R394), without the constants of its framing. -/
structure Gutter where
  seq : Nat
  cls : Nat
  part : PartRef
  action : Nat
  flags : Nat := 0
  score : Nat := 0
  severity : Nat := 2
  course : Nat
  stamp : Nat
  ga : Nat := 0
  ctx : Nat := 0
  job : Nat := 0xFFFF
  count : Nat := 0
  detail : Bytes := []
  half : Half := .west
  readBy : Bool := false
deriving DecidableEq, Repr

/-- An announcement not yet acknowledged (R440). -/
structure Announce where
  sub : Nat
  seq : Nat
  sends : Nat
deriving DecidableEq, Repr

/-- A management port (R434). -/
structure MPort where
  up : Bool := false
  gigabit : Bool := false
deriving DecidableEq, Repr

/-- Management and MCTP state. -/
structure Mgmt where
  ports : MPort × MPort := ({}, {})
  reasm : List Reasm := []
  evicted : List Reasm := []       -- whose next segment is answered BUSY
  kept : List Kept := []
  ring : Tbl Nat Gutter := []
  nextSeq : Nat := 0
  announces : List Announce := []
  dynAddr : Nat := 0
  staticAddr : Nat := 0
  eid : Nat := 0
  update : Nat := 0                -- live update stage (R452)
  oldBank : Option Nat := none
  mailbox : List Nat := []         -- Geled tags of mailbox requests still to be answered
deriving DecidableEq, Repr

/-- An admission (R389 to R391). -/
structure Admission where
  st : Nat := 0
  partner : Nat := 0x3FFF
  course : Nat := 0
  ranges : List (Nat × Nat × Nat) := []    -- P base, R base, pages
  abandoned : Nat := 0
deriving DecidableEq, Repr

/-- Ranges this device, as P, serves for a device being admitted (R390). -/
structure Serving where
  node : Nat
  base : Nat                       -- near offset
  pages : Nat
  copied : List Nat := []          -- lines already read by R
  log : List Nat := []             -- lines written after they were copied
  switched : Bool := false
  due : Bool := false              -- the device being admitted is ready, and its course has come
deriving DecidableEq, Repr

/-- A stack (R17, R362 to R364, R471). -/
structure Stack where
  spare : Option Nat := none       -- the channel the spare replaces
  copying : Bool := false
  copied : List Nat := []          -- blocks already on the spare
  retired : List Nat := []
  scrub : Nat := 0
  passes : Nat := 0
deriving DecidableEq, Repr

/-- Power, clock and temperature monitors (R495, R497, R507). -/
structure Monitors where
  rails : List (Nat × Nat) := [(0, 0), (0, 0), (0, 0), (0, 0), (0, 0), (0, 0), (0, 0)]
  overs : List Nat := [0, 0, 0, 0, 0, 0, 0]   -- consecutive samples out of tolerance
  goodRails : Nat := 0             -- consecutive samples with every rail, and every junction, within limits
  goodHeat : Nat := 0
  power : Nat := 0
  hotWest : Int := 0
  hotEast : Int := 0
  railBit : Bool := false
  thermBit : Bool := false
  holdover : Bool := false
  therm : Bool := false            -- PWR_THERM_N asserted
  trip : Bool := false             -- PWR_TRIP_N asserted
  mfg : Bool := false              -- STP_MFG as sampled (R501)
deriving DecidableEq, Repr

/-- Work that follows from an effect inside the same command; the list is empty between commands. -/
inductive Task where
  | arrive (a : Acc)                                   -- a request reaches stage 3 here
  | home (a : Acc)                                     -- a request reaches its home half here
  | walk (id : Nat)
  | endJob (ctx job reason : Nat) (tell : Option (List Party))   -- hosts to tell; none: no message is sent
  | retract (id : CheckId)
  | confirm (id : CheckId)
  | capFree (src sid job tag : Nat) (status : Status)  -- a cap release reaches this device (R316)
  | deliver (e : Engine) (key : Nat) (r : Reply)
  | fronted (id key : Nat) (r : Reply)                 -- the same for a front end
  | post (id : Nat)                                    -- a front end goes on with a descriptor
  | wake (e : Engine)
  | behind (src sid : Nat)
  | copied (page blk : Nat) (st : Status) (blks : List Blk)        -- a read or write of a page's copy is answered
  | rowCopied (t b at' : Nat) (st : Status) (blks : List Blk)      -- the same for a row block's copy
  | loaded (i : Nat) (ga : Nat) (st : Status) (blks : List Blk)   -- a page of admission range i has been read
deriving DecidableEq, Repr

/-! ### The groups of the whole -/

/-- Beacon and course source (R26 to R43). -/
structure Courses where
  lastEdge : Option Nat := none
  stamp : Nat := 0                 -- 0x4020.03
  silentBase : Nat := 0
  silent : Bool := false
  first : Nat := noCourse          -- course s, 0x4042.02
  rejoined : Bool := false         -- the purlin came back since the last edge
deriving DecidableEq, Repr

/-- Contexts, extents, invalidations and walks (R44 to R74). -/
structure Space where
  ctxs : Tbl Nat Ctx := []
  extents : Tbl Nat Extent := []
  reports : Tbl Nat Bytes := []    -- 0x3800 + n
  reportSeq : Nat := 0
  invs : List Inv := []
  gen : Nat := 1
  walks : Tbl Nat Walk := []
  nextWalk : Nat := 0
  shelfGrants : List ShelfGrant := []
deriving DecidableEq, Repr

/-- Near memory: bytes, poison and block metadata (R17, R201, R207). -/
structure Near where
  mem : List Host.Cell := []
  clean : List Nat := []           -- lines that are not poisoned, rising
  metas : Tbl Nat Meta := []
  stackRecs : Tbl Nat Stack := []
  behind : List Acc := []          -- requests ordered after a held or waiting one of their source, in arrival order (R275)
deriving DecidableEq, Repr

/-- Placement (R75 to R107). -/
structure Placement where
  regions : Tbl Nat Region := []
  counters : Tbl Nat Counter := []
  here : Tbl Nat Placed := []      -- placed copies held here, by home page
  away : Tbl Nat Nat := []         -- this device's pages placed elsewhere: the holder
  forwards : Tbl Nat Nat := []     -- former placements: page to its new node
  moves : List PMove := []
  trims : List (Nat × Nat) := []   -- context and stack marked for trimming
  hints : List Hint := []          -- oldest first
  fallbacks : Tbl Nat Fallback := []
  state : Nat := 0                 -- 0x4042.01 (R105)
  backs : Tbl Nat (List Nat) := [] -- blocks of a page placed elsewhere that its holder has written back; 16: all are sent
  fences : List PFence := []
  waiting : List Task := []        -- requests that wait for a switchover, or for the old route (R91, R94, R143)
  loops : Tbl Nat (Nat × List Nat) := []  -- controllers whose selection waits for a space answer: budget, pages left (R88)
deriving DecidableEq, Repr

/-- Embedding tables (R108 to R145). -/
structure Yilx where
  tables : Tbl Nat Table := []
  overs : Tbl (Nat × Nat) Over := []
  forwards : Tbl (Nat × Nat) Nat := []
  loads : Tbl (Nat × Nat) Load := []
  spills : Tbl (Nat × Nat) (Nat × Nat) := []   -- table and frame number to the table and block held there
  moves : List RMove := []
  stamps : Tbl (Nat × Nat) Stamp := []
  loops : Tbl Nat RLoop := []      -- controllers whose selection waits for a frame answer
deriving DecidableEq, Repr

/-- Jobs and hold groups (R200 to R237). -/
structure Integrity where
  jobs : Tbl (Nat × Nat) Job := []
  groups : Tbl Nat Group := []
  nextSerial : Nat := 0
  retracted : List CheckId := []   -- IDs known to be retracted (R226)
  clock : Nat := 0                 -- orders the uses of job records
  commits : List CommitWait := []
  waits : List GroupWait := []
  sources : Tbl (Nat × Nat × Nat) SrcJob := []   -- source, context, job
  retracts : List (CheckId × Nat × Nat × Nat) := []   -- retracts to be sent behind earlier writes: ID, context, job, receiver
deriving DecidableEq, Repr

/-- The coherent domain (R238 to R268); the directory is in the halves. -/
structure Ridge where
  agents : Tbl Nat Agent := []
  regions : Tbl Nat PubRegion := []
  filter : Tbl Nat Nat := []       -- the west end's presence filter copy: counter number to value
  filterEast : Tbl Nat Nat := []   -- the east end's copy
  downLines : List Nat := []       -- lines to poison when the domain is rebuilt
  mode : Nat := 0                  -- 0 Down, 1 Strict, 2 Service
  cause : Nat := 1
  rebuild : Option (Pdu) := none
  lru : Nat := 0
  blocked : Tbl Nat Blocked := []
  nextId : Nat := 0
deriving DecidableEq, Repr

/-- Engines and the requests this device has outstanding. -/
structure Engines where
  outs : List OutReq := []
  nextTag : Nat := 0
  tiles : Tbl Nat Eng := []
  yealms : Tbl Nat Eng := []
  updates : Tbl Nat Eng := []
  gangs : List Gang := []
  bputs : Tbl (Nat × Nat × Nat) BputRx := []   -- bulk writes arriving, by source and tag
  retries : List Acc := []         -- requests of this device answered RETRY, to be resent
  fronts : Tbl Nat Front := []
  nextFront : Nat := 0
deriving DecidableEq, Repr

/-- The fabric (R309 to R338). -/
structure Fabric where
  ports : Tbl Nat Port := []
  nodes : Tbl Nat Node := []
  members : Tbl (Nat × Nat) Bool := []   -- roof member and its peer: port up or down (R321)
  loadLevel : Nat := 0
  bseq : Nat := 0                  -- of the next batch
  changed : List Nat := []         -- nodes with requests still outstanding by an older route (R320)
  acked : List (Nat × Nat) := []   -- near node and bseq of every batch acknowledged
deriving DecidableEq, Repr

/-- Optics (R339 to R358). -/
structure Optics where
  lanes : Tbl Nat Lane := []
  modules : Tbl Nat Module := []
deriving DecidableEq, Repr

/-- The Geled Link (R290 to R308). -/
structure Geled where
  west : GEnd := {}
  east : GEnd := {}
  downSince : Option Nat := some 0
  lost : Bool := false
deriving DecidableEq, Repr

/-- Purlin, brakes and admission (R378 to R391). -/
structure Avail where
  purlinUp : Bool := true
  tries : Nat := 0
  heard : Nat × Nat := (0, 0)
  brakes : Tbl (Nat × Nat) Nat := []   -- class window to the course at which it opened
  admission : Admission := {}
  serving : List Serving := []
  tested : Bool := false           -- the first field tests have completed (R479)
  joined : Bool := false           -- joining the roof has completed (R480)
deriving DecidableEq, Repr

/-- The state of the device. -/
structure State where
  pending : List Instr := []
  out : List Out := []             -- what the last command made the device send
  todo : List Task := []           -- the model's own field: work left inside one command
  now : Nat := 0                   -- core cycles
  free : Nat := 0                  -- the model's own field: numbers the draws of free values
  phase : Nat := 0
  nodeNum : Nat := 0x3FFF
  crs : Courses := {}
  spc : Space := {}
  near : Near := {}
  plc : Placement := {}
  ylx : Yilx := {}
  itg : Integrity := {}
  rdg : Ridge := {}
  eng : Engines := {}
  fab : Fabric := {}
  opt : Optics := {}
  gel : Geled := {}
  west : HalfSt := {}
  east : HalfSt := {}
  avl : Avail := {}
  enc : Enclave := {}
  fuse : Fuses := {}
  slt : Slates := {}
  mgm : Mgmt := {}
  mon : Monitors := {}
deriving DecidableEq, Repr

/-- The device as power-up leaves it (R486): every volatile store empty, every record at its power-up value. -/
def State.reset : State := {}

end Sys2Proof.Machine
end

