-- ==== Sys2Proof/Machine/Dict.lean ====
section
/-! DEFINITION. The object dictionary's tables (R427 to R434 and every chapter's object tables): type, access and
default of each object, by ranges of index and subindex. -/

namespace Sys2Proof.Machine

/-- Object types (R428). -/
inductive Ty where
  | u8 | u16 | u32 | u64 | i32 | f32 | str | domain
deriving DecidableEq, Repr

def Ty.code : Ty → Nat
  | .u8 => 1 | .u16 => 2 | .u32 => 3 | .u64 => 4 | .i32 => 5 | .f32 => 6 | .str => 7 | .domain => 8

/-- The fixed length of a value; 0 for STR and DOMAIN. -/
def Ty.len : Ty → Nat
  | .u8 => 1 | .u16 => 2 | .u32 => 4 | .u64 => 8 | .i32 => 4 | .f32 => 4 | .str => 0 | .domain => 0

/-- Access codes (R429). -/
inductive Access where
  | const | ro | rw | rwa
deriving DecidableEq, Repr

/-- The number a describe reply carries (R436). -/
def Access.code : Access → Nat
  | .const => 0 | .ro => 1 | .rw => 2 | .rwa => 3

/-- The objects with index from `lo` to `hi` and subindex from `slo` to `shi`. -/
structure Obj where
  lo : Nat
  hi : Nat
  slo : Nat
  shi : Nat
  ty : Ty
  acc : Access
  dflt : Nat := 0
  size : Nat := 0                    -- bytes of a DOMAIN object of fixed length
deriving DecidableEq, Repr

def Obj.holds (o : Obj) (index sub : Nat) : Bool :=
  o.lo ≤ index && index ≤ o.hi && o.slo ≤ sub && sub ≤ o.shi

/-- Slated objects 0x2000 to 0x206F (R30, R64, R412, R434). -/
def slatedA : List Obj :=
  [⟨0x2000, 0x2000, 1, 1, .u16, .rwa, 0x3FFF, 0⟩,
   ⟨0x2010, 0x2011, 1, 1, .u8, .rwa, 3, 0⟩,
   ⟨0x2010, 0x2011, 2, 2, .domain, .rwa, 0, 16⟩,
   ⟨0x2010, 0x2011, 3, 3, .u8, .rwa, 0x40, 0⟩,
   ⟨0x2010, 0x2011, 4, 4, .u16, .rwa, 0xC15A, 0⟩,
   ⟨0x2012, 0x2012, 1, 4, .domain, .rwa, 0, 16⟩,
   ⟨0x2012, 0x2012, 5, 5, .u16, .rwa, 0xC15A, 0⟩,
   ⟨0x2040, 0x2040, 1, 1, .u8, .rwa, 0, 0⟩,
   ⟨0x2060, 0x2060, 1, 4, .u16, .rwa, 0x3FFF, 0⟩]

/-- Slated objects 0x2070 to 0x20C0 (R106, R145, R175, R231, R266, R289). -/
def slatedB : List Obj :=
  [⟨0x2070, 0x2070, 1, 1, .u8, .rwa, 3, 0⟩,
   ⟨0x2070, 0x2070, 2, 2, .u8, .rwa, 6, 0⟩,
   ⟨0x2070, 0x2070, 3, 3, .u16, .rwa, 0x40, 0⟩,
   ⟨0x2070, 0x2070, 4, 4, .u8, .rwa, 0x60, 0⟩,
   ⟨0x2070, 0x2070, 5, 6, .u8, .rwa, 8, 0⟩,
   ⟨0x2070, 0x2070, 8, 8, .u16, .rwa, 4, 0⟩,
   ⟨0x2070, 0x2070, 9, 9, .u16, .rwa, 16, 0⟩,
   ⟨0x2070, 0x2070, 0xA, 0xA, .u16, .rwa, 8, 0⟩,
   ⟨0x2070, 0x2070, 0xB, 0xB, .u32, .rwa, 0x1000, 0⟩,
   ⟨0x2074, 0x2074, 1, 16, .u16, .rwa, 0, 0⟩,
   ⟨0x2075, 0x2075, 1, 16, .u32, .rwa, 0, 0⟩,
   ⟨0x2080, 0x2080, 1, 1, .u8, .rwa, 7, 0⟩,
   ⟨0x2080, 0x2080, 2, 2, .u32, .rwa, 0x1000, 0⟩,
   ⟨0x2080, 0x2080, 3, 3, .u8, .rwa, 0xC, 0⟩,
   ⟨0x2080, 0x2080, 4, 4, .u16, .rwa, 4, 0⟩,
   ⟨0x2080, 0x2080, 5, 5, .u32, .rwa, 0x200, 0⟩,
   ⟨0x2080, 0x2080, 6, 6, .u8, .rwa, 4, 0⟩,
   ⟨0x2080, 0x2080, 7, 7, .u8, .rwa, 0xC, 0⟩,
   ⟨0x2080, 0x2080, 8, 8, .u8, .rwa, 7, 0⟩,
   ⟨0x2090, 0x2090, 1, 1, .u8, .rwa, 3, 0⟩,
   ⟨0x20A0, 0x20A0, 1, 1, .u8, .rwa, 3, 0⟩,
   ⟨0x20A0, 0x20A0, 2, 4, .u8, .rwa, 8, 0⟩,
   ⟨0x20B0, 0x20B0, 1, 1, .u32, .rwa, 0x10000, 0⟩,
   ⟨0x20B0, 0x20B0, 2, 2, .u8, .rwa, 1, 0⟩,
   ⟨0x20C0, 0x20C0, 1, 1, .u8, .rwa, 1, 0⟩]

/-- Slated objects 0x20D0 to 0x217F (R336, R357, R395). -/
def slatedC : List Obj :=
  [⟨0x20D0, 0x20D0, 1, 1, .u8, .rwa, 0xF, 0⟩,
   ⟨0x20D0, 0x20D0, 2, 2, .u16, .rwa, 0x7D0, 0⟩,
   ⟨0x20D0, 0x20D0, 3, 3, .u32, .rwa, 0x20000, 0⟩,
   ⟨0x20D0, 0x20D0, 4, 4, .u16, .rwa, 0x80, 0⟩,
   ⟨0x20D0, 0x20D0, 5, 5, .u8, .rwa, 8, 0⟩,
   ⟨0x20D0, 0x20D0, 6, 6, .u32, .rwa, 0x640, 0⟩,
   ⟨0x20D0, 0x20D0, 7, 7, .u16, .rwa, 0x40, 0⟩,
   ⟨0x20D0, 0x20D0, 8, 8, .u16, .rwa, 0x4000, 0⟩,
   ⟨0x20D1, 0x20D1, 1, 32, .u8, .rwa, 0, 0⟩,
   ⟨0x20E0, 0x20E0, 1, 1, .u8, .rwa, 3, 0⟩,
   ⟨0x20E0, 0x20E0, 2, 2, .u8, .rwa, 2, 0⟩,
   ⟨0x20E0, 0x20E0, 3, 3, .u8, .rwa, 0x5A, 0⟩,
   ⟨0x20E0, 0x20E0, 4, 4, .u8, .rwa, 0x14, 0⟩,
   ⟨0x20E0, 0x20E0, 5, 5, .u32, .rwa, 0x2000, 0⟩,
   ⟨0x20F0, 0x20F0, 1, 1, .u8, .rwa, 0xF, 0⟩,
   ⟨0x20F0, 0x20F0, 2, 2, .u8, .rwa, 0x20, 0⟩,
   ⟨0x20F0, 0x20F0, 3, 3, .u16, .rwa, 0x1388, 0⟩,
   ⟨0x20F0, 0x20F0, 4, 4, .u32, .rwa, 0x640, 0⟩,
   ⟨0x20F0, 0x20F0, 5, 5, .u16, .rwa, 0x80, 0⟩,
   ⟨0x20F0, 0x20F0, 6, 6, .u8, .rwa, 7, 0⟩,
   ⟨0x20F0, 0x20F0, 7, 7, .u8, .rwa, 0, 0⟩,
   ⟨0x20F0, 0x20F0, 8, 8, .u8, .rwa, 8, 0⟩,
   ⟨0x20F0, 0x20F0, 9, 9, .u8, .rwa, 0, 0⟩,
   ⟨0x20F0, 0x20F0, 0xA, 0xA, .u32, .rwa, 0x9896800, 0⟩,
   ⟨0x20F0, 0x20F0, 0xB, 0xB, .u32, .rwa, 0xF42400, 0⟩,
   ⟨0x2100, 0x217F, 1, 0x80, .u32, .rwa, 0, 0⟩]

def slated : List Obj := slatedA ++ slatedB ++ slatedC

/-- Identity and communication (R433, R434). -/
def identityObjs : List Obj :=
  [⟨0x1000, 0x1000, 1, 1, .str, .const, 0, 0⟩,
   ⟨0x1000, 0x1000, 2, 2, .u8, .const, 0x20, 0⟩,
   ⟨0x1000, 0x1000, 3, 4, .str, .const, 0, 0⟩,
   ⟨0x1000, 0x1000, 5, 5, .u16, .const, 0, 0⟩,
   ⟨0x1000, 0x1000, 6, 6, .u32, .const, 1001004, 0⟩,
   ⟨0x1000, 0x1000, 7, 7, .u16, .ro, 0x3FFF, 0⟩,
   ⟨0x1000, 0x1000, 8, 8, .u8, .ro, 0, 0⟩,
   ⟨0x1000, 0x1000, 9, 9, .u32, .const, 0x10000, 0⟩,
   ⟨0x1100, 0x1101, 1, 1, .u8, .ro, 0, 0⟩,
   ⟨0x1100, 0x1101, 2, 2, .domain, .const, 0, 6⟩,
   ⟨0x1100, 0x1101, 3, 4, .domain, .ro, 0, 16⟩,
   ⟨0x1100, 0x1101, 5, 6, .u64, .ro, 0, 0⟩,
   ⟨0x1100, 0x1101, 7, 7, .u32, .ro, 0, 0⟩,
   ⟨0x1102, 0x1102, 1, 2, .u8, .ro, 0, 0⟩,
   ⟨0x1102, 0x1102, 3, 3, .u64, .ro, 0, 0⟩]

/-- Slate control (R448). -/
def slateObjs : List Obj :=
  [⟨0x2F00, 0x2F00, 1, 1, .u8, .ro, 0, 0⟩,
   ⟨0x2F00, 0x2F00, 2, 2, .u32, .ro, 0, 0⟩,
   ⟨0x2F00, 0x2F00, 3, 3, .u8, .ro, 0, 0⟩,
   ⟨0x2F00, 0x2F00, 4, 4, .u64, .ro, 0, 0⟩,
   ⟨0x2F00, 0x2F00, 5, 5, .u8, .ro, 0, 0⟩,
   ⟨0x2F00, 0x2F00, 6, 6, .u32, .ro, 0, 0⟩,
   ⟨0x2F01, 0x2F01, 2, 3, .domain, .rwa, 0, 0⟩,
   ⟨0x2F01, 0x2F01, 4, 4, .domain, .rw, 0, 0⟩]

/-- Tenant, extent, region, table and command objects (R49, R68, R69, R71, R80, R83, R96, R102, R113, R234, R240,
R256 to R260, R336). -/
def tenantObjs : List Obj :=
  [⟨0x3000, 0x3000, 1, 1, .u8, .const, 1, 0⟩,
   ⟨0x3001, 0x33FF, 1, 1, .u8, .rwa, 0, 0⟩,
   ⟨0x3001, 0x33FF, 2, 2, .u64, .rw, 0, 0⟩,
   ⟨0x3001, 0x33FF, 3, 3, .u8, .rw, 0, 0⟩,
   ⟨0x3001, 0x33FF, 4, 4, .u64, .rwa, 0, 0⟩,
   ⟨0x3001, 0x33FF, 5, 5, .u8, .rwa, 0, 0⟩,
   ⟨0x3001, 0x33FF, 6, 6, .u64, .rwa, 0, 0⟩,
   ⟨0x3001, 0x33FF, 9, 9, .u32, .ro, 0, 0⟩,
   ⟨0x3001, 0x33FF, 0xA, 0xA, .u64, .ro, 0, 0⟩,
   ⟨0x3001, 0x33FF, 0xB, 0xB, .u32, .ro, 0, 0⟩,
   ⟨0x3001, 0x33FF, 0x10, 0x10, .u32, .rwa, 0, 0⟩,
   ⟨0x3001, 0x33FF, 0x11, 0x13, .u32, .ro, 0, 0⟩,
   ⟨0x3001, 0x33FF, 0x14, 0x14, .u32, .rwa, 0, 0⟩,
   ⟨0x3001, 0x33FF, 0x15, 0x15, .u32, .ro, 0, 0⟩,
   ⟨0x3001, 0x33FF, 0x16, 0x16, .u8, .rwa, 0, 0⟩,
   ⟨0x3001, 0x33FF, 0x17, 0x17, .u32, .ro, 0, 0⟩,
   ⟨0x3001, 0x33FF, 0x18, 0x18, .u16, .rwa, 0, 0⟩,
   ⟨0x3400, 0x37FF, 1, 1, .u8, .ro, 0, 0⟩,
   ⟨0x3400, 0x37FF, 2, 2, .u16, .ro, 0, 0⟩,
   ⟨0x3400, 0x37FF, 3, 3, .u64, .ro, 0, 0⟩,
   ⟨0x3400, 0x37FF, 4, 4, .u32, .ro, 0, 0⟩,
   ⟨0x3400, 0x37FF, 5, 5, .u16, .ro, 0, 0⟩,
   ⟨0x3400, 0x37FF, 6, 6, .u16, .ro, 0x3FFF, 0⟩,
   ⟨0x3400, 0x37FF, 7, 7, .u32, .ro, 0, 0⟩,
   ⟨0x3400, 0x37FF, 8, 8, .u8, .ro, 0, 0⟩,
   ⟨0x3800, 0x3BFF, 1, 1, .domain, .ro, 0, 0⟩,
   ⟨0x3C00, 0x3DFF, 1, 1, .u8, .ro, 0, 0⟩,
   ⟨0x3C00, 0x3DFF, 2, 2, .u16, .ro, 0, 0⟩,
   ⟨0x3C00, 0x3DFF, 3, 3, .u64, .ro, 0, 0⟩,
   ⟨0x3C00, 0x3DFF, 4, 5, .u32, .ro, 0, 0⟩,
   ⟨0x3E00, 0x3EFF, 1, 1, .u8, .ro, 0, 0⟩,
   ⟨0x3E00, 0x3EFF, 2, 2, .u16, .ro, 0, 0⟩,
   ⟨0x3E00, 0x3EFF, 3, 3, .u64, .ro, 0, 0⟩,
   ⟨0x3E00, 0x3EFF, 4, 4, .u32, .ro, 0, 0⟩,
   ⟨0x3E00, 0x3EFF, 5, 5, .u64, .ro, 0, 0⟩,
   ⟨0x3E00, 0x3EFF, 6, 6, .u8, .ro, 0, 0⟩,
   ⟨0x3F00, 0x3F00, 1, 3, .domain, .rwa, 0, 0⟩,
   ⟨0x3F10, 0x3F10, 1, 1, .domain, .rwa, 0, 0⟩,
   ⟨0x3F20, 0x3F20, 1, 2, .domain, .rwa, 0, 0⟩,
   ⟨0x3F20, 0x3F20, 3, 3, .domain, .rw, 0, 0⟩,
   ⟨0x3F30, 0x3F30, 1, 2, .domain, .rwa, 0, 0⟩,
   ⟨0x3F40, 0x3FBF, 1, 1, .u8, .ro, 0, 0⟩,
   ⟨0x3F40, 0x3FBF, 2, 2, .u16, .ro, 0, 0⟩,
   ⟨0x3F40, 0x3FBF, 3, 3, .u32, .ro, 0, 0⟩,
   ⟨0x3F40, 0x3FBF, 4, 4, .u64, .ro, 0, 0⟩,
   ⟨0x3F40, 0x3FBF, 5, 6, .u8, .ro, 0, 0⟩,
   ⟨0x3F40, 0x3FBF, 7, 7, .u16, .ro, 0, 0⟩,
   ⟨0x3F40, 0x3FBF, 8, 8, .u8, .ro, 0, 0⟩,
   ⟨0x3F40, 0x3FBF, 9, 9, .u16, .ro, 0, 0⟩,
   ⟨0x3F40, 0x3FBF, 0xA, 0xA, .u64, .ro, 0, 0⟩,
   ⟨0x3F40, 0x3FBF, 0xB, 0xD, .u32, .ro, 0, 0⟩,
   ⟨0x3FC0, 0x3FC0, 1, 3, .domain, .rw, 0, 0⟩,
   ⟨0x3FD0, 0x3FD0, 1, 64, .domain, .ro, 0, 0⟩,
   ⟨0x3FE0, 0x3FE0, 1, 128, .domain, .ro, 0, 0⟩,
   ⟨0x3FF0, 0x3FF0, 1, 6, .domain, .rwa, 0, 0⟩]

/-- Status objects 0x4020 to 0x4090 (R43, R66, R67, R107, R145, R175, R198, R236, R267). -/
def statusA : List Obj :=
  [⟨0x4020, 0x4020, 1, 1, .u64, .ro, noCourse, 0⟩,
   ⟨0x4020, 0x4020, 2, 2, .u8, .ro, 0, 0⟩,
   ⟨0x4020, 0x4020, 3, 3, .u64, .ro, 0, 0⟩,
   ⟨0x4020, 0x4020, 4, 9, .u32, .ro, 0, 0⟩,
   ⟨0x4030, 0x4030, 1, 3, .u32, .ro, 0, 0⟩,
   ⟨0x4030, 0x4030, 5, 6, .u32, .ro, 0, 0⟩,
   ⟨0x4040, 0x4041, 1, 8, .u64, .ro, 0, 0⟩,
   ⟨0x4042, 0x4042, 1, 1, .u8, .ro, 0, 0⟩,
   ⟨0x4042, 0x4042, 2, 2, .u64, .ro, noCourse, 0⟩,
   ⟨0x4042, 0x4042, 3, 0xB, .u32, .ro, 0, 0⟩,
   ⟨0x4050, 0x4050, 1, 5, .u64, .ro, 0, 0⟩,
   ⟨0x4050, 0x4050, 6, 0xE, .u32, .ro, 0, 0⟩,
   ⟨0x4060, 0x4060, 1, 4, .u64, .ro, 0, 0⟩,
   ⟨0x4060, 0x4060, 5, 7, .u32, .ro, 0, 0⟩,
   ⟨0x4070, 0x4070, 1, 2, .u64, .ro, 0, 0⟩,
   ⟨0x4070, 0x4070, 3, 5, .u32, .ro, 0, 0⟩,
   ⟨0x4080, 0x4080, 1, 1, .u64, .ro, 0, 0⟩,
   ⟨0x4080, 0x4080, 2, 4, .u32, .ro, 0, 0⟩,
   ⟨0x4080, 0x4080, 5, 5, .u64, .ro, 0, 0⟩,
   ⟨0x4080, 0x4080, 6, 0x13, .u32, .ro, 0, 0⟩,
   ⟨0x4090, 0x4090, 1, 2, .u8, .ro, 0, 0⟩,
   ⟨0x4090, 0x4090, 3, 6, .u64, .ro, 0, 0⟩,
   ⟨0x4090, 0x4090, 7, 0xD, .u32, .ro, 0, 0⟩,
   ⟨0x4090, 0x4090, 0xE, 0xF, .u64, .ro, 0, 0⟩,
   ⟨0x4090, 0x4090, 0x10, 0x12, .u32, .ro, 0, 0⟩]

/-- Status objects 0x40A0 to 0x4151 (R289, R308, R337, R357, R396, R454, R507). -/
def statusB : List Obj :=
  [⟨0x40A0, 0x40A0, 1, 1, .u64, .ro, 0, 0⟩,
   ⟨0x40A0, 0x40A0, 2, 2, .u32, .ro, 0, 0⟩,
   ⟨0x40A0, 0x40A0, 3, 3, .u64, .ro, 0, 0⟩,
   ⟨0x40A0, 0x40A0, 4, 7, .u32, .ro, 0, 0⟩,
   ⟨0x40B0, 0x40B0, 1, 2, .u8, .ro, 0, 0⟩,
   ⟨0x40B0, 0x40B0, 3, 4, .u32, .ro, 0, 0⟩,
   ⟨0x40B0, 0x40B0, 5, 5, .u64, .ro, 0, 0⟩,
   ⟨0x40B0, 0x40B0, 6, 9, .u32, .ro, 0, 0⟩,
   ⟨0x40B0, 0x40B0, 0xA, 0xA, .u64, .ro, 0, 0⟩,
   ⟨0x40B0, 0x40B0, 0xB, 0xB, .u32, .ro, 0, 0⟩,
   ⟨0x40C0, 0x40C0, 1, 1, .u8, .ro, 0, 0⟩,
   ⟨0x40C0, 0x40C0, 2, 3, .u64, .ro, 0, 0⟩,
   ⟨0x40C0, 0x40C0, 4, 8, .u32, .ro, 0, 0⟩,
   ⟨0x40D0, 0x40EF, 1, 1, .u8, .ro, 0, 0⟩,
   ⟨0x40D0, 0x40EF, 2, 5, .u64, .ro, 0, 0⟩,
   ⟨0x40D0, 0x40EF, 6, 6, .u32, .ro, 0, 0⟩,
   ⟨0x40D0, 0x40EF, 7, 7, .u64, .ro, 0, 0⟩,
   ⟨0x40F0, 0x40F0, 1, 1, .u8, .ro, 0, 0⟩,
   ⟨0x40F0, 0x40F0, 2, 2, .u32, .ro, 1, 0⟩,
   ⟨0x40F0, 0x40F0, 3, 3, .u64, .ro, noCourse, 0⟩,
   ⟨0x40F0, 0x40F0, 4, 4, .u8, .ro, 0, 0⟩,
   ⟨0x40F0, 0x40F0, 5, 6, .u32, .ro, 0, 0⟩,
   ⟨0x40F0, 0x40F0, 7, 7, .u64, .ro, 0, 0⟩,
   ⟨0x40F0, 0x40F0, 8, 0xE, .u32, .ro, 0, 0⟩,
   ⟨0x40F0, 0x40F0, 0xF, 0xF, .u8, .ro, 0, 0⟩,
   ⟨0x40F0, 0x40F0, 0x10, 0x10, .u64, .ro, noCourse, 0⟩,
   ⟨0x40F0, 0x40F0, 0x11, 0x11, .u32, .ro, 0, 0⟩,
   ⟨0x40F0, 0x40F0, 0x12, 0x12, .u64, .ro, 0, 0⟩,
   ⟨0x40F0, 0x40F0, 0x13, 0x13, .u32, .ro, 0, 0⟩,
   ⟨0x4100, 0x4108, 1, 3, .u8, .ro, 0, 0⟩,
   ⟨0x4100, 0x4108, 4, 5, .u32, .ro, 0, 0⟩,
   ⟨0x4100, 0x4108, 6, 7, .u8, .ro, 0, 0⟩,
   ⟨0x4110, 0x4110, 1, 4, .u32, .ro, 0, 0⟩,
   ⟨0x4110, 0x4110, 5, 5, .u8, .ro, 0, 0⟩,
   ⟨0x4120, 0x4120, 1, 1, .u8, .ro, 0, 0⟩,
   ⟨0x4120, 0x4120, 2, 8, .u32, .ro, 0, 0⟩,
   ⟨0x4120, 0x4120, 9, 9, .u16, .ro, 0, 0⟩,
   ⟨0x4120, 0x4120, 0xA, 0xB, .i32, .ro, 0, 0⟩,
   ⟨0x4120, 0x4120, 0xC, 0xC, .u32, .ro, 0, 0⟩,
   ⟨0x4140, 0x4151, 1, 0x12, .u32, .ro, 0, 0⟩,
   ⟨0x4140, 0x4151, 0x13, 0x13, .u64, .ro, 0, 0⟩,
   ⟨0x4140, 0x4151, 0x14, 0x16, .u32, .ro, 0, 0⟩]

/-- Security objects (R406, R418, R425). -/
def securityObjs : List Obj :=
  [⟨0x5000, 0x5000, 1, 1, .u8, .ro, 0, 0⟩,
   ⟨0x5000, 0x5000, 2, 2, .u64, .const, 0, 0⟩,
   ⟨0x5000, 0x5000, 3, 5, .u8, .ro, 0, 0⟩,
   ⟨0x5000, 0x5000, 6, 6, .u32, .ro, 0, 0⟩,
   ⟨0x5000, 0x5000, 7, 8, .u16, .ro, 0, 0⟩,
   ⟨0x5000, 0x5000, 9, 0xA, .u8, .ro, 0, 0⟩,
   ⟨0x5000, 0x5000, 0xB, 0xE, .u32, .ro, 0, 0⟩,
   ⟨0x5000, 0x5000, 0x10, 0x10, .u8, .rw, 0, 0⟩,
   ⟨0x5100, 0x510F, 1, 2, .u8, .ro, 0, 0⟩,
   ⟨0x5100, 0x510F, 3, 3, .u64, .ro, 0, 0⟩,
   ⟨0x5100, 0x510F, 4, 5, .u32, .ro, 0, 0⟩,
   ⟨0x5200, 0x5200, 1, 4, .domain, .rwa, 0, 0⟩,
   ⟨0x5300, 0x5300, 1, 2, .domain, .rw, 0, 0⟩,
   ⟨0x5300, 0x5300, 3, 4, .domain, .rwa, 0, 0⟩]

/-- Fault records, health and engine objects (R392, R396, R397, R371, R383, R389). -/
def faultObjs : List Obj :=
  [⟨0x6000, 0x6000, 1, 3, .u32, .ro, 0, 0⟩,
   ⟨0x6100, 0x6111, 1, 0x12, .u64, .ro, 0, 0⟩,
   ⟨0x6120, 0x6120, 1, 32, .u64, .ro, 0, 0⟩,
   ⟨0x6121, 0x6121, 1, 9, .u64, .ro, 0, 0⟩,
   ⟨0x6122, 0x6122, 1, 32, .u64, .ro, 0, 0⟩,
   ⟨0x6140, 0x6140, 1, 16, .u64, .ro, 0, 0⟩,
   ⟨0x6141, 0x6142, 1, 32, .u64, .ro, 0, 0⟩,
   ⟨0x6800, 0x68FF, 0, 0, .domain, .ro, 0, 264⟩,
   ⟨0x6F00, 0x6F00, 1, 4, .domain, .rwa, 0, 0⟩]

/-- First row of a table that holds the object. -/
def findObj (t : List Obj) (index sub : Nat) : Option Obj := t.find? (·.holds index sub)

/-- Width in bytes at which a count of an object saturates. -/
def countWidth (index sub : Nat) : Nat :=
  match findObj (if index < 0x2000 then identityObjs else if index < 0x3000 then slateObjs
    else if index < 0x40A0 then statusA else if index < 0x5000 then statusB
    else if index < 0x6000 then securityObjs else faultObjs) index sub with
  | some o => o.ty.len
  | none => 4

/-- Every object of the dictionary (R430). -/
def dictObjs : List Obj :=
  identityObjs ++ slated ++ slateObjs ++ tenantObjs ++ statusA ++ statusB ++ securityObjs ++ faultObjs

/-- The highest subindex of an index; none when nothing is defined there (R427). -/
def highestSub (index : Nat) : Option Nat :=
  dictObjs.foldl (fun b o => if o.lo ≤ index && index ≤ o.hi then some (max o.shi (b.getD 0)) else b) none

/-- The object at an index and subindex; subindex 0x00 holds the highest subindex of its index (R427). -/
def objAt (index sub : Nat) : Option Obj :=
  match findObj dictObjs index sub with
  | some o => some o
  | none => if sub == 0 then (highestSub index).map (fun m => ⟨index, index, 0, 0, .u8, .const, m, 0⟩) else none

/-- The default of a slated object. -/
def slateDefault (index sub : Nat) : Nat :=
  match findObj slated index sub with
  | some o => o.dflt
  | none => 0

end Sys2Proof.Machine
end

