-- ==== Sys2Proof/Machine/Ops.lean ====
section
/-! DEFINITION. The named operations over state: tables, byte strings, halves, slate values, counts, messages,
near memory with poison and block metadata, gutter records, and the frame every command runs in. -/

namespace Sys2Proof.Machine

/-! ### Tables -/

def tget {κ α : Type} [DecidableEq κ] (k : κ) : Tbl κ α → Option α
  | [] => none
  | (j, v) :: t => if j = k then some v else tget k t

def tput {κ α : Type} [DecidableEq κ] (k : κ) (v : α) : Tbl κ α → Tbl κ α
  | [] => [(k, v)]
  | (j, w) :: t => if j = k then (k, v) :: t else (j, w) :: tput k v t

def tdel {κ α : Type} [DecidableEq κ] (k : κ) : Tbl κ α → Tbl κ α
  | [] => []
  | (j, w) :: t => if j = k then t else (j, w) :: tdel k t

/-- The entry of a key, or `d`. -/
def tgetD {κ α : Type} [DecidableEq κ] (k : κ) (d : α) (t : Tbl κ α) : α := (tget k t).getD d

/-- Change one entry, made from `d` if the key has none. -/
def tmod {κ α : Type} [DecidableEq κ] (k : κ) (d : α) (f : α → α) (t : Tbl κ α) : Tbl κ α :=
  tput k (f (tgetD k d t)) t

def thas {κ α : Type} [DecidableEq κ] (k : κ) (t : Tbl κ α) : Bool := (tget k t).isSome

/-- The lowest number from `i` of `n` numbers that a table does not use. -/
def freeNum {α : Type} (t : Tbl Nat α) : Nat → Nat → Option Nat
  | 0, _ => none
  | n + 1, i => if thas i t then freeNum t n (i + 1) else some i

/-- Append to a list that holds each value once. -/
def addOnce {α : Type} [DecidableEq α] (x : α) (l : List α) : List α := if l.contains x then l else l ++ [x]

/-- Keep a list of naturals rising, each once. -/
def insNat (x : Nat) : List Nat → List Nat
  | [] => [x]
  | y :: t => if x < y then x :: y :: t else if x = y then y :: t else y :: insNat x t

/-- Split off the first element that satisfies a test. -/
def takeFirst {α : Type} (p : α → Bool) : List α → Option (α × List α)
  | [] => none
  | x :: t => if p x then some (x, t) else
      match takeFirst p t with
      | some (y, r) => some (y, x :: r)
      | none => none

/-! ### Byte strings (R7) -/

/-- The w low bytes of n, least significant first. -/
def le (w n : Nat) : Bytes :=
  match w with
  | 0 => []
  | w + 1 => BitVec.ofNat 8 n :: le w (n / 256)

def ofLe : Bytes → Nat
  | [] => 0
  | b :: t => b.toNat + 256 * ofLe t

def slice (off n : Nat) (bs : Bytes) : Bytes := (bs.drop off).take n

/-- The little-endian field of w bytes at an offset; missing bytes are zero. -/
def field (off w : Nat) (bs : Bytes) : Nat := ofLe (slice off w bs)

/-- Bits hi..lo of a byte string. -/
def bits (hi lo : Nat) (bs : Bytes) : Nat := ofLe (slice (lo / 8) (hi / 8 - lo / 8 + 1) bs) / 2 ^ (lo % 8) % 2 ^ (hi - lo + 1)

def zeros (n : Nat) : Bytes := List.replicate n 0

/-- Cut bytes into pieces of n. -/
def cutBytes (n : Nat) (bs : Bytes) : List Bytes := (List.range ((bs.length + n - 1) / n)).map (fun i => slice (n * i) n bs)

/-- Cut or fill with zeros to n bytes. -/
def fitTo (n : Nat) (bs : Bytes) : Bytes := bs.take n ++ zeros (n - bs.length)

def xorBytes (a b : Bytes) : Bytes := List.zipWith (· ^^^ ·) a b

def bitOf (n i : Nat) : Bool := n / 2 ^ i % 2 == 1

def ofBool (b : Bool) : Nat := if b then 1 else 0

/-- The ASCII codes of a string. -/
def ascii (s : String) : Bytes := s.toList.map (fun c => BitVec.ofNat 8 c.toNat)

/-- One step of the reflected CRC of polynomial 0x1EDC6F41. -/
def crcBit (c : BitVec 32) : BitVec 32 := if c.getLsbD 0 then (c >>> 1) ^^^ 0x82F63B78#32 else c >>> 1

def crcByte (c : BitVec 32) (b : Byte) : BitVec 32 :=
  crcBit (crcBit (crcBit (crcBit (crcBit (crcBit (crcBit (crcBit (c ^^^ b.setWidth 32))))))))

/-- The CRC register after a byte string, from a start value. -/
def crcRaw (c : BitVec 32) (bs : Bytes) : BitVec 32 := bs.foldl crcByte c

/-- CRC-32C (R200). -/
def crc32c (bs : Bytes) : BitVec 32 := crcRaw 0xFFFFFFFF#32 bs ^^^ 0xFFFFFFFF#32

/-! ### Status codes (R3 to R5) -/

def Status.code : Status → Nat
  | .ok => 0 | .okDefaultRow => 1 | .retry => 2 | .poisoned => 3 | .accessRevoked => 4 | .rightsFault => 5
  | .translationFault => 6 | .quotaExceeded => 7 | .versionConflict => 8 | .tierFallback => 9
  | .unconfirmedRetracted => 0xA | .nodeUnreachable => 0xB | .authFailed => 0xC | .counterStale => 0xD
  | .checkMismatch => 0xE | .domainDown => 0xF | .jobEnded => 0x10

/-- The code's place in the order of R5; the first applicable code is reported. -/
def Status.rank : Status → Nat
  | .authFailed => 1 | .counterStale => 2 | .jobEnded => 3 | .translationFault => 4 | .rightsFault => 5
  | .quotaExceeded => 6 | .nodeUnreachable => 7 | .domainDown => 8 | .accessRevoked => 9 | .versionConflict => 10
  | .retry => 11 | .checkMismatch => 12 | .poisoned => 13 | .unconfirmedRetracted => 14 | .tierFallback => 15
  | .okDefaultRow => 16 | .ok => 17

/-- The one code reported of two that apply (R5). -/
def Status.first (a b : Status) : Status := if a.rank ≤ b.rank then a else b

/-- Class S or D: data or effect delivered (R3, R4). -/
def Status.good : Status → Bool
  | .ok | .okDefaultRow | .tierFallback => true
  | _ => false

/-- The status a received code names; a reserved code is a failure of unknown cause (R6). -/
def Status.ofCode (n : Nat) : Status :=
  match n with
  | 0 => .ok | 1 => .okDefaultRow | 2 => .retry | 3 => .poisoned | 4 => .accessRevoked | 5 => .rightsFault
  | 7 => .quotaExceeded | 8 => .versionConflict | 9 => .tierFallback | 0xA => .unconfirmedRetracted
  | 0xB => .nodeUnreachable | 0xC => .authFailed | 0xD => .counterStale | 0xE => .checkMismatch
  | 0xF => .domainDown | 0x10 => .jobEnded
  | _ => .translationFault

/-- Data that ends the job of its consumer (R209, R211, R222). -/
def Status.consumes : Status → Bool
  | .poisoned | .checkMismatch | .unconfirmedRetracted => true
  | _ => false

/-! ### Halves and blocks (R10, R11, R18, R23) -/

def halfIf (west : Bool) : Half := if west then .west else .east

def portHalf (p : Nat) : Half := halfIf (p < 16)
def stackHalf (n : Nat) : Half := halfIf (n < 8)

/-- The half that holds an engine (R10). -/
def engHalf (e : Engine) : Half :=
  match e.cls with
  | .tile => halfIf (e.idx < 8)
  | .yealm => halfIf (e.idx < 16)
  | .update => halfIf (e.idx < 16)

/-- The stack an engine sits beside (R11). -/
def engStack (e : Engine) : Nat :=
  match e.cls with
  | .tile => e.idx
  | .yealm => e.idx / 2
  | .update => e.idx / 2

/-- Source code of an engine (R313). -/
def engSid (e : Engine) : Nat :=
  match e.cls with
  | .tile => e.idx
  | .yealm => 0x10 + e.idx
  | .update => 0x30 + e.idx

/-- Keys of an engine's requests: a block of a VA is its VA >> 12; a page translated ahead, a block written, a record
written, a row read to be staged, a row and an update follow from these bases. -/
def pageKey : Nat := 2 ^ 58
def putKey : Nat := 2 ^ 59
def recordKey : Nat := 2 ^ 60
def stageKey : Nat := 2 ^ 61
def rowKey : Nat := 2 ^ 62
def updateKey : Nat := 2 ^ 63

/-- Table of a yealm descriptor (R119). -/
def yTable (d : Bytes) : Nat := bits 22 16 d

/-- Whether a request only asks where a page is, for dispatch (R97). -/
def placing (a : Acc) : Bool :=
  match a.org with
  | .front _ k => decide (pageKey ≤ k) && decide (k < putKey)
  | _ => false

/-- Whether a read stages a row (R138, R141). -/
def staging (a : Acc) : Bool :=
  match a.org with
  | .engine _ k => decide (stageKey ≤ k) && decide (k < rowKey)
  | _ => false

def nearSize : Nat := 0x18000000000
def stackSize : Nat := 0x1800000000

def stackOf (off : Nat) : Nat := off / stackSize
def offHalf (off : Nat) : Half := stackHalf (stackOf off)

/-- Channel of a near offset (R18). -/
def channelOf (off : Nat) : Nat := off % stackSize / 4096 % 32

def gaNode (ga : Nat) : Nat := ga / 2 ^ 48 % 2 ^ 14
def gaOff (ga : Nat) : Nat := ga % 2 ^ 48
def mkGa (node off : Nat) : Nat := node * 2 ^ 48 + off

/-- The half a message belongs to (R23). -/
def viaHalf : Via → Half
  | .port p => portHalf p
  | .batch p => portHalf p
  | .geled e _ => e
  | .onward p _ => portHalf p

namespace State

def half (s : State) : Half → HalfSt
  | .west => s.west
  | .east => s.east

def modHalf (s : State) (h : Half) (f : HalfSt → HalfSt) : State :=
  match h with
  | .west => { s with west := f s.west }
  | .east => { s with east := f s.east }

def modBoth (s : State) (f : HalfSt → HalfSt) : State := { s with west := f s.west, east := f s.east }

/-- The device's own node number, 0x3FFF while none is assigned (R22, R434). -/
def self (s : State) : Nat := s.nodeNum

/-- Whether a node number names this device (R22). -/
def isSelf (s : State) (n : Nat) : Bool := n == 0x3FFF || n == s.nodeNum

/-- The half that holds the lease, by the winning copy of the record (R385). -/
def holder (s : State) : Half :=
  if s.west.leaseSeq < s.east.leaseSeq then s.east.leaseHolder
  else if s.east.leaseSeq < s.west.leaseSeq then s.west.leaseHolder
  else if s.west.leaseHolder = s.east.leaseHolder then s.west.leaseHolder else .west

/-- The course of a half. -/
def courseOf (s : State) (h : Half) : Nat := (s.half h).course

/-- The device's current course: the lease holder's (R43, R388). -/
def course (s : State) : Nat := (s.half s.holder).course

/-- A slated value in effect in a half, as bytes; an object without a record has its default (R445). -/
def slateBytes (s : State) (h : Half) (index sub : Nat) : Option Bytes := tget (index, sub) (s.half h).slate

/-- A slated number in effect in a half. -/
def cfg (s : State) (h : Half) (index sub : Nat) : Nat :=
  match s.slateBytes h index sub with
  | some b => ofLe b
  | none => slateDefault index sub

def cfgBit (s : State) (h : Half) (index sub bit : Nat) : Bool := bitOf (s.cfg h index sub) bit

/-- Add to a count a half keeps; it saturates at the width of its object (R469). -/
def count (s : State) (h : Half) (index sub : Nat) (n : Nat := 1) : State :=
  s.modHalf h (fun x =>
    { x with counts := tmod (index, sub) 0 (fun c => min (c + n) (256 ^ countWidth index sub - 1)) x.counts })

/-- Set a value a half keeps beside its counts. -/
def setCount (s : State) (h : Half) (index sub n : Nat) : State :=
  s.modHalf h (fun x => { x with counts := tput (index, sub) n x.counts })

/-- A count as the dictionary reports it: the sum of the halves, saturating (R469). -/
def countVal (s : State) (index sub : Nat) : Nat :=
  min (tgetD (index, sub) 0 s.west.counts + tgetD (index, sub) 0 s.east.counts) (256 ^ countWidth index sub - 1)

def emit (s : State) (o : Out) : State := { s with out := s.out ++ [o] }

def emitAll (s : State) (os : List Out) : State := { s with out := s.out ++ os }

/-- A number no rule gives, and the state in which the next draw is another. -/
def drawFree (s : State) : Nat × State := (Config.freeValue s.free, { s with free := s.free + 1 })

def ctx (s : State) (c : Nat) : Ctx := tgetD c {} s.spc.ctxs

def modCtx (s : State) (c : Nat) (f : Ctx → Ctx) : State :=
  { s with spc.ctxs := tmod c {} f s.spc.ctxs }

def port (s : State) (p : Nat) : Port := tgetD p {} s.fab.ports

def modPort (s : State) (p : Nat) (f : Port → Port) : State :=
  { s with fab.ports := tmod p {} f s.fab.ports }

def node (s : State) (n : Nat) : Node := tgetD n {} s.fab.nodes

def modNode (s : State) (n : Nat) (f : Node → Node) : State :=
  { s with fab.nodes := tmod n {} f s.fab.nodes }

def engOf (s : State) (e : Engine) : Eng :=
  match e.cls with
  | .tile => tgetD e.idx {} s.eng.tiles
  | .yealm => tgetD e.idx {} s.eng.yealms
  | .update => tgetD e.idx {} s.eng.updates

def modEng (s : State) (e : Engine) (f : Eng → Eng) : State :=
  match e.cls with
  | .tile => { s with eng.tiles := tmod e.idx {} f s.eng.tiles }
  | .yealm => { s with eng.yealms := tmod e.idx {} f s.eng.yealms }
  | .update => { s with eng.updates := tmod e.idx {} f s.eng.updates }

def extent (s : State) (n : Nat) : Extent := tgetD n {} s.spc.extents

def modExtent (s : State) (n : Nat) (f : Extent → Extent) : State :=
  { s with spc.extents := tmod n {} f s.spc.extents }

def geled (s : State) : Half → GEnd
  | .west => s.gel.west
  | .east => s.gel.east

def modGeled (s : State) (e : Half) (f : GEnd → GEnd) : State :=
  match e with
  | .west => { s with gel.west := f s.gel.west }
  | .east => { s with gel.east := f s.gel.east }

/-- Whether an end of the link is Up (R303). -/
def endUp (s : State) (e : Half) : Bool := (s.geled e).st == 4

end State

/-! ### Near memory (R17, R18, R201, R207) -/

/-- What a byte that nothing has written reads as (log entry 3): no rule lets it be seen, because every line is
poisoned until it is written whole (R237). -/
def freshByte : Byte := 0

/-- The byte at a near offset. -/
def memGet (a : Nat) : List Host.Cell → Byte
  | [] => freshByte
  | (k, b) :: t => if k = a then b else if a < k then freshByte else memGet a t

/-- Write one byte; the list stays rising and lists no byte equal to an unlisted one. -/
def memPut (a : Nat) (b : Byte) : List Host.Cell → List Host.Cell
  | [] => if b = freshByte then [] else [(a, b)]
  | (k, c) :: t =>
      if a < k then (if b = freshByte then (k, c) :: t else (a, b) :: (k, c) :: t)
      else if a = k then (if b = freshByte then t else (a, b) :: t)
      else (k, c) :: memPut a b t

/-- The canonical form of near memory. -/
def memWf : List Host.Cell → Bool
  | [] => true
  | (k, b) :: t => decide (b ≠ freshByte) && t.all (fun c => decide (k < c.1)) && memWf t

/-- Write a byte string from an offset upward. -/
def memPutAll (a : Nat) : Bytes → List Host.Cell → List Host.Cell
  | [], m => m
  | b :: t, m => memPutAll (a + 1) t (memPut a b m)

/-- n bytes from an offset upward. -/
def memGetAll (m : List Host.Cell) : Nat → Nat → Bytes
  | _, 0 => []
  | a, n + 1 => memGet a m :: memGetAll m (a + 1) n

namespace State

def loadBytes (s : State) (off n : Nat) : Bytes := memGetAll s.near.mem off n

def storeBytes (s : State) (off : Nat) (bs : Bytes) : State :=
  { s with near.mem := memPutAll off bs s.near.mem }

/-- Lines are numbered by near offset >> 7, 4 KiB blocks by near offset >> 12. -/
def poisoned (s : State) (line : Nat) : Bool := !s.near.clean.contains line

def metaOf (s : State) (block : Nat) : Meta := tgetD block {} s.near.metas

def setMeta (s : State) (block : Nat) (f : Meta → Meta) : State :=
  { s with near.metas := tmod block {} f s.near.metas }

/-- Whether any line of a block is poisoned. -/
def blockPoisoned (s : State) (block : Nat) : Bool :=
  (List.range 32).any (fun i => s.poisoned (block * 32 + i))

/-- Poison bits of a block's lines, bit i for line i. -/
def poisonMask (s : State) (block : Nat) : Nat :=
  (List.range 32).foldl (fun m i => if s.poisoned (block * 32 + i) then m + 2 ^ i else m) 0

/-- Poison a line of near memory: its poison syndrome is stored and its block is void (R201, R207). -/
def poisonLine (s : State) (line : Nat) : State :=
  let s := if s.poisoned line then s else s.count (offHalf (line * 128)) 0x4080 5
  { s with near.clean := s.near.clean.filter (· ≠ line) }.setMeta (line / 32) (fun m => { m with void := true })

def poisonBlock (s : State) (block : Nat) : State :=
  (List.range 32).foldl (fun s i => s.poisonLine (block * 32 + i)) s

/-- The crc of a block as it is stored. -/
def blockCrc (s : State) (block : Nat) : BitVec 32 := crc32c (s.loadBytes (block * 4096) 4096)

/-- Clear a line's poison bit after it has been written whole; the last one of its block recomputes crc and clears
void (R202, R208). -/
def cleanLine (s : State) (line : Nat) : State :=
  let was := s.poisoned line
  let s := { s with near.clean := insNat line s.near.clean }
  let b := line / 32
  if was && !s.blockPoisoned b then s.setMeta b (fun m => { m with crc := s.blockCrc b, void := false }) else s

def stackRec (s : State) (n : Nat) : Stack := tgetD n {} s.near.stackRecs

/-- Whether an offset's channel has been retired: writes to it are dropped (R364). -/
def retiredAt (s : State) (off : Nat) : Bool := (s.stackRec (stackOf off)).retired.contains (channelOf off)

/-- The part of a write without a spar that falls in one block (R202): crc by linearity while the block is not void,
tag kept, whole lines cleaned. -/
def writeInBlock (s : State) (off : Nat) (bs : Bytes) : State :=
  if s.retiredAt off then s else
  let b := off / 4096
  let at' := off % 4096
  let old := s.loadBytes off bs.length
  let diff := crcRaw 0 (zeros at' ++ xorBytes old bs ++ zeros (4096 - at' - bs.length))
  let s := if (s.metaOf b).void then s else s.setMeta b (fun m => { m with crc := m.crc ^^^ diff })
  let s := s.storeBytes off bs
  (List.range 32).foldl (fun s i =>
    let l := b * 32 + i
    if off ≤ l * 128 && l * 128 + 128 ≤ off + bs.length then s.cleanLine l else s) s

/-- A write without a spar (R202). -/
def writeNear (s : State) (off : Nat) (bs : Bytes) : State :=
  let n := min bs.length (4096 - off % 4096)
  let s := s.writeInBlock off (bs.take n)
  if n < bs.length then s.writeInBlock (off + n) (bs.drop n) else s

/-- Write a whole block with its spar, poison bits and state (R202, R208, R210). -/
def writeBlock (s : State) (block : Nat) (data : Bytes) (crc : BitVec 32) (tag poison st hold : Nat) : State :=
  if s.retiredAt (block * 4096) then s else
  let s := s.storeBytes (block * 4096) (fitTo 4096 data)
  let s := (List.range 32).foldl (fun s i =>
    if bitOf poison i then s.poisonLine (block * 32 + i)
    else { s with near.clean := insNat (block * 32 + i) s.near.clean }) s
  s.setMeta block (fun _ => { crc := crc, tag := tag, st := st, hold := hold, void := poison % 2 ^ 32 != 0 })

/-- Zero a block: tag 0x00, valid spar, clear poison, confirmed (R70, R202, R208). -/
def zeroBlock (s : State) (block : Nat) : State :=
  s.writeBlock block (zeros 4096) (crc32c (zeros 4096)) 0 0 0 0

/-! ### Events and gutter records (R392 to R394, R465) -/

/-- Set a bit of a half's EVT_STAT (R465). -/
def raiseEvt (s : State) (h : Half) (bit : Nat) : State :=
  s.modHalf h (fun x => { x with regs.evtStat := x.regs.evtStat ||| 1#32 <<< bit })

/-- Send a gutter record's announcement to every subscriber, and keep it until each has acknowledged it (R440). -/
def announceRecord (s : State) (h : Half) (q : Nat) : State :=
  let subs := (List.range 4).filter (fun i => (s.slateBytes h 0x2012 (i + 1)).getD (zeros 16) ≠ zeros 16)
  let port := if s.mgm.ports.1.up then 0 else 1
  { s with mgm.announces := s.mgm.announces ++ subs.map (fun i => { sub := i, seq := q, sends := 1 : Announce }) }.emitAll (subs.map (fun i => Out.announce port i q))

/-- Raise a gutter record: number it, keep the last 256, and announce it to every subscriber (R392, R440). -/
def gutter (s : State) (h : Half) (cls kind idx action : Nat) (severity : Nat := 2) (flags : Nat := 0)
    (score : Nat := 0) (ga : Nat := 0) (c : Nat := 0) (job : Nat := 0xFFFF) (cnt : Nat := 0) (detail : Bytes := []) :
    State :=
  let q := s.mgm.nextSeq
  let r : Gutter := { seq := q, cls := cls, part := ⟨kind, idx⟩, action := action, flags := flags, score := score,
                      severity := severity, course := s.courseOf h, stamp := s.now, ga := ga, ctx := c, job := job,
                      count := cnt, detail := detail, half := h }
  let s := match tget (q % 256) s.mgm.ring with
    | some old => if old.readBy then s else s.count h 0x6000 3
    | none => s
  let s := { s with mgm.ring := tput (q % 256) r s.mgm.ring, mgm.nextSeq := (q + 1) % 2 ^ 32 }
  (s.raiseEvt h 0).announceRecord h q

end State

/-! ### The frame of a command -/

/-- A fuse once blown stays blown, and the minimum SVN never falls (R402, R406). -/
def joinFuses (a b : Fuses) : Fuses := { revoke := a.revoke ||| b.revoke, minSvn := max a.minSvn b.minSvn }

/-- Take a command: time passes, what the last command sent is gone, its effect happens; the queue is untouched. A
command no sender can put on the pins has no effect (log entry 4). -/
def run (wf : Bool) (dt : Nat) (s : State) (f : State → State) : Host.Outcome State Fault Refusal :=
  if wf then
    let t := f { s with out := [], now := s.now + dt }
    .next { t with pending := s.pending, now := s.now + dt, fuse := joinFuses s.fuse t.fuse }
  else .next { s with out := [], now := s.now + dt }

end Sys2Proof.Machine
end

