-- ==== Sys2Proof/Machine/Atomics.lean ====
section
/-! DEFINITION. Atomic operations (R283 to R286, R329): operand widths, validity, effect and combined operands. -/

namespace Sys2Proof.Machine

/-- Operation number, width flag and fetch flag of an aop field (R283). -/
def aopOp (aop : Nat) : Nat := aop % 16
def aopWide (aop : Nat) : Bool := bitOf aop 4
def aopFetch (aop : Nat) : Bool := bitOf aop 5

/-- Bytes of the stored value (R284). -/
def aopSize (aop : Nat) : Nat :=
  if aopOp aop == 0xC then 64 else if aopWide aop then 8 else 4

/-- Bytes of the operand: CAS carries the expected value, then the new one (R284). -/
def operandSize (aop : Nat) : Nat := if aopOp aop == 0xA then 2 * aopSize aop else aopSize aop

/-- Whether an aop may be performed at an address (R285). -/
def aopValid (aop addr : Nat) : Bool :=
  let o := aopOp aop
  1 ≤ o && o ≤ 0xC &&
  !((o == 9 || o == 0xA) && !aopFetch aop) &&
  !(o == 0xC && aopFetch aop) &&
  !((o == 0xB || o == 0xC) && aopWide aop) &&
  addr % aopSize aop == 0

/-- Whether the operation writes back a value of its own rather than reducing (R58): SWAP and CAS. -/
def aopWriteBack (aop : Nat) : Bool := aopOp aop == 9 || aopOp aop == 0xA

/-- Read as a two's complement number of n bytes. -/
def signedOf (n v : Nat) : Int := if v < 2 ^ (8 * n - 1) then (v : Int) else (v : Int) - 2 ^ (8 * n)

/-- Effect of an integer atomic of n bytes on m with operand v (R284). -/
def intAtomic (o n m v : Nat) : Nat :=
  match o with
  | 1 => (m + v) % 2 ^ (8 * n)
  | 2 => if signedOf n v < signedOf n m then v else m
  | 3 => if signedOf n m < signedOf n v then v else m
  | 4 => if v < m then v else m
  | 5 => if m < v then v else m
  | 6 => Nat.land m v
  | 7 => Nat.lor m v
  | 8 => Nat.xor m v
  | _ => v

/-- FP32 sum rounded to nearest even BF16, element by element (R284). -/
def vaddBytes : Bytes → Bytes → Bytes
  | a :: b :: m, c :: d :: v =>
      le 2 (bf16 (fadd (ofBf16 (a.toNat + 256 * b.toNat)) (ofBf16 (c.toNat + 256 * d.toNat)))) ++ vaddBytes m v
  | _, _ => []

/-- The bytes an atomic leaves in place of `old` (R284). -/
def atomicApply (aop : Nat) (old operand : Bytes) : Bytes :=
  let n := aopSize aop
  let o := aopOp aop
  if o == 0xC then vaddBytes (fitTo 64 old) (fitTo 64 operand)
  else if o == 0xB then
    le 4 (fadd (BitVec.ofNat 32 (ofLe (old.take 4))) (BitVec.ofNat 32 (ofLe (operand.take 4)))).toNat
  else if o == 0xA then
    (if ofLe (old.take n) == ofLe (operand.take n) then fitTo n (operand.drop n) else fitTo n old)
  else le n (intAtomic o n (ofLe (old.take n)) (ofLe (operand.take n)))

/-- Operations the fabric may join (R329). -/
def aopJoins (aop : Nat) : Bool :=
  let o := aopOp aop
  (1 ≤ o && o ≤ 5) || ((o == 0xB || o == 0xC) && !aopFetch aop)

/-- Combined operand of two joined atomics, in arrival order (R329). -/
def joinOperands (aop : Nat) (a b : Bytes) : Bytes := atomicApply aop a b

end Sys2Proof.Machine
end

