-- ==== Sys2Proof/Machine/Route.lean ====
section
/-! DEFINITION. Stage 3 (R20): routes, ports, credits, relay and batches (R309 to R326), and the Geled Link's send
side (R295 to R298). -/

namespace Sys2Proof.Machine.State

/-- A slated value of the device as a whole: the lease holder's. -/
def gcfg (s : State) (index sub : Nat) : Nat := s.cfg s.holder index sub

/-- Role of a port (R24, R336): 0 Off, 1 peer, 2 eave, 3 shelf, 4 gateway. -/
def roleOf (s : State) (p : Nat) : Nat :=
  let r := s.gcfg 0x20D1 (p + 1)
  if r ≤ 4 then r else 0

/-- Whether a port carries packets now. -/
def portUp (s : State) (p : Nat) : Bool :=
  s.roleOf p != 0 && (s.port p).link.up && !(s.port p).draining && !(s.port p).health.expelled

/-- The route entry of a node (R320). -/
def routeEntry (s : State) (n : Nat) : Nat := s.gcfg (0x2100 + n / 128) (n % 128 + 1)

/-- Where a route leads. -/
def routeKind (e : Nat) : Nat := e % 8

/-- Ports of a kind 2 or 4 entry, in the order they are used (R320). -/
def entryPorts (e : Nat) : List Nat :=
  (e / 2 ^ 8 % 32) :: (if bitOf e 21 then [e / 2 ^ 16 % 32] else [])

/-- The entry a node's packets really use: a kind 3 entry stands for its next hop's (R320). -/
def finalEntry (s : State) (n : Nat) : Nat :=
  let e := s.routeEntry n
  if routeKind e == 3 then
    let e2 := s.routeEntry (e / 2 ^ 8 % 2 ^ 14)
    if routeKind e2 == 2 || routeKind e2 == 4 then e2 else 0
  else if routeKind e == 2 || routeKind e == 4 then e else 0

/-- Nodes whose own entry is kind 2 naming a peer-role port: the other roof members (R320). -/
def roofPeers (s : State) : List (Nat × Nat) :=
  (s.half s.holder).slate.filterMap (fun r =>
    let (index, sub) := r.1
    if 0x2100 ≤ index && index ≤ 0x217F && 1 ≤ sub && sub ≤ 0x80 then
      let n := (index - 0x2100) * 128 + sub - 1
      let e := ofLe r.2
      let p := e / 2 ^ 8 % 32
      if routeKind e == 2 && s.roleOf p == 1 && n != s.nodeNum then some (n, p) else none
    else none)

/-- The far side of a peer port: the node whose kind 2 entry names it, as its first or its second port (R320, R347). -/
def peerOn (s : State) (p : Nat) : Option Nat :=
  if s.roleOf p != 1 then none
  else (s.half s.holder).slate.findSome? (fun r =>
    let (index, sub) := r.1
    let n := (index - 0x2100) * 128 + sub - 1
    let e := ofLe r.2
    if 0x2100 ≤ index && index ≤ 0x217F && 1 ≤ sub && sub ≤ 0x80 && routeKind e == 2 && (entryPorts e).contains p && n != s.nodeNum then some n
    else none)

def isRoofPeer (s : State) (n : Nat) : Bool := s.roofPeers.any (·.1 == n)

/-- Whether a node is reached through a valley gateway (R89, R326). -/
def beyondGateway (s : State) (n : Nat) : Bool := routeKind (s.finalEntry n) == 4

/-- Whether a node is a shelf this device owns: a kind 2 route by a shelf-role port (R76, R320). -/
def ownsShelf (s : State) (n : Nat) : Bool :=
  let e := s.routeEntry n
  routeKind e == 2 && (entryPorts e).any (fun p => s.roleOf p == 3)

/-- Whether a node is a memory shelf, as far as routes tell (R116, R320): one this device owns, or one whose route names
another roof member to go by. DEDUCED (log entry 113): kind 3 is used for shelves of other roof members, by that member,
and for nodes beyond the roof, by a gateway. -/
def isShelf (s : State) (n : Nat) : Bool :=
  let e := s.routeEntry n
  s.ownsShelf n || (routeKind e == 3 && s.isRoofPeer (e / 2 ^ 8 % 2 ^ 14))

/-- The half an owned shelf's port is on; west when both halves have one (R76). -/
def shelfHalf (s : State) (n : Nat) : Half :=
  if (entryPorts (s.routeEntry n)).any (fun p => s.roleOf p == 3 && p < 16) then .west else .east

/-- The relay member between this device and a peer: the lowest-numbered member up to both (R321). -/
def relayMember (s : State) (n : Nat) : Option (Nat × Nat) :=
  s.roofPeers.foldl (fun best m =>
    if m.1 != n && s.portUp m.2 && tgetD (m.1, n) true s.fab.members && tgetD (n, m.1) true s.fab.members then
      match best with
      | none => some m
      | some b => if m.1 < b.1 then some m else best
    else best) none

/-- The node a route really leads to next: the next hop of a kind 3 entry (R320). -/
def hopOf (s : State) (n : Nat) : Nat :=
  let e := s.routeEntry n
  if routeKind e == 3 then e / 2 ^ 8 % 2 ^ 14 else n

/-- Parts that have been sent to a node and not answered (R121). -/
def partsTo (s : State) (n : Nat) : Nat :=
  s.eng.yealms.foldl (fun k g => k + (match g.2.run with
    | some w => (w.y.parts.filter (fun p => p.node == n && p.sent)).length
    | none => 0)) 0

/-- Requests outstanding to a node that have left the switch. -/
def outTo (s : State) (n : Nat) : Nat := (s.eng.outs.filter (fun o => o.node == n && o.sent)).length + s.partsTo n

/-- Whether the direct port to a peer is up on both sides, as this device knows (R321). -/
def directUp (s : State) (n p : Nat) : Bool := s.portUp p && tgetD (n, s.nodeNum) true s.fab.members

/-- Whether traffic of a peer port goes by relay: nothing the far side might not have is left unsent, and after the
port's return until what went by relay has completed (R321). -/
def relaying (s : State) (n p : Nat) : Bool :=
  let t := s.port p
  if s.directUp n p then t.relay && s.outTo n != 0 else t.relay || t.link.unacked.all (fun f => f.carries.isEmpty)

/-- How a packet to a node leaves. A relay names the direct port it stands for. -/
inductive Way where
  | here
  | port (p : Nat)
  | relay (direct p : Nat)
  | wait (p : Nat)
  | unreachable
deriving DecidableEq, Repr

/-- R320 to R323: the way to a node now. -/
def wayTo (s : State) (n : Nat) : Way :=
  if s.isSelf n then .here
  else
    let ps := entryPorts (s.finalEntry n)
    if s.finalEntry n == 0 then .unreachable
    else if ps.all (fun p => s.roleOf p == 0) then .unreachable
    else match ps.find? (fun p => s.portUp p && !(s.isRoofPeer (s.hopOf n) && (!s.directUp (s.hopOf n) p || s.relaying (s.hopOf n) p))) with
      | some p => .port p
      | none =>
          let d := ps.headD 0
          if s.isRoofPeer (s.hopOf n) then
            match s.relayMember (s.hopOf n) with
            | some m => if s.relaying (s.hopOf n) d then .relay d m.2 else .wait d
            | none => if s.hopOf n == n && (s.node n).health.expelled then .unreachable else .wait d
          else .wait d

/-- Units of a body of n data bytes. -/
def unitsOf (n : Nat) : Nat := (n + 7) / 8

/-- Length in units of a response packet (R312, R314). -/
def replyUnits (r : Reply) : Nat := 4 + unitsOf r.data.length + ofBool r.u + ofBool r.spar.isSome

def creditOf (l : List Nat) (i : Nat) : Nat := l.getD i 0

def setAt (l : List Nat) (i v : Nat) : List Nat := l.mapIdx (fun j x => if j = i then v else x)

/-- Whether a link may begin another flash: 256 stay unacknowledged at most (R344). -/
def flashRoom (t : LinkSt) : Bool := t.unacked.length < 256

/-- Put units on a link: what one command sends shares a flash while its payload lasts (R343, R344). The number of
the flash, when it is a new one. -/
def intoFlash (t : LinkSt) (now units : Nat) (c : List Pkt) : LinkSt × Option Nat :=
  match t.unacked.getLast? with
  | some f =>
      if f.since == now && f.units + units ≤ 32 * t.width then
        ({ t with unacked := t.unacked.dropLast ++ [{ f with carries := f.carries ++ c, units := f.units + units }] }, none)
      else ({ t with txSeq := (t.txSeq + 1) % 4096, unacked := t.unacked ++ [⟨t.txSeq, c, units, now⟩] }, some t.txSeq)
  | none => ({ t with txSeq := (t.txSeq + 1) % 4096, unacked := [⟨t.txSeq, c, units, now⟩] }, some t.txSeq)

/-- The flash a port sends its units in. -/
def portFlash (s : State) (p units : Nat) (c : List Pkt) : State :=
  let (l, n) := intoFlash (s.port p).link s.now units c
  let s := s.modPort p (fun t => { t with link := l })
  match n with
  | some q => s.emit (.flash (.port p) q false)
  | none => s

/-- Send a packet on a port if its channel is clear and its credits cover it; otherwise it waits (R311). -/
def offer (s : State) (p : Nat) (x : Pkt) : State :=
  let t := s.port p
  if s.portUp p && !t.queue.any (fun y => y.vc == x.vc) && x.units ≤ creditOf t.credits x.vc && flashRoom t.link then
    let s := s.modPort p (fun t => { t with credits := setAt t.credits x.vc (creditOf t.credits x.vc - x.units), owed := t.owed + x.units,
                                            sent := (t.sent + 1) % 2 ^ 32 })
    ((s.portFlash p x.units [x]).count (portHalf p) (0x40D0 + p) 2).emit (.port p x)
  else
    s.modPort p (fun t => { t with queue := t.queue ++ [x], waitSince := some (t.waitSince.getD s.now) })

/-- Send every waiting packet the credits now cover, each channel in order (R311). -/
def drainPort (s : State) (p : Nat) : State :=
  let q := (s.port p).queue
  let waited := match (s.port p).waitSince with
    | some t => s.now - t
    | none => 0
  let s := if waited > 0 then s.count (portHalf p) (0x40D0 + p) 7 waited else s
  let s := s.modPort p (fun t => { t with queue := [], waitSince := none })
  q.foldl (fun s x => s.offer p x) s

/-- Close and send a batch (R324, R325), when the credits cover its header and every inner packet. -/
def closeBatch (s : State) (p vc : Nat) : State :=
  match takeFirst (fun b => b.vc == vc) (s.port p).batches with
  | none => s
  | some (b, rest) =>
      let t := s.port p
      if s.portUp p && b.units + 4 ≤ creditOf t.credits vc && flashRoom t.link then
        let q := b.bseq.getD s.fab.bseq
        let s := if b.bseq.isSome then s.count (portHalf p) 0x40C0 5
          else { s with fab.bseq := (s.fab.bseq + 1) % 2 ^ 32 }.count (portHalf p) 0x40C0 4
        let s := s.modPort p (fun t =>
          { t with batches := rest, credits := setAt t.credits vc (creditOf t.credits vc - (b.units + 4)), owed := t.owed + b.units + 4,
                   kept := t.kept ++ [(q, vc, b.inner)], sent := (t.sent + 1) % 2 ^ 32 })
        let s := (s.portFlash p (b.units + 4) []).count (portHalf p) (0x40D0 + p) 2
        s.emit (.batch p t.farNode q vc b.inner)
      else s.modPort p (fun t => { t with batches := { b with closed := true } :: rest })

/-- Send the batches that were due and now find their credits, each channel in order. -/
def drainBatches (s : State) (p : Nat) : State :=
  ((s.port p).batches.filter (·.closed)).foldl (fun s b =>
    match (s.port p).batches.find? (fun x => x.vc == b.vc) with
    | some x => if x.closed then s.closeBatch p b.vc else s
    | none => s) s

/-- Whether a packet closes the batch that receives it (R324). -/
def closesBatch (x : Pkt) : Bool :=
  2 ≤ x.vc || (match x.m with
    | .request _ q | .publish q _ _ | .onward _ (.pub q _ _ _) _ _ _ => q.cap || 8 ≤ q.rc
    | .rowUpdate u | .onward _ (.rowUpdate u) _ _ _ => 8 ≤ u.rc
    | .caprel .. | .onward _ (.caprel ..) _ _ _ => true
    | _ => false)

/-- Close the open batch of a channel and send what the credits cover. -/
def sealBatch (s : State) (p vc : Nat) : State :=
  (s.modPort p (fun t => { t with batches := t.batches.map (fun b => if b.vc == vc then { b with closed := true } else b) })).drainBatches p

/-- Put a packet into the open batch of its channel on a gateway port, which holds at most 64 KiB (R324, R325). -/
def intoBatch (s : State) (p : Nat) (x : Pkt) : State :=
  let mine := fun (b : OpenBatch) => b.vc == x.vc && !b.closed
  let s := if (s.port p).batches.any (fun b => mine b && 8192 < b.units + x.units) then s.sealBatch p x.vc else s
  let bs := (s.port p).batches
  let b : OpenBatch := (bs.find? mine).getD { vc := x.vc, inner := [], units := 0, since := s.now }
  let b := { b with inner := b.inner ++ [x], units := b.units + x.units }
  let s := s.modPort p (fun t => { t with batches := bs.filter (fun b => !mine b) ++ [b] })
  if closesBatch x || 8192 ≤ b.units then s.sealBatch p x.vc else s

/-- Put a packet on a port, by its role. -/
def toPort (s : State) (p : Nat) (x : Pkt) : State :=
  if s.roleOf p == 4 then s.intoBatch p x else s.offer p x

/-- Route a packet to its destination node (R319 to R323); whether it could be routed. -/
def route (s : State) (x : Pkt) : Bool × State :=
  match s.wayTo x.dst with
  | .here => (true, s)
  | .port p => (true, (s.modPort p (fun t => { t with relay := false })).toPort p x)
  | .relay d p =>
      let s := s.modPort d (fun t => { t with relay := true })
      (true, s.offer p { x with rl := true })
  | .wait p =>
      if s.roleOf p == 4 then (true, s.intoBatch p x)
      else (true, s.modPort p (fun t => { t with queue := t.queue ++ [x], waitSince := some (t.waitSince.getD s.now) }))
  | .unreachable => (false, s)

/-! ### Segmented messages (R315) -/

/-- Pad bytes with zeros to whole units. -/
def padUnit (bs : Bytes) : Bytes := fitTo (8 * unitsOf bs.length) bs

/-- The entries of a part request (R122). -/
def partBytes (xs : List PartEntry) : Bytes :=
  (xs.map (fun x => le 8 x.row ++ le 3 x.bag ++ zeros 1 ++ le 4 x.weight.toNat)).flatten

/-- The entries of a part answer, each padded to whole units, and its data too (R122, R315). -/
def answerBytes (xs : List Partial) : Bytes :=
  (xs.map (fun q => padUnit (le 4 (q.bag % 2 ^ 24 + min q.n 127 * 2 ^ 24 + ofBool q.raw * 2 ^ 31)) ++ padUnit q.data)).flatten

/-- The segments of a part request: its descriptor and one unit, then up to 16 entries in each. Number, last, units and data. -/
def partSegments (x : Part) : List (Nat × Bool × Nat × Bytes) :=
  let cs := cutBytes 256 (partBytes x.entries)
  (0, cs.isEmpty, 13, []) :: cs.mapIdx (fun i c => (i + 1, i + 1 == cs.length, 4 + unitsOf c.length, c))

/-- The segments of a part answer. -/
def answerSegments (x : PartAnswer) : List (Nat × Bool × Nat × Bytes) :=
  let cs := cutBytes 256 (answerBytes x.entries)
  if cs.isEmpty then [(0, true, 4, [])] else cs.mapIdx (fun i c => (i, i + 1 == cs.length, 4 + unitsOf c.length, c))

/-- A control packet to a node (R314). -/
def control (s : State) (dst : Nat) (units : Nat) (m : Msg) : State :=
  (s.route { dst := dst, sid := 0xF0, vc := 3, units := 4 + units, m := m }).2

/-- Channel and length of a message on the Geled Link (R295). -/
def geledChannel (m : Msg) : Nat × Nat :=
  match m with
  | .mem r => (1, 2 + ofBool r.u + unitsOf r.data.length)
  | .data _ r => (1, 3 + ofBool r.u + unitsOf r.data.length)
  | .ack _ _ => (1, 3)
  | .snoop _ _ _ => (2, 3)
  | .completion _ _ _ => (1, 10)
  | .report rec => (1, 2 + unitsOf rec.length)
  | .invAck _ _ => (3, 3)
  | .integrity .. => (3, 5)
  | .endLost _ _ => (3, 3)
  | .register _ _ _ => (1, 3)
  | .mailbox _ r => (1, 5 + unitsOf r.data.length)
  | .mailboxRetry _ => (1, 5)
  | _ => (1, 2)

/-- Send on one end if its credits cover the message, behind what waits there (R297). -/
def offerGeled (s : State) (e : Half) (hv : Bool) (m : Msg) : State :=
  let (vc, n) := geledChannel m
  let g := s.geled e
  if s.endUp e && !g.queue.any (fun x => x.1 == vc) && n ≤ creditOf g.credits vc && flashRoom g.link then
    let (l, f) := intoFlash g.link s.now n []
    let s := match f with
      | some q => s.emit (.flash (.geled e) q false)
      | none => s
    (s.modGeled e (fun g => { g with link := l, credits := setAt g.credits vc (creditOf g.credits vc - n), log := g.log ++ [((g.rcvd + 1) % 2 ^ 16, hv, m)] })).emit (.geled e hv m)
  else s.modGeled e (fun g => { g with queue := g.queue ++ [(vc, n, hv, m)] })

/-- A message to the companion: on the given end while it is up, on the other otherwise; it waits while neither is
(R298, R307). -/
def toCompanion (s : State) (e : Half) (hv : Bool) (m : Msg) : State :=
  if s.endUp e then s.offerGeled e hv m
  else if s.endUp e.other then s.offerGeled e.other hv m
  else if s.gel.lost then s
  else s.offerGeled e hv m

/-- Send every waiting message of an end that its credits now cover. -/
def drainGeled (s : State) (e : Half) : State :=
  let q := (s.geled e).queue
  let s := s.modGeled e (fun g => { g with queue := [] })
  q.foldl (fun s x => s.offerGeled e x.2.2.1 x.2.2.2) s

/-- The load level every packet on the response channel carries (R332): 15 before service (R484). -/
def loadNow (s : State) : Nat := if s.phase < 0xA then 15 else s.fab.loadLevel

/-- A message to a party, with its channel and length on the fabric. -/
def sendTo (s : State) (dest : Party) (vc units : Nat) (m : Msg) : State :=
  match dest with
  | .host p => s.toPort p { dst := 0x3FFF, vc := vc, units := units, m := m }
  | .companion e hv => s.toCompanion e hv m
  | .node n sid => (s.route { dst := n, sid := sid, vc := vc, units := units, m := m }).2
  | .agent a => s.emit (.agent a m)
  | .mgmt _ _ => s
  | .self _ => s

/-- An integrity message to a party (R213). -/
def sendIntegrity (s : State) (dest : Party) (op reason ctx job node serial course : Nat) : State :=
  s.sendTo dest 3 7 (.integrity op reason ctx job node serial course)

/-- A part answer to the coordinating engine of a node (R124, R315, R332). -/
def sendAnswer (s : State) (n sid : Nat) (x : PartAnswer) : State :=
  let x := { x with ld := s.loadNow }
  (answerSegments x).foldl (fun s g => s.sendTo (.node n sid) 1 g.2.2.1 (.partAnswer { x with entries := [] } g.1 g.2.1 g.2.2.2)) s

end Sys2Proof.Machine.State
end

