-- ==== Sys2Proof/Machine/Checks.lean ====
section
/-! DEFINITION. What the home checks a request against: extents and regions (R67, R78, R82, R508), the location of a
page (R92, R93), and the check of a block's spar (R204, R206). -/

namespace Sys2Proof.Machine.State

/-- Whether an extent covers a near offset. -/
def covers (x : Extent) (off : Nat) : Bool :=
  x.state != 0 && x.base ≤ off && off < x.base + x.pages * 65536

/-- The extent of a context that covers an offset, with its number. Extents of one context do not overlap (R67). -/
def extentAt (s : State) (c off : Nat) : Option (Nat × Extent) :=
  s.spc.extents.find? (fun x => x.2.ctx == c && covers x.2 off)

/-- Whether a page range lies wholly inside a union of page ranges, given by base and length. -/
def rangeInside (xs : List (Nat × Nat)) (base pages : Nat) : Bool :=
  -- walk from the base through ranges that meet or adjoin
  let reach := fun (at' : Nat) =>
    xs.foldl (fun m x => if x.1 ≤ at' && at' < x.1 + x.2 * 65536 then max m (x.1 + x.2 * 65536) else m) at'
  (List.range (xs.length + 1)).foldl (fun at' _ => reach at') base ≥ base + pages * 65536

/-- Whether a page range of near memory lies wholly inside granted extents of a context (R508). -/
def grantedRange (s : State) (c base pages : Nat) : Bool :=
  rangeInside ((s.spc.extents.filter (fun x => x.2.ctx == c && x.2.state == 2)).map (fun x => (x.2.base, x.2.pages))) base pages

/-- The same on a shelf this device owns: inside what it has granted there (R79, R84, R508). -/
def grantedOnShelf (s : State) (c node base pages : Nat) : Bool :=
  rangeInside ((s.spc.shelfGrants.filter (fun g => g.node == node && g.ctx == c)).map (fun g => (g.base, g.pages))) base pages

/-- Pages of a range, as a predicate on page numbers (GA or offset >> 16). -/
def inPages (base pages page : Nat) : Bool := base / 65536 ≤ page && page < base / 65536 + pages

/-- The full GA of an address of this device. -/
def homeGa (s : State) (ga : Nat) : Nat := if gaNode ga == 0x3FFF then mkGa s.nodeNum (gaOff ga) else ga

/-- The region of a context that holds a page's GA (R78). -/
def regionAt (s : State) (c ga : Nat) : Option (Nat × Region) :=
  s.plc.regions.find? (fun r => r.2.cls != 0 && r.2.ctx == c && inPages (s.homeGa r.2.base) r.2.pages (s.homeGa ga / 65536))

def isSpace (r : Region) : Bool := r.cls == 4

/-- Class of a page for a context: PINNED when no region holds it (R78). -/
def classOf (s : State) (c ga : Nat) : Nat :=
  match s.regionAt c ga with
  | some (_, r) => r.cls
  | none => 1

/-- Whether an offset of this device lies in any SPACE region (R82). -/
def inSpace (s : State) (off : Nat) : Bool :=
  s.plc.regions.any (fun r => isSpace r.2 && s.isSelf (gaNode r.2.base) &&
    inPages (gaOff r.2.base) r.2.pages (off / 65536))

/-- Whether a page has a counter (R78, R85). -/
def counted (s : State) (c ga : Nat) : Bool :=
  match s.regionAt c ga with
  | some (_, r) => r.cls == 2 || r.cls == 3
  | none => false

/-! ### Rows and row blocks (R110 to R112, R144) -/

/-- Bytes of a row. -/
def rowSize (x : Table) : Nat := 2 ^ x.rowlog

def hashMode (x : Table) : Bool := bitOf x.flags 0

/-- Shard entry and slot of a row (R112). -/
def rowSlot (x : Table) (row : Nat) : Nat × Nat :=
  if hashMode x then (row % max 1 x.shards.length, row / max 1 x.shards.length)
  else
    let k := ((x.shards.filter (fun e => e.first ≤ row)).length - 1)
    (k, row - (x.shards.getD k ⟨0, 0, 0⟩).first)

/-- Rows of shard entry k. -/
def shardRows (x : Table) (k : Nat) : Nat :=
  if hashMode x then (x.rows + x.shards.length - 1 - k) / max 1 x.shards.length
  else (match x.shards[k + 1]? with
    | some e => e.first
    | none => x.rows) - (x.shards.getD k ⟨0, 0, 0⟩).first

/-- Home GA of a row. -/
def rowGa (x : Table) (row : Nat) : Nat :=
  let (k, slot) := rowSlot x row
  let e := x.shards.getD k ⟨0, 0, 0⟩
  mkGa e.node (e.base + slot * rowSize x)

/-- Row block of a row and the row's place in it. -/
def rowBlock (x : Table) (row : Nat) : Nat × Nat :=
  if hashMode x then
    let (k, slot) := rowSlot x row
    (slot / 256 * x.shards.length + k, slot % 256)
  else (row / 256, row % 256)

/-- First row of a block. -/
def blockRow (x : Table) (b : Nat) : Nat :=
  if hashMode x then (b / max 1 x.shards.length * 256) * x.shards.length + b % max 1 x.shards.length else b * 256

/-- Rows of a block that exist. -/
def blockRows (x : Table) (b : Nat) : List Nat :=
  (List.range 256).filterMap (fun j =>
    let r := if hashMode x then blockRow x b + j * x.shards.length else blockRow x b + j
    if r < x.rows then some r else none)

/-- Whether a block lies wholly in one shard entry (R142). -/
def wholeBlock (x : Table) (b : Nat) : Bool :=
  hashMode x || (match blockRows x b with
    | [] => false
    | r :: t => t.all (fun q => (rowSlot x q).1 == (rowSlot x r).1))

/-- The row of a table whose home is at a GA, if any. -/
def rowAtGa (x : Table) (ga : Nat) : Option Nat :=
  (List.range x.shards.length).findSome? (fun k =>
    let e := x.shards.getD k ⟨0, 0, 0⟩
    if e.node == gaNode ga && e.base ≤ gaOff ga && gaOff ga < e.base + shardRows x k * rowSize x then
      let slot := (gaOff ga - e.base) / rowSize x
      some (if hashMode x then slot * x.shards.length + k else e.first + slot)
    else none)

/-- The table and row block that hold a GA, with the offset in the block. -/
def blockAtGa (s : State) (ga : Nat) : Option (Nat × Nat × Nat) :=
  s.ylx.tables.findSome? (fun t =>
    match rowAtGa t.2 ga with
    | some row =>
        let (b, j) := rowBlock t.2 row
        some (t.1, b, j * rowSize t.2 + (ga - rowGa t.2 row))
    | none => none)

/-- Where a moved row block is, for a GA inside it (R144). -/
def movedTo (s : State) (ga : Nat) (learned : Bool) : Option (Nat × Nat) :=
  if s.ylx.overs.isEmpty then none
  else match s.blockAtGa ga with
    | none => none
    | some (t, b, off) =>
        match tget (t, b) s.ylx.overs with
        | some o => if (o.learned && !learned) || (!o.live && learned) then none else some (o.node, o.off + off)
        | none => none

/-- Home GA of a block's first row. -/
def blockGa (t : Table) (b : Nat) : Nat := rowGa t (blockRow t b)

/-- Place of a row block in this device's memory: its spill frame or its origin. -/
def blockHere (s : State) (t : Table) (n b : Nat) : Option Nat :=
  match tget (n, b) s.ylx.overs with
  | some o => if s.isSelf o.node then some o.off else none
  | none => if s.isSelf (gaNode (blockGa t b)) then some (gaOff (blockGa t b)) else none

/-- Where a page's current contents are in this device's memory: its placed copy or its home frame. -/
def pageAt (s : State) (page : Nat) : Option Nat :=
  match tget page s.plc.here with
  | some f => if f.live then some f.frame else none
  | none => if page / 2 ^ 32 == s.nodeNum && !thas page s.plc.away then some (page % 2 ^ 32 * 65536) else none

/-- Where a page is now, as far as this device knows (R92, R93, R144). -/
inductive Loc where
  | near (off : Nat)        -- in a stack of this device
  | at' (node : Nat)        -- at another node
  | moved (node : Nat)      -- at the origin of a row block whose forwarding is retired (R144)
  | stale                   -- this device held it and no longer knows (R93)
deriving DecidableEq, Repr

/-- Ranges this device has handed to an admitted device: the GA there (R390). -/
def admittedTo (s : State) (off : Nat) : Option Nat :=
  (s.avl.serving.find? (fun v => v.switched && v.base ≤ off && off < v.base + v.pages * 65536)).map (·.node)

/-- Where a GA of the partner lies in this device's own memory, once it loads or has taken over the range (R390). -/
def admittedHere (s : State) (ga : Nat) : Option Nat :=
  if s.avl.admission.st < 2 || 4 < s.avl.admission.st || gaNode ga != s.avl.admission.partner then none
  else s.avl.admission.ranges.findSome? (fun r =>
    if r.1 ≤ gaOff ga && gaOff ga < r.1 + r.2.2 * 65536 then some (r.2.1 + (gaOff ga - r.1)) else none)

/-- Location of a GA for a request that another node sent here. -/
def locateHere (s : State) (ga : Nat) : Loc :=
  let g := s.homeGa ga
  let page := g / 65536
  if s.isSelf (gaNode g) then
    match tget page s.plc.away with
    | some n => .at' n
    | none =>
      match s.movedTo g false with
      | some (n, off) =>
          if s.isSelf n then .near off
          else (match s.blockAtGa g with
            | some (t, b, _) => if thas (t, b) s.ylx.forwards then .at' n else .moved n
            | none => .at' n)
      | none =>
        match s.admittedTo (gaOff g) with
        | some n => .at' n
        | none => .near (gaOff g)
  else
    match (match tget page s.plc.here with
           | some f => some (f.frame + g % 65536)
           | none => s.admittedHere g) with
    | some off => .near off
    | none =>
      match (match tget page s.plc.away with
        | some n => some n
        | none => tget page s.plc.forwards) with
      | some n => .at' n
      | none =>
        match s.movedTo g false with
        | some (n, off) => if s.isSelf n then .near off else .at' n
        | none =>
          -- a page of an owned shelf that is not placed is on the shelf (R76)
          let rest := if s.ownsShelf (gaNode g) then Loc.at' (gaNode g) else .stale
          match (if s.ylx.forwards.isEmpty then none else s.blockAtGa g) with
          | some (t, b, _) =>
              (match tget (t, b) s.ylx.forwards with
              | some n => .at' n
              | none => rest)
          | none => rest

/-- The node of an access of this device to a page that is still on an older route (R94, R144). -/
def oldRoute (s : State) (page : Nat) (n : Option Nat) : Option Nat :=
  match s.eng.outs.find? (fun o => o.acc.ga / 65536 == page && o.acc.q.ctx != 0 && some o.node ≠ n) with
  | some o => some o.node
  | none =>
      -- parts that have not been answered
      s.eng.yealms.findSome? (fun y => y.2.run.bind (fun w =>
        if w.y.parts.isEmpty then none
        else match tget (yTable w.desc) s.ylx.tables with
          | none => none
          | some t => (w.y.parts.find? (fun p => some p.node ≠ n && p.entries.any (fun x => rowGa t x.row / 65536 == page))).map (·.node)))

/-- Location of a GA for a request that entered here (R92, R94, R144): the new one only once every access by the old
route has completed. -/
def locate (s : State) (h : Half) (ga : Nat) : Loc :=
  let g := s.homeGa ga
  let page := g / 65536
  let route := fun (n : Nat) => Loc.at' ((s.oldRoute page (some n)).getD n)
  let local' := fun (off : Nat) => match s.oldRoute page none with
    | some n => Loc.at' n
    | none => .near off
  if s.isSelf (gaNode g) then
    match s.locateHere g with
    | .near off => local' off
    | .at' n => route n
    | l => l
  else
    match (match tget page s.plc.here with
           | some f => if f.live then some f else none
           | none => none) with
    | some f => local' (f.frame + g % 65536)
    | none =>
      match tget page s.plc.away with
      | some n => route n
      | none =>
        match tget page (s.half h).redirects with
        | some n => route n
        | none =>
          match s.movedTo g true with
          | some (n, off) => if s.isSelf n then local' off else route n
          | none => .at' (gaNode g)

/-- The fence a page's home has raised on what this device holds of it (R41, R95). -/
def placeFence (s : State) (page : Nat) : Option PFence :=
  s.plc.fences.find? (fun f => inPages f.base f.pages page)

/-- Whether a placed page's frame or a line of this device is under a raised fence, or not covered (R67, R71, R82,
R95): the fault code, or none. -/
def extentCheck (s : State) (c ga off : Nat) : Option (Status × Nat × Option Nat) :=
  if c == 0 then none
  else if !s.plc.fences.isEmpty && (s.placeFence (s.homeGa ga / 65536)).isSome && !s.isSelf (gaNode (s.homeGa ga)) then
    some (.accessRevoked, 0x21, none)
  else
    let placed := !s.isSelf (gaNode (s.homeGa ga)) && thas (s.homeGa ga / 65536) s.plc.here
    let owner := if placed then (match tget (s.homeGa ga / 65536) s.plc.here with
                                 | some f => f.ctx
                                 | none => c) else c
    if !placed && s.inSpace off then some (.accessRevoked, 0x20, none)
    else if placed && owner != c then some (.accessRevoked, 0x20, none)
    else
      let by' := fun (at' : Nat) => match s.extentAt owner at' with
        | none => some (.accessRevoked, 0x20, none)
        | some (n, x) =>
            if x.state == 1 then some (.retry, 0, none)
            else if x.state == 2 then none
            else some (.accessRevoked, 0x21, some n)
      -- a row block moved within its home is fenced with its origin too (R41)
      let home := s.homeGa ga
      let moved := s.isSelf (gaNode home) && gaOff home != off && (match s.movedTo home false with
        | some (n, o) => s.isSelf n && o == off
        | none => false)
      match (if moved then by' (gaOff home) else none) with
      | some r => some r
      | none => by' off

/-- Whether the page or row block at a GA is in switchover (R91, R143). -/
def switching (s : State) (ga : Nat) : Bool :=
  let g := s.homeGa ga
  s.plc.moves.any (fun m => m.page == g / 65536 && m.phase == 3) ||
  (s.ylx.moves.any (fun m => m.phase == 3) && (match s.blockAtGa g with
    | some (t, b, _) => s.ylx.moves.any (fun m => m.t == t && m.b == b && m.phase == 3)
    | none => false))

/-- The half a request belongs to (R23). -/
def accHalf (a : Acc) : Half :=
  match a.org with
  | .engine e _ => engHalf e
  | _ => viaHalf a.q.via

/-! ### Spars (R204, R206) -/

/-- Whether a consumer checks a block's crc. -/
def checksCrc (s : State) (h : Half) (b : Blk) : Bool := s.cfgBit h 0x20A0 1 0 && !b.void && b.poison == 0

/-- Whether a block's crc must be and is not that of its data. -/
def crcBad (s : State) (h : Half) (b : Blk) : Bool := s.checksCrc h b && b.spar.crc != crc32c b.data

/-- Count the blocks of an answer whose crc is checked (R236). -/
def countChecks (s : State) (h : Half) (bs : List Blk) : State :=
  let n : Nat := (bs.filter (s.checksCrc h)).length
  if 0 < n then s.count h 0x4080 1 n else s

/-- The home recomputes a stored block's crc; a mismatch poisons its 32 lines (R206). True where the block passes. -/
def homeCheck (s : State) (block : Nat) : Bool × State :=
  let m := s.metaOf block
  let h := offHalf (block * 4096)
  if m.void then (true, s)
  else if m.crc = s.blockCrc block then (true, s.count h 0x4080 1)
  else
    let s := ((s.count h 0x4080 1).poisonBlock block).count h 0x4080 3
    (false, s.gutter h 0x08 0x10 0 0x03 (severity := 0) (ga := block * 4096) (cnt := 32))

/-- The block failed twice at its consumer: its home checks it (R206). A home on another node is not asked: the manual
gives no packet for it (log entry 20). -/
def confirmMismatch (s : State) (h : Half) (ga c j : Nat) : State :=
  match s.locate h ga with
  | .near off =>
      let (ok, s) := s.homeCheck (off / 4096)
      if ok then s.gutter h 0x09 0x10 0 0x09 (severity := 0) (ga := ga) (c := c) (job := j) else s
  | _ => s.gutter h 0x09 0x10 0 0x09 (severity := 0) (ga := ga) (c := c) (job := j)

end Sys2Proof.Machine.State
end

