-- ==== Sys2Proof/Machine/Jobs.lean ====
section
/-! DEFINITION. Jobs and hold groups (R211 to R230): records, taint, dependency sets, confirmation, retraction and
the ending of a job. What follows from an ending or a retraction is left as tasks of the same command. -/

namespace Sys2Proof.Machine.State

def push (s : State) (t : Task) : State := { s with todo := s.todo ++ [t] }
def pushAll (s : State) (ts : List Task) : State := { s with todo := s.todo ++ ts }

/-- Whether a job has been ended here (R211). -/
def jobEnded (s : State) (c j : Nat) : Bool :=
  match tget (c, j) s.itg.jobs with
  | some r => r.ended
  | none => false

/-- The open group of a job with its number (R224). -/
def openGroupOf (s : State) (c j : Nat) : Option (Nat × Group) :=
  s.itg.groups.find? (fun g => g.2.ctx == c && g.2.job == j && g.2.phase == 0)

/-- A job with an open group is tainted (R224). -/
def tainted (s : State) (c j : Nat) : Bool := (s.openGroupOf c j).isSome

/-- The check ID of a group of this device. -/
def idOf (s : State) (g : Group) : CheckId := ⟨s.nodeNum, g.serial⟩

/-- Note the use of a job's record (R216). -/
def touchJob (s : State) (c j : Nat) : State :=
  match tget (c, j) s.itg.jobs with
  | some r => { s with itg.jobs := tput (c, j) { r with used := s.itg.clock } s.itg.jobs, itg.clock := s.itg.clock + 1 }
  | none => s

/-- The record a full table gives up (R216): the least recently used that is neither ended nor tainted, else the
oldest ended one. -/
def evictJob (s : State) : State :=
  let free := s.itg.jobs.filter (fun r => !r.2.ended && !s.tainted r.1.1 r.1.2)
  let pick := fun (l : List ((Nat × Nat) × Job)) (age : Job → Nat) =>
    l.foldl (fun (b : Option ((Nat × Nat) × Job)) r =>
      match b with
      | none => some r
      | some x => if age r.2 < age x.2 then some r else b) none
  match pick free (·.used) with
  | some r => { s with itg.jobs := tdel r.1 s.itg.jobs }
  | none =>
      match pick (s.itg.jobs.filter (·.2.ended)) (·.endedAt) with
      | some r => { s with itg.jobs := tdel r.1 s.itg.jobs }.count s.holder 0x4080 7
      | none => s

/-- Make sure a job has a record (R216). -/
def ensureJob (s : State) (c j : Nat) : State :=
  match tget (c, j) s.itg.jobs with
  | some _ => s.touchJob c j
  | none =>
      let s := if 4096 ≤ s.itg.jobs.length then s.evictJob else s
      { s with itg.jobs := tput (c, j) { used := s.itg.clock } s.itg.jobs, itg.clock := s.itg.clock + 1 }

/-- Jobs with an open group (R216). -/
def taintedJobs (s : State) : Nat := (s.itg.groups.filter (·.2.phase == 0)).length

/-- Open a job's group; none when it must wait for a group or a record (R216, R224, R230). An ended job opens none. -/
def openGroup (s : State) (c j : Nat) : Option State :=
  match s.openGroupOf c j with
  | some _ => some s
  | none =>
      if s.jobEnded c j then some s
      else if 3840 ≤ s.taintedJobs then none
      else match freeNum s.itg.groups 4096 0 with
        | none => none
        | some i =>
            let s := s.ensureJob c j
            some { s with itg.groups := tput i { ctx := c, job := j, serial := s.itg.nextSerial } s.itg.groups,
                          itg.nextSerial := (s.itg.nextSerial + 1) % 2 ^ 32 }

/-- Change a job's open group. -/
def modGroup (s : State) (c j : Nat) (f : Group → Group) : State :=
  match s.openGroupOf c j with
  | some (i, g) => { s with itg.groups := tput i (f g) s.itg.groups }
  | none => s

/-- Put a check ID into a job's dependency set, opening the group if need be; none when it must wait (R225, R230). -/
def addDep (s : State) (c j : Nat) (id : CheckId) : Option State :=
  if s.jobEnded c j then some s
  else match s.openGroup c j with
  | none => none
  | some s =>
      match s.openGroupOf c j with
      | none => none
      | some (_, g) =>
          if id = s.idOf g then some s
          else if g.deps.contains id then some s
          else if 16 ≤ g.deps.length then none
          else some (s.modGroup c j (fun g => { g with deps := g.deps ++ [id] }))

/-- Add a node to the receivers of a group; none for a 65th (R224, R230). The device itself is no receiver. -/
def groupReceiver (s : State) (i : Nat) (g : Group) (node : Nat) : Option State :=
  if s.isSelf node || g.receivers.contains node then some s
  else if 64 ≤ g.receivers.length then none
  else some { s with itg.groups := tput i { g with receivers := g.receivers ++ [node] } s.itg.groups }

/-- Add a receiver to a group; none for a 65th (R224, R230). The device itself is no receiver. -/
def addReceiver (s : State) (c j node : Nat) : Option State :=
  match s.openGroupOf c j with
  | none => some s
  | some (_, g) =>
      if s.isSelf node || g.receivers.contains node then some s
      else if 64 ≤ g.receivers.length then none
      else some (s.modGroup c j (fun g => { g with receivers := g.receivers ++ [node] }))

/-- Count a wait under R230 and keep what waits. -/
def waitGroup (s : State) (w : GroupWait) : State :=
  { s with itg.waits := s.itg.waits ++ [w] }.count s.holder 0x4080 0x10

/-- Take a block out of the group it points to (R222). -/
def leaveGroup (s : State) (block : Nat) : State :=
  let m := s.metaOf block
  if m.st == 1 then
    match tget m.hold s.itg.groups with
    | some g => { s with itg.groups := tput m.hold { g with blocks := g.blocks.filter (· ≠ block) } s.itg.groups }
    | none => s
  else s

/-- Make a block unconfirmed in a job's open group (R222, R226). -/
def joinGroup (s : State) (c j block : Nat) : State :=
  let s := s.leaveGroup block
  match s.openGroupOf c j with
  | none => s
  | some (i, g) =>
      { s with itg.groups := tput i { g with blocks := addOnce block g.blocks } s.itg.groups }.setMeta block
        (fun m => { m with st := 1, hold := i })

/-- Set every block of a group to a result state (R227, R228). -/
def sweep (s : State) (blocks : List Nat) (st : Nat) : State :=
  blocks.foldl (fun s b => s.setMeta b (fun m => { m with st := st, hold := 0 })) s

/-- Off-device writes under a check ID that have not completed (R227). -/
def writesUnder (s : State) (id : CheckId) : Bool :=
  (s.eng.outs.map (·.acc) ++ s.eng.retries).any (fun a => a.q.u && a.q.ck = id && a.org != .device &&
    (a.op == .write || a.op == .atomic || a.op == .bput || a.op == .rowAdd || a.op == .rowSet || a.op == .wbd))

/-- Close a group whose dependency set is empty and whose pending count is zero (R227, steps 1 to 4). Its number is
free once its blocks are swept (R230); what step 5 needs stays beside the 4,096 groups until the confirms are sent. -/
def checkGroup (s : State) (i : Nat) : State :=
  match tget i s.itg.groups with
  | none => s
  | some g =>
      if g.phase == 0 && g.deps.isEmpty && g.pending == 0 then
        let s := s.sweep g.blocks 0
        let s := { s with itg.groups := if g.receivers.isEmpty then tdel i s.itg.groups
                                        else tput (4096 + g.serial) { g with phase := 1, blocks := [] } (tdel i s.itg.groups) }
        (s.count s.holder 0x4080 0xC).push (.confirm (s.idOf g))
      else s

/-- The request a task of a switchover's waiting list stands for. -/
def taskAcc (t : Task) : Option Acc :=
  match t with
  | .arrive a | .home a => some a
  | _ => none

/-- Requests that wait in this device: held, for a cap release, behind another, for snoops, for a group, or for a
switchover. -/
def waitingHere (s : State) : List Acc :=
  let pendAcc := fun (p : Nat × Pend) => match p.2.why with
    | .coherent a _ => some a
    | .version a _ _ => some a
    | _ => none
  let ofHalf := fun (x : HalfSt) => x.held.map (·.acc) ++ x.caps ++ x.pend.filterMap pendAcc
  ofHalf s.west ++ ofHalf s.east ++ s.near.behind ++ s.rdg.blocked.map (·.2.acc) ++ s.itg.waits.map (·.acc) ++ s.plc.waiting.filterMap taskAcc

/-- Requests outstanding at this device: sent to another node, waiting here, or being performed. -/
def openAccs (s : State) : List Acc :=
  (s.eng.outs.map (fun o => if o.joined.isEmpty then [o.acc] else o.joined)).flatten ++ s.eng.retries ++ s.waitingHere ++
    s.spc.walks.map (·.2.acc)

/-- Whether an access that entered here still waits here by the old route of a page (R94). -/
def waitsOld (s : State) (page : Nat) : Bool :=
  s.waitingHere.any (fun a => s.homeGa a.ga / 65536 == page && a.op != .pub && a.q.ctx != 0 && s.isSelf a.q.src)

/-- Outstanding requests and descriptors of a job tell who to inform (R214). -/
def jobHosts (s : State) (c j : Nat) : List Party :=
  let fromOuts := s.openAccs.filterMap (fun a =>
    if a.q.ctx == c && a.q.job == j then
      match a.org with
      | .host d => some d
      | _ => none
    else none)
  let ofEng := fun (e : Eng) =>
    (e.queue ++ e.run.toList).filterMap (fun w => if w.ctx == c && w.job == j then some w.issuer else none)
  let all := fromOuts ++ (s.eng.tiles.map (fun e => ofEng e.2)).flatten ++
    (s.eng.yealms.map (fun e => ofEng e.2)).flatten ++ (s.eng.updates.map (fun e => ofEng e.2)).flatten ++
    s.eng.fronts.filterMap (fun f => if f.2.w.ctx == c && f.2.w.job == j then some f.2.w.issuer else none)
  all.foldl (fun l p => addOnce p l) []

/-- Engines that hold a descriptor of a job. -/
def jobEngines (s : State) (c j : Nat) : List Engine :=
  let pick := fun (cls : EngClass) (t : Tbl Nat Eng) =>
    t.filterMap (fun e => if (e.2.queue ++ e.2.run.toList).any (fun w => w.ctx == c && w.job == j)
                          then some (⟨cls, e.1⟩ : Engine) else none)
  pick .tile s.eng.tiles ++ pick .yealm s.eng.yealms ++ pick .update s.eng.updates

/-- Send the job-end messages of R214: to the hosts, the companion and every roof peer. -/
def tellJobEnd (s : State) (c j reason : Nat) (hosts : List Party) : State :=
  let course := match tget (c, j) s.itg.jobs with
    | some r => r.course
    | none => noCourse
  let peers := s.roofPeers.map (fun n => Party.node n.1 0xF0)
  let comp := if hosts.any (fun p => match p with
    | .companion _ _ => true
    | _ => false) then [] else [Party.companion .west true]
  (hosts ++ comp ++ peers).foldl (fun s d => s.sendIntegrity d 3 reason c j s.nodeNum 0 course) s

end Sys2Proof.Machine.State
end

