-- ==== Sys2Proof/Machine/Finish.lean ====
section
/-! DEFINITION. How a request completes (R3, R60, R211, R223 to R225, R279, R280, R333): the answer of the home, what
the entry device does with it, and its way to the requester. -/

namespace Sys2Proof.Machine.State

/-- Requests that can change memory (R270), with publishes, which are ordered as capping writes (R262). -/
def isWrite (a : Acc) : Bool :=
  match a.op with
  | .write | .atomic | .bput | .pub | .rowAdd | .rowSet | .wbd => true
  | _ => false

/-- A capping write (R278): a store, or a write-back or fetch-free atomic, with the cap flag set. -/
def capping (a : Acc) : Bool :=
  a.q.cap && (a.op == .write || (a.op == .atomic && (aopWriteBack a.q.aop || !aopFetch a.q.aop)))

/-- A read with the cap flag, which is ignored and counted (R278). -/
def capIgnored (a : Acc) : Bool :=
  a.q.cap && (consumes || a.op == .bget)
where consumes := match a.op with
  | .read | .rds | .rdo | .upg => true
  | .atomic => aopFetch a.q.aop && !aopWriteBack a.q.aop
  | _ => false

/-- Requests whose poisoned, mismatched or retracted answer ends the job of the requester (R209, R222). -/
def consumesData (a : Acc) : Bool :=
  match a.op with
  | .read | .rds | .rdo | .upg => true
  | .bget => true
  | .atomic => aopFetch a.q.aop
  | _ => false

/-- The issuing host of a request, or of the descriptor whose engine made it, for R214. -/
def tellOf (s : State) (a : Acc) : List Party :=
  match a.org with
  | .host d => [d]
  | .engine e _ => ((s.engOf e).run.map (·.issuer)).toList
  | .front id _ => ((tget id s.eng.fronts).map (·.w.issuer)).toList
  | _ => []

/-- Job-end reason of a consuming status (R213). -/
def reasonOf (st : Status) : Nat :=
  match st with
  | .poisoned => 1
  | .checkMismatch => 2
  | .unconfirmedRetracted => 3
  | _ => 4

/-- Record a fault of a context (R49, R60, R61): level in bits [9:8], stage in bit 10. -/
def recordFault (s : State) (c code level stage va : Nat) : State :=
  if code == 0 || c == 0 then s
  else s.modCtx c (fun x => { x with lastFault := code + level * 256 + stage * 1024, lastVa := va,
                                     faults := min (x.faults + 1) (2 ^ 32 - 1) })

/-- The segments of a bulk answer (R317): 16 of 256 bytes for each block, with the block's state and check ID; the
sixteenth carries its spar. -/
def bulkSegments (r : Reply) : List Reply :=
  (r.blks.mapIdx (fun k b =>
    (List.range 16).map (fun i =>
      { r with data := slice (256 * i) 256 b.data, seg := 16 * k + i, last := 16 * k + i + 1 == 16 * r.blks.length,
               pz := b.poison / 2 ^ (2 * i) % 4, spar := if i == 15 then some b.spar else none, tg := b.spar.tag,
               st := b.st, u := b.ck.isSome, ck := b.ck.getD ⟨0, 0⟩, blks := [] }))).flatten

/-- A block of a bulk write is answered: the mask and status of the transfer (R317), and its BDONE once every block
has been performed or dropped. -/
def bputDone (s : State) (dest : Party) (a : Acc) (r : Reply) : State :=
  let key := (a.q.src, a.q.sid, a.q.tag)
  match tget key s.eng.bputs with
  | none => s.sendTo dest 1 4 (.bdone r)
  | some x =>
      let x := { x with waiting := x.waiting - 1,
                        mask := if r.status.good then x.mask else x.mask ||| 2 ^ a.q.seg,
                        status := x.status.first r.status,
                        stall := if r.sv && !x.sv then r.stall else x.stall, sv := x.sv || r.sv }
      if x.lastSeen && x.waiting == 0 then
        { s with eng.bputs := tdel key s.eng.bputs }.sendTo dest 1 4
          (.bdone { r with status := x.status, seg := x.mask, sv := x.sv, stall := x.stall })
      else { s with eng.bputs := tput key x s.eng.bputs }

/-- Send an answer on its way (R295, R298, R314). -/
def sendReply (s : State) (dest : Party) (a : Acc) (r : Reply) : State :=
  let r := { r with tag := a.q.tag, ld := s.loadNow }
  match a.op with
  | .bget =>
      if r.status.good then
        (bulkSegments r).foldl (fun s x => s.sendTo dest 1 (replyUnits x) (.bdata x)) s
      else s.sendTo dest 1 4 (.mem r)
  | .bput => s.bputDone dest a r
  | .rds | .rdo => s.sendTo dest 1 (replyUnits r + 1) (.data (a.ga / 128) r)
  | .upg => s.sendTo dest 1 (replyUnits r + 1)
      (if r.status.good && r.data.isEmpty then .ack (a.ga / 128) r else .data (a.ga / 128) r)
  | .wbd | .evc => s.sendTo dest 1 5 (.ack (a.ga / 128) r)
  | _ => s.sendTo dest 1 (replyUnits r) (.mem r)

/-! ### Outstanding writes and capping writes at the entry device (R278 to R280) -/

/-- Source, context and job under which a request is counted. -/
def srcKey (a : Acc) : Nat × Nat × Nat := (a.q.sid, a.q.ctx, a.q.job)

/-- Count a write as outstanding; its issue number (R279). -/
def trackIssue (s : State) (a : Acc) (dest : Nat) : State × Acc :=
  let sj := tgetD (srcKey a) {} s.itg.sources
  if isWrite a && !sj.out.contains (a.q.tag, a.issue) then
    let cap := capping a || a.op == .pub
    let sj' := { sj with out := sj.out ++ [(a.q.tag, sj.next)], next := sj.next + 1,
                         caps := if cap then sj.caps ++ [(a.q.tag, sj.next, dest)] else sj.caps }
    ({ s with itg.sources := tput (srcKey a) sj' s.itg.sources }, { a with issue := sj.next })
  else (s, a)

/-- The status a cap release carries: the earliest failed write since the previous capping write (R280). -/
def capStatus (sj : SrcJob) (issue : Nat) : Status :=
  let since := sj.fails.filter (fun f => f.1 < issue && (match sj.lastCap with
    | some l => decide (l < f.1)
    | none => true))
  match since.foldl (fun (b : Option (Nat × Status)) f =>
      match b with
      | none => some f
      | some x => if f.1 < x.1 then some f else b) none with
  | some f => f.2
  | none => .ok

/-- Release every capping write or publish whose earlier writes have all completed (R279, R280). -/
def checkCaps (s : State) (key : Nat × Nat × Nat) : State :=
  let sj := tgetD key {} s.itg.sources
  let step := fun (acc : State × SrcJob × Bool) (c : Nat × Nat × Nat) =>
    let (s, sj, go) := acc
    if go && sj.out.all (fun o => o.2 ≥ c.2.1) then
      let st := capStatus sj c.2.1
      let sj := { sj with caps := sj.caps.filter (· ≠ c), lastCap := some c.2.1,
                          fails := sj.fails.filter (fun f => c.2.1 < f.1) }
      let s := if s.isSelf c.2.2 then s.push (.capFree s.nodeNum key.1 key.2.2 c.1 st)
               else (s.route { dst := c.2.2, sid := key.1, vc := 0, units := 4,
                               m := .caprel s.nodeNum key.1 key.2.2 c.1 st }).2
      (s, sj, true)
    else (s, sj, false)
  let (s, sj, _) := sj.caps.foldl step (s, sj, true)
  { s with itg.sources := if sj.out.isEmpty && sj.caps.isEmpty && sj.fails.isEmpty && sj.lastCap.isNone
                          then tdel key s.itg.sources else tput key sj s.itg.sources }

/-- A tracked write completed (R279, R280). -/
def trackDone (s : State) (a : Acc) (st : Status) : State :=
  if isWrite a then
    let sj := tgetD (srcKey a) {} s.itg.sources
    let sj := { sj with out := sj.out.filter (fun o => !(o.1 == a.q.tag && o.2 == a.issue)),
                        fails := if st.good then sj.fails else sj.fails ++ [(a.issue, st)] }
    { s with itg.sources := tput (srcKey a) sj s.itg.sources }.checkCaps (srcKey a)
  else s

/-! ### Entry completion -/

/-- What a request of this device carries back to whoever made it. -/
def deliver (s : State) (a : Acc) (r : Reply) : State :=
  match a.org with
  | .host d => s.sendReply d a r
  | .remote d => s.sendReply d a r
  | .shelfRead d tag => s.sendReply d { a with q := { a.q with tag := tag } } { r with grant := 0 }
  | .engine e k => s.push (.deliver e k r)
  | .front id k => s.push (.fronted id k r)
  | .load i => s.push (.loaded i a.ga r.status r.blks)
  | .copy page k => s.push (.copied page k r.status r.blks)
  | .rowCopy t b k => s.push (.rowCopied t b k r.status r.blks)
  | .walk _ | .probe _ | .device => s

/-- Check IDs of the groups whose unconfirmed blocks an answer carries (R223, R317). -/
def replyIds (r : Reply) : List CheckId :=
  (if r.u then [r.ck] else []) ++ r.blks.filterMap (·.ck)

/-- Put every ID into a job's dependency set; none when one must wait (R225, R230). -/
def addDeps (s : State) (c j : Nat) : List CheckId → Option State
  | [] => some s
  | id :: t =>
      match s.addDep c j id with
      | some s => s.addDeps c j t
      | none => none

/-- The entry device's part of a completion: data that ends the job, an unconfirmed answer, the fault record, the
outstanding-write count (R60, R211, R225, R279). -/
def entryDone (s : State) (a : Acc) (r : Reply) (level stage : Nat) : State :=
  let s := s.recordFault a.q.ctx (match r.status with
    | .translationFault | .rightsFault | .accessRevoked => r.fault
    | _ => 0) level stage a.q.addr
  let s := s.trackDone a r.status
  let ends := (r.status.consumes && consumesData a) || (r.status == .checkMismatch && isWrite a)
  let s := if ends then s.push (.endJob a.q.ctx a.q.job (reasonOf r.status) (some (s.tellOf a))) else s
  if r.status.good && a.q.job != 0xFFFF then
    match s.addDeps a.q.ctx a.q.job (replyIds r) with
    | some s => s.deliver a r
    | none => s.waitGroup { acc := a, reply := some r, atHome := false }
  else s.deliver a r

/-- The blocks of a bulk answer are checked by this device, which reads them whole (R204, R206): a mismatch that
stands is taken to the home, and the request completes CHECK_MISMATCH. -/
def checkBulk (s : State) (a : Acc) (r : Reply) : Reply × State :=
  let h := accHalf a
  let s := s.countChecks h r.blks
  if r.blks.any (s.crcBad h) then ({ status := .checkMismatch }, s.confirmMismatch h a.ga a.q.ctx a.q.job) else (r, s)

/-- Complete a request. An engine, a walk or a copy resends what is answered RETRY (R56, R134, R169, R193). -/
def finishAt (s : State) (a : Acc) (r : Reply) (level stage : Nat) : State :=
  match a.org with
  | .remote _ | .shelfRead _ _ => s.deliver a r
  | .host _ =>
      let (r, s) := s.checkBulk a r
      s.entryDone a r level stage
  | .walk id =>
      if r.status == .retry then { s with eng.retries := s.eng.retries ++ [a] }
      else
        let put := fun (w : Walk) =>
          if r.status.good then { w with got := w.got ++ [(a.ga, r.data)], await := none }
          else { w with await := none, fail := some (a.ga, match r.status with
            | .poisoned => 7
            | .unconfirmedRetracted => 7
            | .nodeUnreachable => 8
            | _ => 3) }
        match tget id s.spc.walks with
        | some w => { s with spc.walks := tput id (put w) s.spc.walks }.push (.walk id)
        | none => s
  | .engine _ _ | .front _ _ =>
      if r.status == .retry then { s with eng.retries := s.eng.retries ++ [a] }
      else if placing a then s.deliver a r
      else s.entryDone a r level stage
  | .copy _ _ | .rowCopy _ _ _ | .load _ =>
      if r.status == .retry then { s with eng.retries := s.eng.retries ++ [a] }
      else
      let (r, s) := s.checkBulk a r
      s.deliver a r
  | .probe _ | .device => s

def finish (s : State) (a : Acc) (r : Reply) : State := s.finishAt a r 0 0

/-- Complete a request with a status alone. -/
def fail (s : State) (a : Acc) (st : Status) (fault : Nat := 0) : State := s.finish a { status := st, fault := fault }

/-! ### The home's side -/

/-- Whether a request is the one a RETRY record or an Aged entry names. -/
def sameReq (a : Acc) (r : Retried) : Bool :=
  r.src == a.q.src && r.sid == a.q.sid && r.ctx == a.q.ctx && r.job == a.q.job && (r.tag == a.q.tag || r.ga == a.ga)

/-- Note the RETRY of a write, or that a retried write has been answered otherwise (R276). -/
def noteRetry (s : State) (h : Half) (a : Acc) (st : Status) : State :=
  if isWrite a then
    if st == .retry then
      s.modHalf h (fun x => if x.retried.any (sameReq a) then x else
        { x with retried := x.retried ++ [⟨a.q.src, a.q.sid, a.q.ctx, a.q.job, a.q.tag, a.ga⟩] })
    else s.modHalf h (fun x => { x with retried := x.retried.filter (fun r => !sameReq a r) })
  else s

/-- The oldest queued Aged request of a line may become its head from now on (R252). -/
def ageNext (now line : Nat) : List Aged → List Aged
  | [] => []
  | g :: t => if g.line == line then { g with since := now } :: t else g :: ageNext now line t

/-- The Aged head of a line completes when its answer leaves the ridge part (R252). -/
def ageDone (s : State) (h : Half) (a : Acc) : State :=
  let mine := fun (g : Aged) => g.head && g.src == a.q.src && g.sid == a.q.sid && g.tag == a.q.tag
  if (s.half h).aged.any mine then
    s.modHalf h (fun x =>
      (x.aged.filter mine).foldl (fun x g => { x with aged := ageNext s.now g.line x.aged })
        { x with aged := x.aged.filter (fun g => !mine g) })
  else s

/-- The home answers a request (R333): RETRY always carries its cause, and a request that waited here says so. -/
def answer (s : State) (h : Half) (a : Acc) (r : Reply) : State :=
  -- a holder away from the home gives its own node in the answer (R93, R319)
  let r := match a.org with
    | .remote _ => if s.isSelf (gaNode a.ga) then r else { r with loc := some (r.loc.getD s.nodeNum) }
    | _ => r
  -- a fallback copy was read in place of the range asked for (R103)
  let r := if a.fell && r.status == .ok then { r with status := .tierFallback } else r
  let r := if r.status == .retry then { r with sv := true }
           else if a.waited && !r.sv then { r with sv := true, stall := a.cause } else r
  let s := s.noteRetry h a r.status
  let s := if r.status == .retry then s else s.ageDone h a
  let s := if s.near.behind.any (fun b => b.q.src == a.q.src && b.q.sid == a.q.sid) then s.push (.behind a.q.src a.q.sid) else s
  s.finish a r

/-- The home refuses a request for now, with a stall cause (R99, R333). -/
def retry (s : State) (h : Half) (a : Acc) (cause : Nat) : State :=
  s.answer h a { status := .retry, sv := true, stall := cause }

end Sys2Proof.Machine.State
end

