-- ==== Sys2Proof/Machine/Perform.lean ====
section
/-! DEFINITION. Stages 6 and 7 at the home (R20): counters, channels, poison, result states, and the reading or
writing of the stack (R85, R86, R202, R205, R207 to R210, R222, R223, R226, R284, R363, R364). -/

namespace Sys2Proof.Machine.State

/-- Lines an access of n bytes at a near offset touches. -/
def linesOf (off n : Nat) : List Nat := (List.range ((off + n + 127) / 128 - off / 128)).map (· + off / 128)

/-- 4 KiB blocks an access touches. -/
def blocksOf (off n : Nat) : List Nat := (List.range ((off + n + 4095) / 4096 - off / 4096)).map (· + off / 4096)

/-- Bytes an access names: READ and WRITE by size, atomics by operation, bulk requests by block, coherent ones a
line. -/
def accBytes (a : Acc) : Nat :=
  match a.op with
  | .read | .write | .rowAdd | .rowSet => a.q.size
  | .atomic => aopSize a.q.aop
  | .bget => 4096 * max 1 a.q.size
  | .bput => 4096
  | _ => 128

/-- Whether any block of a range is in a retired channel. -/
def retiredIn (s : State) (off n : Nat) : Bool := (blocksOf off n).any (fun b => s.retiredAt (b * 4096))

/-- Whether a line's channel is being copied to the spare and the line has not been copied (R363). -/
def uncopied (s : State) (line : Nat) : Bool :=
  let k := s.stackRec (stackOf (line * 128))
  k.copying && k.spare == some (channelOf (line * 128)) && !k.copied.contains line

def markCopied (s : State) (line : Nat) : State :=
  if s.uncopied line then
    { s with near.stackRecs := tmod (stackOf (line * 128)) {} (fun k => { k with copied := k.copied ++ [line] })
                            s.near.stackRecs }
  else s

/-- Count a tenant access to a counted page (R85, R86): with probability 2^-k, by a draw the manual leaves open. -/
def countAccess (s : State) (h : Half) (a : Acc) : State :=
  let g := s.homeGa a.ga
  if a.q.job == 0xFFFF || a.q.ctx == 0 || !s.cfgBit h 0x2070 1 0 || bitOf (s.ctx a.q.ctx).flags 1
    || s.crs.first == noCourse then s
  else
    let placed := match tget (g / 65536) s.plc.here with
      | some f => f.live
      | none => false
    if !placed && !s.counted a.q.ctx g then s
    else
      let k := min (s.cfg h 0x2070 2) 15
      let d := Config.accessDraw s.free
      let s := { s with free := s.free + 1 }
      if d % 2 ^ k == 0 then
        let n := if s.isSelf a.q.src then s.nodeNum else a.q.src
        { s with plc.counters := tmod (g / 65536) {} (fun w =>
            let w := { w with count := min (w.count + 1) 255, placed := placed }
            if w.cand == n then { w with weight := min (w.weight + 1) 15 }
            else if w.weight == 0 then { w with cand := n, weight := 1 }
            else { w with weight := w.weight - 1 }) s.plc.counters }
      else s

/-- What a data read of a range meets: poison before retraction (R209, R222). -/
def readBlocked (s : State) (off n : Nat) : Option Status :=
  if s.retiredIn off n then some .poisoned
  else if (linesOf off n).any s.poisoned then some .poisoned
  else if (blocksOf off n).any (fun b => (s.metaOf b).st == 2) then some .unconfirmedRetracted
  else none

/-- What a partial write or a reduction meets (R209, R222). -/
def partBlocked (s : State) (off n : Nat) : Option Status := s.readBlocked off n

/-- The check ID of the group of an unconfirmed block of a range (R223). -/
def rangeId (s : State) (off n : Nat) : Option (Nat × Group) :=
  (blocksOf off n).findSome? (fun b =>
    let m := s.metaOf b
    if m.st == 1 then (tget m.hold s.itg.groups).map (fun g => (m.hold, g)) else none)

/-- The node that data read by a request goes to: the requester's, or the destination of a copy (R210, R223). -/
def readerOf (s : State) (a : Acc) : Nat :=
  match a.org with
  | .copy page _ => ((s.plc.moves.find? (fun m => m.page == page)).map (·.dest)).getD a.q.src
  | .rowCopy t b _ => ((s.ylx.moves.find? (fun m => m.t == t && m.b == b)).map (·.dest)).getD a.q.src
  | _ => a.q.src

/-- Add the node a read's data goes to to the receivers of the group of the block it reads (R223); none for a 65th. -/
def readReceiver (s : State) (a : Acc) (i : Nat) (g : Group) : Option State := s.groupReceiver i g (s.readerOf a)

/-- The same for the first group of a range that a read meets. -/
def takeReceiver (s : State) (a : Acc) (off n : Nat) : Option State :=
  match s.rangeId off n with
  | some (i, g) => s.readReceiver a i g
  | none => some s

/-- Rows of a block being moved that a range of this device's memory meets. -/
def rowsMet (s : State) (m : RMove) (off n : Nat) : List Nat :=
  match tget m.t s.ylx.tables with
  | none => []
  | some t => (match s.blockHere t m.t m.b with
    | none => []
    | some o =>
        let k := rowSize t
        (List.range 256).filterMap (fun j =>
          if o + j * k < off + n && off < o + (j + 1) * k then (blockRows t m.b)[j]? else none))

/-- Marks left where n bytes at a near offset change: lines and rows already copied of a page or a row block being moved,
lines of a range an admitted device loads, and staged rows (R91, R137, R143, R253, R390). -/
def noteWrite (s : State) (off n : Nat) : State :=
  let mv := s.plc.moves.map (fun m => if m.phase == 0 then m else match s.pageAt m.page with
    | some o => { m with dirty := (linesOf off n).foldl (fun l x => if o / 128 ≤ x && x < o / 128 + 512 then addOnce (x - o / 128) l else l) m.dirty }
    | none => m)
  let rm := s.ylx.moves.map (fun m => if m.phase == 0 then m else { m with marks := (s.rowsMet m off n).foldl (fun l x => addOnce x l) m.marks })
  let sv := s.avl.serving.map (fun v =>
    if v.base ≤ off && off < v.base + v.pages * 65536 then
      { v with log := (linesOf off n).foldl (fun l x => if v.copied.contains x then addOnce x l else l) v.log }
    else v)
  -- every staged copy of a line written is dropped, whichever of its bytes are
  let drop := fun (x : HalfSt) => { x with staged := x.staged.filter (fun r =>
    !(r.off / 128 ≤ (off + n - 1) / 128 && off / 128 ≤ (r.off + r.size - 1) / 128)) }
  ({ s with plc.moves := mv, ylx.moves := rm, avl.serving := sv }.modBoth drop)

/-- The state a written block takes (R222, R226): a tainted job's write makes it unconfirmed in the home's open group
of that job; a whole-block write of an untainted job confirms it. -/
def settleBlock (s : State) (a : Acc) (block : Nat) (whole : Bool) : State :=
  if a.q.u && !a.hold then s.joinGroup a.q.ctx a.q.job block
  else if whole then (s.leaveGroup block).setMeta block (fun m => { m with st := 0, hold := 0 })
  else s

/-- Count a row read or an update at the access to the row's first byte: in the load of its block, and a read among the
rows served (R141, R146). -/
def countRow (s : State) (h : Half) (ga : Nat) (read : Bool) : State :=
  if s.ylx.tables.isEmpty then s
  else match s.blockAtGa ga with
    | some (t, b, off) => if (match tget t s.ylx.tables with
        | some x => off % rowSize x != 0
        | none => true) then s
      else
        let s := { s with ylx.loads := tmod (t, b) {} (fun w => { w with count := min (w.count + 1) (2 ^ 24 - 1) }) s.ylx.loads }
        if read then s.count h 0x4050 3 else s
    | none => s

/-- A read of n bytes (R202, R209, R222, R223). -/
def doRead (s : State) (h : Half) (a : Acc) (off n : Nat) : State :=
  match s.readBlocked off n with
  | some st => s.answer h a { status := st }
  | none =>
      let lines := linesOf off n
      let s := if 0x10 ≤ a.q.sid && a.q.sid < 0x30 && a.q.job != 0xFFFF && !staging a then s.countRow h a.ga true else s
      let a := if lines.any s.uncopied && !a.waited then { a with waited := true, cause := 7 } else a
      let s := lines.foldl markCopied s
      let tag := (s.metaOf (off / 4096)).tag
      let data := s.loadBytes off n
      match s.rangeId off n with
      | none => s.answer h a { data := data, tg := tag }
      | some (i, g) =>
          match s.readReceiver a i g with
          | none => s.waitGroup { acc := a, reply := none, atHome := true }
          | some s => s.answer h a { data := data, tg := tag, u := true, ck := s.idOf g }

/-- Poison the lines that arrived poisoned (R207). -/
def poisonCarried (s : State) (off n pz : Nat) : State :=
  if pz == 0 then s
  else ((List.range (linesOf off n).length).zip (linesOf off n)).foldl (fun s x => if bitOf pz x.1 then s.poisonLine x.2 else s) s

/-- What a write of part of a 4 KiB block does to a line (R208, R209, R222): the failure it meets there, if any. A line written
whole is no longer poisoned. -/
def lineShut (s : State) (off n l : Nat) : Option Status :=
  if s.retiredAt (l * 128) then some .poisoned
  else if s.poisoned l && !(off ≤ l * 128 && l * 128 + 128 ≤ off + n) then some .poisoned
  else if (s.metaOf (l / 32)).st == 2 then some .unconfirmedRetracted
  else none

/-- Write n bytes at a near offset, line by line where a line does not take them (R209, R222, R273). -/
def writeLines (s : State) (off : Nat) (bs : Bytes) (shut : List Nat) : State :=
  if shut.isEmpty then s.writeNear off bs
  else ((linesOf off bs.length).filter (fun l => !shut.contains l)).foldl (fun s l =>
    let lo := max off (l * 128)
    s.writeNear lo (slice (lo - off) (min (off + bs.length) (l * 128 + 128) - lo) bs)) s

/-- A store of n bytes (R202, R208, R209, R222, R273): each line whole or in part, and each by itself. -/
def doWrite (s : State) (h : Half) (a : Acc) (off : Nat) (bs : Bytes) : State :=
  let n := bs.length
  let shut := (linesOf off n).filter (fun l => (s.lineShut off n l).isSome)
  let st := (linesOf off n).foldl (fun st l => match s.lineShut off n l with
    | some x => st.first x
    | none => st) Status.ok
  let blocks := (blocksOf off n).filter (fun b => (s.metaOf b).st != 2)
  let s := (linesOf off n).foldl markCopied s
  let s := s.writeLines off bs shut
  let s := s.poisonCarried off n a.q.pz
  let s := blocks.foldl (fun s b => s.settleBlock a b false) s
  -- a piece of a retracted block that the device itself moves arrives retracted (R210)
  let s := if a.q.st == 2 && a.q.job == 0xFFFF then (blocksOf off n).foldl (fun s b => s.setMeta b (fun m => { m with st := 2 })) s else s
  (s.noteWrite off n).answer h a { status := st }

/-- An atomic is performed on its line (R284, R286). -/
def applyAtomic (s : State) (h : Half) (a : Acc) (off : Nat) (r : Reply) : State :=
  let n := aopSize a.q.aop
  let old := s.loadBytes off n
  let r := { r with data := if aopFetch a.q.aop then old else [], tg := (s.metaOf (off / 4096)).tag }
  let s := s.writeNear off (atomicApply a.q.aop old a.q.data)
  let s := (blocksOf off n).foldl (fun s b => s.settleBlock a b false) s
  ((s.noteWrite off n).count h 0x40A0 1).answer h a r

/-- An atomic (R284, R286, R209, R222). A fetching one of an unconfirmed block answers with its group's check ID, once
its entry node is a receiver (R223). -/
def doAtomic (s : State) (h : Half) (a : Acc) (off : Nat) : State :=
  let n := aopSize a.q.aop
  match s.partBlocked off n with
  | some st => s.answer h a { status := st }
  | none =>
      match (if aopFetch a.q.aop then s.rangeId off n else none) with
      | none => s.applyAtomic h a off {}
      | some (i, g) =>
          match s.readReceiver a i g with
          | none => s.waitGroup { acc := a, reply := none, atHome := true }
          | some s => s.applyAtomic h a off { u := true, ck := s.idOf g }

/-- A block as a bulk answer carries it, and the receivers of its group with the reader's node (R210, R223, R317). -/
def readBlk (s : State) (a : Acc) (block : Nat) : Option (Blk × State) :=
  let m := s.metaOf block
  let k : Blk := { data := s.loadBytes (block * 4096) 4096, poison := s.poisonMask block, spar := ⟨m.crc, m.tag⟩,
                   st := m.st, void := m.void }
  match (if m.st == 1 then tget m.hold s.itg.groups else none) with
  | none => some (k, s)
  | some g => (s.readReceiver a m.hold g).map (fun t => ({ k with ck := some (s.idOf g) }, t))

/-- Every block of a range; none when one must wait for a receiver slot (R230). -/
def readBlks (s : State) (a : Acc) : List Nat → Option (List Blk × State)
  | [] => some ([], s)
  | b :: t =>
      match s.readBlk a b with
      | none => none
      | some (k, s) => (s.readBlks a t).map (fun r => (k :: r.1, r.2))

/-- A bulk read by a device that is being admitted: device traffic of a roof member (R390). -/
def loadRead (s : State) (a : Acc) : Bool :=
  a.op == .bget && a.q.job == 0xFFFF && a.q.ctx == 0 && a.q.sid == 0xF0 && !s.isSelf a.q.src && s.isRoofPeer a.q.src

/-- A page to be loaded lies in an extent, outside MANAGED and HINTED regions (R390). -/
def mayServe (s : State) (off : Nat) : Bool :=
  s.spc.extents.any (fun x => x.2.state == 2 && x.2.base ≤ off && off < x.2.base + x.2.pages * 65536) &&
  !s.plc.regions.any (fun r => (r.2.cls == 2 || r.2.cls == 3) && s.isSelf (gaNode r.2.base) && gaOff r.2.base ≤ off &&
    off < gaOff r.2.base + r.2.pages * 65536)

/-- Keep a page as one that another device loads (R390). -/
def serve (s : State) (node off : Nat) : State :=
  let base := off / 65536 * 65536
  if s.avl.serving.any (fun v => v.base == base) then s
  else { s with avl.serving := s.avl.serving ++ [{ node := node, base := base, pages := 1 }] }

/-- A bulk read or an engine's read of whole blocks: data with poison, spar and state of each block (R210, R317). -/
def doBget (s : State) (h : Half) (a : Acc) (off n : Nat) : State :=
  if s.loadRead a && !s.mayServe off then s.answer h a { status := .accessRevoked }
  else if s.retiredIn off n then s.answer h a { status := .poisoned }
  else
    let s := if s.loadRead a then s.serve a.q.src off else s
    let read := fun (v : Serving) =>
      if a.q.job == 0xFFFF && a.q.src == v.node && v.base ≤ off && off < v.base + v.pages * 65536 then
        { v with copied := (linesOf off n).foldl (fun l x => addOnce x l) v.copied,
                 log := v.log.filter (fun x => !(linesOf off n).contains x) } else v
    let s := { s with avl.serving := s.avl.serving.map read }
    match s.readBlks a (blocksOf off n) with
    | none => s.waitGroup { acc := a, reply := none, atHome := true }
    | some (ks, s) => s.answer h a { blks := ks }

/-- Whether a block write's spar is that of its data (R205). -/
def sparGood (a : Acc) : Bool :=
  match a.q.spar with
  | some p => p.crc = crc32c (fitTo 4096 a.q.data) || a.q.pz != 0
  | none => true

/-- Take a spar mismatch record that a write's resend matches (R205). -/
def takeMismatch (s : State) (h : Half) (a : Acc) : Option State :=
  let hit := fun (m : Mismatch) => m.src == a.q.src && m.sid == a.q.sid && m.tag == a.q.tag && m.block == a.ga / 4096
  if (s.half h).mismatches.any hit then
    some (s.modHalf h (fun x => { x with mismatches := x.mismatches.filter (fun m => !hit m) }))
  else none

/-- A write of one whole block with its spar (R202, R205, R208, R210, R222). -/
def doBput (s : State) (h : Half) (a : Acc) (off : Nat) : State :=
  let resend := s.takeMismatch h a
  let s' := resend.getD s
  if !sparGood a then
    match resend with
    | some s => s.answer h a { status := .checkMismatch }
    | none =>
        if 256 ≤ (s.half h).mismatches.length then (s.count h 0x4080 0x13).answer h a { status := .checkMismatch }
        else (s.modHalf h (fun x => { x with mismatches := x.mismatches ++ [⟨a.q.src, a.q.sid, a.q.tag, a.ga / 4096⟩] })).retry h a 7
  else if s'.retiredAt off then s'.answer h a { status := .poisoned }
  else
    let b := off / 4096
    let data := fitTo 4096 a.q.data
    let spar := a.q.spar.getD ⟨crc32c data, 0⟩
    -- a write that its job's ending has overtaken leaves the block's state as it is (R226)
    let late := !a.q.u && a.q.job != 0xFFFF && s'.jobEnded a.q.ctx a.q.job
    let was := s'.metaOf b
    let s := if late then s'.writeBlock b data spar.crc spar.tag a.q.pz was.st was.hold
      else (s'.leaveGroup b).writeBlock b data spar.crc spar.tag a.q.pz (if a.q.st == 2 then 2 else 0) 0
    let s := if a.q.u && !a.hold then s.joinGroup a.q.ctx a.q.job b else s
    let s := (linesOf off 4096).foldl markCopied s
    let s := s.noteWrite off 4096
    s.answer h a {}

/-- A held write-back of a tainted job's line, applied once its check ID is confirmed (R226, R244). -/
def doBack (s : State) (h : Half) (a : Acc) (off : Nat) : State :=
  let s := s.writeNear off (fitTo 128 a.q.data)
  let s := if a.q.pz % 2 == 1 then s.poisonLine (off / 128) else s
  (s.noteWrite off 128).answer h a { status := if s.retiredAt off then .poisoned else .ok }

/-! ### Rows (R128, R129, R131, R141) -/

def stampLt (a b : Stamp) : Bool :=
  a.src < b.src || (a.src == b.src && (a.seq < b.seq || (a.seq == b.seq && (a.pos < b.pos || (a.pos == b.pos && a.job < b.job)))))

/-- Resolve a scatter-set against the kept stamp of its row (R129): whether it is applied. -/
def stampGate (s : State) (h : Half) (t row off : Nat) (st : Stamp) : Bool × State :=
  match tget (t, row) s.ylx.stamps with
  | some old =>
      if stampLt old st then (false, s.count h 0x4050 6)
      else if stampLt st old then (true, { s with ylx.stamps := tput (t, row) st s.ylx.stamps }.count h 0x4050 6)
      else (true, s)
  | none =>
      if 16384 ≤ (s.ylx.stamps.filter (fun x => x.2.stack == stackOf off)).length then (true, s.count h 0x4050 7)
      else (true, { s with ylx.stamps := tput (t, row) st s.ylx.stamps })

/-- Elements of an update added to elements of a row (R128): both in FP32 or BF16. -/
def addElems (rfmt vfmt : Nat) : Nat → Bytes → Bytes → Bytes
  | 0, old, _ => old
  | n + 1, old, v =>
      let rb := if rfmt == 1 then 4 else 2
      let vb := if vfmt == 1 then 4 else 2
      let get := fun (f : Nat) (b : Bytes) => if f == 1 then BitVec.ofNat 32 (ofLe (b.take 4)) else ofBf16 (ofLe (b.take 2))
      let x := fadd (get rfmt old) (get vfmt v)
      (if rfmt == 1 then le 4 x.toNat else le 2 (bf16 x)) ++ addElems rfmt vfmt n (old.drop rb) (v.drop vb)

/-- A row update at the row's location (R128, R129, R131): lines that are poisoned or of a retracted block stay as they
are. -/
def doRow (s : State) (h : Half) (a : Acc) (off : Nat) : State :=
  match tget a.q.agentTag s.ylx.tables with
  | none => s.answer h a { status := .rightsFault }
  | some t =>
      let row := (rowAtGa t (s.homeGa a.ga)).getD 0
      let n := a.q.size
        let (go, s) := if a.op == .rowSet then
          s.stampGate h a.q.agentTag row off ⟨a.q.src, a.region, a.version, a.q.job, stackOf off⟩ else (true, s)
        if !go then s.answer h a { version := some 1 }
        else
          let old := s.loadBytes off n
          let new := if a.op == .rowSet then fitTo n a.q.data else addElems t.fmt a.q.aop t.dim old a.q.data
          let bad := (linesOf off n).any (fun l => s.poisoned l || s.retiredAt (l * 128))
          let gone := (blocksOf off n).any (fun b => (s.metaOf b).st == 2)
          let shut := (linesOf off n).filter (fun l => s.poisoned l || s.retiredAt (l * 128) || (s.metaOf (l / 32)).st == 2)
          let s := s.writeLines off (fitTo n new) shut
          let s := ((blocksOf off n).filter (fun b => (s.metaOf b).st != 2)).foldl (fun s b => s.settleBlock a b false) s
          let s := s.noteWrite off n
          let s := if shut.isEmpty then s.countRow h a.ga false else s
          s.answer h a { status := if bad then .poisoned else if gone then .unconfirmedRetracted else .ok }

/-- Stage 6 for an access that the ridge has passed. -/
def perform (s : State) (a : Acc) (off : Nat) : State :=
  let h := offHalf off
  let s := s.countAccess h a
  match a.op with
  | .read => s.doRead h a off a.q.size
  | .write => s.doWrite h a off (fitTo a.q.size a.q.data)
  | .atomic => s.doAtomic h a off
  | .bget => s.doBget h a off (4096 * max 1 a.q.size)
  | .bput => s.doBput h a off
  | .rowAdd | .rowSet => s.doRow h a off
  | .rds | .rdo | .upg => s.doRead h a off 128
  | .wbd => s.doBack h a off
  | _ => s

end Sys2Proof.Machine.State
end

