-- ==== Sys2Proof/Machine/Directory.lean ====
section
/-! DEFINITION. The ridge's directory, agents, presence filter, snoops and Aged queue (R238 to R252, R264). -/

namespace Sys2Proof.Machine.State

/-- Local line number of a line (R241). -/
def localLine (line : Nat) : Nat := if offHalf (line * 128) == .west then line else line - 0xC000000000 / 128

/-- Set index of a line (R241). -/
def setIndex (line : Nat) : Nat := Nat.xor (localLine line % 2 ^ 20) (localLine line / 2 ^ 20 % 2 ^ 13)

def entryOf (s : State) (h : Half) (line : Nat) : Option Entry := tget line (s.half h).dir

/-- Entries that are foreign for the presence filter (R264). -/
def foreignEntry : Option Entry → Bool
  | none => false
  | some e => !((e.st == 1 || e.st == 3 || e.st == 4 || e.st == 5) && e.shr % 64 == 0)

/-- One counter of a filter copy: it saturates at 15 and then stays (R264). -/
def filterCount (t : Tbl Nat Nat) (i : Nat) (up : Bool) : Tbl Nat Nat :=
  let v := tgetD i 0 t
  if v == 15 then t else if (if up then v + 1 else v - 1) == 0 then tdel i t else tput i (if up then v + 1 else v - 1) t

/-- One counter of both copies (R264). -/
def filterStep (s : State) (i : Nat) (up : Bool) : State :=
  let full := up && tgetD i 0 s.rdg.filter == 14
  let s := { s with rdg.filter := filterCount s.rdg.filter i up, rdg.filterEast := filterCount s.rdg.filterEast i up }
  if full then s.count .west 0x4090 0x10 else s

def filterLine (s : State) (h : Half) (line : Nat) (up : Bool) : State :=
  let s := s.filterStep (Config.filterHash1 (localLine line) h % 2 ^ 23) up
  s.filterStep (Config.filterHash2 (localLine line) h % 2 ^ 23) up

/-- Set or clear a line's entry, with the presence filter kept (R242, R264). -/
def setEntry (s : State) (h : Half) (line : Nat) (e : Option Entry) : State :=
  let old := s.entryOf h line
  let s := if !foreignEntry old && foreignEntry e then s.filterLine h line true else s
  let e := e.map (fun x => { x with use := s.rdg.lru })
  let s := { s with rdg.lru := s.rdg.lru + 1 }
  let s := s.modHalf h (fun x => { x with dir := match e with
    | none => tdel line x.dir
    | some e => tput line e x.dir })
  if foreignEntry old && !foreignEntry e then s.filterLine h line false else s

def agentRec (s : State) (a : Nat) : Agent := tgetD a {} s.rdg.agents

/-- The agents an entry stands for (R243). -/
def sharers (s : State) (e : Entry) : List Nat :=
  if e.st == 2 || e.st == 6 then
    (List.range 64).filter (fun a => bitOf e.shr (a / 8) && ((s.agentRec a).state == 1 || (s.agentRec a).state == 2))
  else [e.shr % 64]

/-- Group form holding the given agents (R243). -/
def groupOf (as : List Nat) : Nat := as.foldl (fun m a => Nat.lor m (2 ^ (a / 8))) 0

def isRp (e : Entry) : Bool := e.st == 5 || e.st == 6
def isOwned (e : Entry) : Bool := e.st == 3 || e.st == 4

/-- The entry of a line while its snoops are outstanding (R247). -/
def rpOf (e : Entry) : Entry := { e with st := if e.st == 2 then 6 else 5 }

/-- Send a snoop to an agent (R245): 8 SNPS, 9 SNPI, 0xA SNPR, 0xB DOWN. -/
def snoopTo (s : State) (h : Half) (a op line : Nat) : State :=
  let g := s.agentRec a
  let s := if op == 0xB then s else
    { s with rdg.agents := tmod a {} (fun g => { g with snoops := min (g.snoops + 1) (2 ^ 64 - 1) }) s.rdg.agents }.count h 0x4090 5
  let m := Msg.snoop g.tag op line
  -- a lost purlin carries no ridge message (R13, R387): the snoop has no way out of its half
  let cut := fun (k : Half) => !s.avl.purlinUp && k != h
  if a == 0 then (if s.avl.purlinUp || s.endUp h then s.toCompanion h false m else s)
  else if s.isSelf g.node then (if (g.port.map (fun p => cut (portHalf p))).getD false then s else s.emit (.agent a m))
  else if (match s.wayTo g.node with
    | .port p => cut (portHalf p)
    | .relay _ p => cut (portHalf p)
    | _ => false) then s
  else (s.route { dst := g.node, sid := 0xF0, vc := 2, units := 5, m := m }).2

/-- Put a line in Recall-pending and snoop its holders. With nobody to snoop the pending operation has no answer to
wait for; the caller goes on at once. -/
def startSnoop (s : State) (h : Half) (line snp : Nat) (old : Entry) (to' : List Nat) (why : Why) (discard : Bool) : State :=
  let s := s.setEntry h line (some (rpOf old))
  let p : Pend := { snp := snp, await := to', old := old, why := why, discard := discard, stamp := s.now }
  let s := s.modHalf h (fun x => { x with pend := tput line p x.pend })
  to'.foldl (fun s a => s.snoopTo h a snp line) s

/-- Room in the half's pending table (R250). -/
def pendRoom (s : State) (h : Half) (n : Nat) : Bool := (s.half h).pend.length + n ≤ 4096

/-- Whether a line is the version line of a defined publication region (R261). -/
def isVersionLine (s : State) (line : Nat) : Bool := s.rdg.regions.any (fun r => gaOff r.2.base / 128 == line)

/-- The registered and active agent a coherent request comes from (R239). -/
def agentFor (s : State) (q : Req) : Option Nat :=
  match q.via with
  | .geled _ _ => if (s.agentRec 0).state == 1 then some 0 else none
  | _ => (s.rdg.agents.find? (fun a => a.2.state == 1 && a.1 != 0 && a.2.tag == q.agentTag &&
            (a.2.node == q.src || (s.isSelf a.2.node && s.isSelf q.src)))).map (·.1)

/-- The agent a write-back or an eviction comes from: one that is leaving may still write back (R240, R246). -/
def backAgent (s : State) (q : Req) : Option Nat :=
  match q.via with
  | .geled _ _ => if (s.agentRec 0).state == 1 then some 0 else none
  | _ => (s.rdg.agents.find? (fun a => (a.2.state == 1 || a.2.state == 2) && a.1 != 0 && a.2.tag == q.agentTag &&
            (a.2.node == q.src || (s.isSelf a.2.node && s.isSelf q.src)))).map (·.1)

/-- Resolve on demand an entry that names an agent being reclaimed (R257). -/
def reclaimLine (s : State) (h : Half) (line : Nat) : State :=
  match s.entryOf h line with
  | some e =>
      if (e.st == 1 || isOwned e) && (s.agentRec (e.shr % 64)).state == 3 then
        let s := if isOwned e then (s.poisonLine line).count h 0x4090 0xA else s
        s.setEntry h line none
      else s
  | none => s

/-- The way of a full set that a new line takes the place of (R249). -/
def victimOf (s : State) (h : Half) (line : Nat) : Option (Nat × Entry) :=
  let ways := (s.half h).dir.filter (fun e => setIndex e.1 == setIndex line && !isRp e.2)
  let pick := fun (l : List (Nat × Entry)) => l.foldl (fun (b : Option (Nat × Entry)) e =>
    match b with
    | none => some e
    | some x => if e.2.use < x.2.use then some e else b) none
  match pick (ways.filter (fun e => e.2.st == 1 || e.2.st == 2)) with
  | some v => some v
  | none =>
      match pick (ways.filter (fun e => e.2.st == 3)) with
      | some v => some v
      | none => pick (ways.filter (fun e => e.2.st == 4))

/-- Ways of a line's set in use. -/
def waysUsed (s : State) (h : Half) (line : Nat) : Nat :=
  ((s.half h).dir.filter (fun e => setIndex e.1 == setIndex line)).length

/-- Recall a line for the ridge's own purpose, now or when the pending table has room (R250). -/
def recallLine (s : State) (h : Half) (line : Nat) (why : Why) (discard : Bool) : State :=
  let s := s.reclaimLine h line
  match s.entryOf h line with
  | none => s
  | some e =>
      let wait := s.modHalf h (fun x => { x with recalls := x.recalls ++ [(line, why)] })
      -- a line already Recall-pending is snooped for the ridge's own purpose after its pending operation
      if isRp e then (if why = .overflow || why = .entryError then s else wait)
      else
        let to' := match why with
          | .deregister a => (s.sharers e).filter (· == a)
          | _ => s.sharers e
        if to'.isEmpty then (match why with
          | .deregister _ => s
          | _ => s.setEntry h line none)
        else if s.pendRoom h 1 then s.startSnoop h line 9 e to' why discard
        else wait

/-- Recall a victim for a full set; false when every way is Recall-pending (R249). -/
def makeRoom (s : State) (h : Half) (line : Nat) : State :=
  match s.victimOf h line with
  | some v => (s.count h 0x4090 4).recallLine h v.1 .overflow false
  | none => s

/-! ### Ageing (R251, R252) -/

def sameAged (g : Aged) (a : Acc) : Bool := g.src == a.q.src && g.sid == a.q.sid && g.tag == a.q.tag

/-- Queue an Aged request for a line, or count that the queue is full (R252). -/
def ageQueue (s : State) (h : Half) (a : Acc) (line : Nat) : State :=
  if a.q.rc < 8 then s
  else
    let x := s.half h
    if x.aged.any (fun g => g.line == line && sameAged g a) then s
    else if 256 ≤ x.aged.length then s.count h 0x4090 8
    else s.modHalf h (fun x => { x with aged := x.aged ++ [{ line := line, src := a.q.src, sid := a.q.sid, tag := a.q.tag, since := s.now }] })

/-- Whether the Aged queue admits a request to a line, and the queue with the request made head (R252). -/
def ageGate (s : State) (h : Half) (a : Acc) (line : Nat) (rp : Bool) : Bool × State :=
  let mine := (s.half h).aged.filter (fun g => g.line == line)
  match mine.find? (·.head) with
  | some g => if sameAged g a && !rp then (true, s) else (false, if sameAged g a then s else s.ageQueue h a line)
  | none =>
      match mine with
      | g :: _ =>
          if !rp && sameAged g a then
            (true, (s.modHalf h (fun x => { x with aged := x.aged.map (fun y =>
              if y.line == line && sameAged y a then { y with head := true } else y) })).count h 0x4090 7)
          else (false, s.ageQueue h a line)
      | [] =>
          if rp then (false, s.ageQueue h a line)
          else if a.q.rc ≥ 8 then
            (true, (s.modHalf h (fun x => { x with aged := x.aged ++
              [{ line := line, src := a.q.src, sid := a.q.sid, tag := a.q.tag, head := true }] })).count h 0x4090 7)
          else (true, s)

end Sys2Proof.Machine.State
end

