-- ==== Sys2Proof/Machine/Ridge.lean ====
section
/-! DEFINITION. Stage 5 (R20): the extent fence, domain state, held writes, Aged requests, snoops and the line state
transitions of R247, and what a snoop response completes. -/

namespace Sys2Proof.Machine.State

/-- The 4 MiB held-write buffer's use in a half (R226, R262). -/
def heldBytes (s : State) (h : Half) : Nat := (s.half h).held.foldl (fun n x => n + x.bytes) 0

/-- Count a write the extent fence drops against its job (R71, R73). -/
def countDrop (s : State) (n j : Nat) : State :=
  s.modExtent n (fun x => if x.state == 3 then { x with drops := tmod j 0 (· + 1) x.drops }
                          else { x with late := min (x.late + 1) (2 ^ 32 - 1) })

/-- Count a write that the fence of a placed copy drops, for the report of its home (R73, R95). -/
def placeDrop (s : State) (page j : Nat) : State :=
  { s with plc.fences := s.plc.fences.map (fun f => if inPages f.base f.pages page then { f with drops := tmod j 0 (· + 1) f.drops } else f) }

/-- Whether a request needs W or A (R58): what the fence counts as a write (R71). -/
def isDropped (a : Acc) : Bool := isWrite a || a.op == .rdo || a.op == .upg

/-- Requests exempt while the domain is down and from extents: context 0 (R67, R258). -/
def exempt (a : Acc) : Bool := a.q.ctx == 0

/-- Lines of an access. -/
def accLines (a : Acc) (off : Nat) : List Nat := linesOf off (accBytes a)

/-- Whether an access writes a line whole (R247). -/
def wholeLine (a : Acc) (off line : Nat) : Bool :=
  (a.op == .write || a.op == .bput) && off ≤ line * 128 && line * 128 + 128 ≤ off + accBytes a

/-- The snoop a non-caching access to a line needs (R247), if any. -/
def snoopNeed (s : State) (a : Acc) (e : Entry) (done : Bool) : Option (Nat × List Nat) :=
  let write := isWrite a
  if isOwned e then
    if write then some (9, [e.shr % 64]) else if done then none else some (0xA, [e.shr % 64])
  else if (e.st == 1 || e.st == 2) && write then some (9, s.sharers e)
  else none

/-- Pass an access through the directory (R247, R248): it is performed, waits for snoops, or is answered RETRY. -/
def coherePlain (s : State) (h : Half) (a : Acc) (off : Nat) (done : List Nat) : State :=
  let lines := accLines a off
  let s := lines.foldl (fun s l => s.reclaimLine h l) s
  let rp := lines.any (fun l => match s.entryOf h l with
    | some e => isRp e
    | none => false)
  let gate := lines.foldl (fun (acc : Bool × State) l =>
    let (ok, s) := acc.2.ageGate h a l (match acc.2.entryOf h l with
      | some e => isRp e
      | none => false)
    (acc.1 && ok, s)) (true, s)
  let s := gate.2
  if rp || !gate.1 then (s.count h 0x4090 6).retry h a 5
  else
    let needs := lines.filterMap (fun l => match s.entryOf h l with
      | some e => (s.snoopNeed a e (done.contains l)).map (fun n => (l, e, n))
      | none => none)
    -- shared lines nobody holds any more need no answer
    let s := needs.foldl (fun s n => if n.2.2.2.isEmpty then s.setEntry h n.1 none else s) s
    let needs := needs.filter (fun n => !n.2.2.2.isEmpty)
    if needs.isEmpty then s.perform a off
    else if !s.pendRoom h needs.length then (s.count h 0x4090 6).retry h a 5
    else
      let id := s.rdg.nextId
      let s := { s with rdg.nextId := id + 1,
                        rdg.blocked := tput id { acc := { a with waited := true, cause := 5 }, off := off, waits := needs.map (·.1),
                                                 read := done } s.rdg.blocked }
      needs.foldl (fun s n => s.startSnoop h n.1 n.2.2.1 n.2.1 n.2.2.2 (.access id) (wholeLine a off n.1)) s

/-! ### Coherent requests -/

/-- Answer a coherent read without allocating: grant none (R238, R239, R240, R247). -/
def grantNone (s : State) (h : Half) (a : Acc) (off : Nat) (done : List Nat) : State :=
  s.coherePlain h a (off / 128 * 128) done

/-- Answer a coherent request from memory with a grant, or refuse it on poison or retraction (R209, R222, R247). -/
def grantFrom (s : State) (h : Half) (a : Acc) (off grant : Nat) (ackOnly : Bool) (next : Entry) (onFail : Option Entry) :
    State :=
  let s := s.countAccess h a
  let line := off / 128
  match s.readBlocked (line * 128) 128, (if ackOnly then some s else s.takeReceiver a (line * 128) 128) with
  | some st, _ => (s.setEntry h line onFail).answer h a { status := st }
  | none, none => (s.setEntry h line onFail).waitGroup { acc := a, reply := none, atHome := true }
  | none, some s =>
      let s := s.setEntry h line (some next)
      let s := if grant == 0 then s else
        -- a line of a page whose copy has ended is recalled as soon as it is tracked (R253)
        let page := s.plc.moves.any (fun m => m.page == s.homeGa a.ga / 65536 && 2 ≤ m.phase)
        let block := if s.ylx.moves.isEmpty then false else (match s.blockAtGa (s.homeGa a.ga) with
          | some (t, b, _) => s.ylx.moves.any (fun m => m.t == t && m.b == b && 2 ≤ m.phase)
          | none => false)
        if page || block then s.recallLine h line .move false else s
      let r : Reply := { grant := grant, data := if ackOnly then [] else s.loadBytes (line * 128) 128,
                         tg := (s.metaOf (line / 32)).tag }
      match (if ackOnly then none else s.rangeId (line * 128) 128) with
      | some (_, g) => s.answer h a { r with u := true, ck := s.idOf g }
      | none => s.answer h a r

/-- RDS, RDO and UPG at the home ridge (R247, R249, R261). -/
def cohere (s : State) (h : Half) (a : Acc) (off x : Nat) : State :=
  let line := off / 128
  let s := s.reclaimLine h line
  let e := s.entryOf h line
  let rp := match e with
    | some e => isRp e
    | none => false
  let (ok, s) := s.ageGate h a line rp
  if !ok then (s.count h 0x4090 6).retry h a 5
  else
    let version := s.isVersionLine line
    let owned : Entry := ⟨4, x, 0⟩
    match e with
    | none =>
        if 16 ≤ s.waysUsed h line then (((s.makeRoom h line).count h 0x4090 6).retry h a 5)
        else if a.op == .rds then
          if version then s.grantFrom h a off 1 false ⟨1, x, 0⟩ none else s.grantFrom h a off 2 false ⟨3, x, 0⟩ none
        else s.grantFrom h a off 3 false owned none
    | some e =>
        let holds := (s.sharers e).contains x
        if isOwned e then
          if e.shr % 64 == x then
            if a.op == .rds then s.grantFrom h a off 2 false ⟨3, x, 0⟩ (some e)
            else s.grantFrom h a off 3 (a.op == .upg) owned (some e)
          else if !s.pendRoom h 1 then (s.count h 0x4090 6).retry h a 5
          else s.startSnoop h line (if a.op == .rds then 8 else 9) e [e.shr % 64] (.coherent { a with waited := true, cause := 5 } x) false
        else if a.op == .rds then
          s.grantFrom h a off 1 false (if e.st == 1 && holds then e else ⟨2, groupOf (addOnce x (s.sharers e)) ||| (if e.st == 2 then e.shr else 0), 0⟩) (some e)
        else
          let others := (s.sharers e).filter (· ≠ x)
          if others.isEmpty then s.grantFrom h a off 3 (a.op == .upg && holds) owned none
          else if !s.pendRoom h 1 then (s.count h 0x4090 6).retry h a 5
          else s.startSnoop h line 9 e others (.coherent { a with waited := true, cause := 5 } x) false

/-- The data of a write-back goes to its line (R246). -/
def landBack (s : State) (h : Half) (a : Acc) (line : Nat) : State :=
  let s := s.setEntry h line none
  let s := s.writeNear (line * 128) (fitTo 128 a.q.data)
  let s := if a.q.pz % 2 == 1 then s.poisonLine line else s
  let s := if a.q.u then s.joinGroup a.q.ctx a.q.job (line / 32) else s
  (s.noteWrite (line * 128) 128).answer h a { status := if s.retiredAt (line * 128) then .poisoned else .ok }

/-- An owner's write-back with the U flag is a write of its job (R226, R244): dropped when the check ID is retracted or the
job ended, held for a PINNED page, joined to the home's group otherwise. -/
def taintedBack (s : State) (h : Half) (a : Acc) (line : Nat) : State :=
  if s.jobEnded a.q.ctx a.q.job then (s.setEntry h line none).answer h a { status := .jobEnded }
  else if s.itg.retracted.contains a.q.ck then (s.setEntry h line none).answer h a { status := .unconfirmedRetracted }
  else if a.q.job != 0xFFFF && s.classOf a.q.ctx a.ga == 1 then
    if s.heldBytes h + 128 > 4194304 then s.retry h a 1
    else (s.setEntry h line none).modHalf h (fun x => { x with held := x.held ++ [{ acc := { a with waited := true }, bytes := 128 }] })
  else match s.addDep a.q.ctx a.q.job a.q.ck with
    | none => s.waitGroup { acc := a, reply := none, atHome := true }
    | some s => s.landBack h a line

/-- An answer that waits for its job's group (R230) is awaited like an agent of this number. -/
def groupWait : Nat := 64

/-- Dirty data of a tainted job takes its block into the job's group at the home (R226, R244); while the group must wait,
so does the snoop it answers (R230). -/
def joinBack (s : State) (a : Acc) (line : Nat) (p : Pend) : Pend × State :=
  match s.addDep a.q.ctx a.q.job a.q.ck with
  | some s => (p, s.joinGroup a.q.ctx a.q.job (line / 32))
  | none => ({ p with await := addOnce groupWait p.await },
             s.waitGroup { acc := { a with ga := mkGa s.nodeNum (line * 128), op := .wbd }, reply := none, atHome := true })

/-- A write-back that crosses a snoop stands for the answer's data (R246); marked with a check ID it takes its block into
the job's group, unless the ID is retracted. -/
def crossBack (s : State) (h : Half) (a : Acc) (line x : Nat) (p : Pend) : State :=
  let gone := a.q.u && (s.itg.retracted.contains a.q.ck || s.jobEnded a.q.ctx a.q.job)
  let (p, s) := if a.q.u && !gone && a.q.job != 0xFFFF then s.joinBack a line p else (p, s)
  let d := if gone then p.dirty else some (fitTo 128 a.q.data, a.q.pz % 2 == 1)
  let s := s.modHalf h (fun y => { y with pend := tput line { p with dirty := d, wbd := p.wbd ++ [x] } y.pend })
  s.answer h a { status := if !gone then .ok else if s.jobEnded a.q.ctx a.q.job then .jobEnded else .unconfirmedRetracted }

/-- WBD (R246, R247, R254): written by the owner, dropped otherwise, or standing for an awaited answer's data. -/
def writeBack (s : State) (h : Half) (a : Acc) (off x : Nat) : State :=
  let line := off / 128
  match tget line (s.half h).pend with
  | some p =>
      if p.await.contains x && !p.wbd.contains x then s.crossBack h a line x p
      else (s.count h 0x4090 0xB).answer h a {}
  | none =>
      let (ok, s) := s.ageGate h a line false
      if !ok then (s.count h 0x4090 6).retry h a 5
      else match s.entryOf h line with
      | some e =>
          if isOwned e && e.shr % 64 == x then
            (if a.q.u then s.taintedBack h a line else s.landBack h a line)
          else (s.count h 0x4090 0xB).answer h a {}
      | none => (s.count h 0x4090 0xB).answer h a {}

/-- EVC (R247). -/
def evict (s : State) (h : Half) (a : Acc) (off x : Nat) : State :=
  let line := off / 128
  let rp := match s.entryOf h line with
    | some e => isRp e
    | none => false
  let (ok, s) := s.ageGate h a line rp
  if rp || !ok then (s.count h 0x4090 6).retry h a 5
  else
  let s := match s.entryOf h line with
    | some e => if (e.st == 1 || isOwned e) && e.shr % 64 == x then s.setEntry h line none else s
    | none => s
  s.answer h a {}

/-! ### What the last snoop response completes -/

/-- Write the dirty data a snoop returned (R246). -/
def writeDirty (s : State) (line : Nat) (p : Pend) : State :=
  match p.dirty with
  | none => s
  | some (d, poison) =>
      if p.discard then s
      else
        let s := s.writeNear (line * 128) d
        let s := s.noteWrite (line * 128) 128
        if poison then s.poisonLine line else s

/-- The version line's contents (R261). -/
def versionBytes (version node job course : Nat) : Bytes :=
  fitTo 128 (le 4 version ++ le 2 node ++ le 2 job ++ le 8 course)

/-- Accept a publish once the version line's sharers have been invalidated (R263). -/
def acceptPublish (s : State) (h : Half) (a : Acc) (p version : Nat) : State :=
  match tget p s.rdg.regions with
  | none => s
  | some r =>
      let s := (s.writeNear (gaOff r.base) (versionBytes version a.q.src a.q.job (s.courseOf h))).noteWrite (gaOff r.base) 128
      let s := { s with rdg.regions := tput p { r with version := version, accepted := min (r.accepted + 1) (2 ^ 32 - 1) } s.rdg.regions }
      (s.count h 0x4090 0xC).answer h a { version := some version }

/-- A dropped dirty line of a fence: in the report while draining, late until the extent is free, and dropped under R67
afterwards (R254). -/
def dropDirty (s : State) (h : Half) (n : Nat) : State :=
  let st := (s.extent n).state
  if st == 3 then s.modExtent n (fun x => { x with dirty := x.dirty + 1 })
  else if st == 4 then s.modExtent n (fun x => { x with late := min (x.late + 1) (2 ^ 32 - 1) })
  else s.count h 0x4030 5

/-- Write the version line of a region that has just been defined (R260, R261). -/
def writeVersion (s : State) (h : Half) (p : Nat) : State :=
  match tget p s.rdg.regions with
  | some g => (s.writeNear (gaOff g.base) (versionBytes g.version 0x3FFF 0xFFFF (s.courseOf h))).noteWrite (gaOff g.base) 128
  | none => s

/-- Recall the sharers of a new region's version line, then write it (R260). -/
def startDefine (s : State) (h : Half) (line p : Nat) : State :=
  match s.entryOf h line with
  | none => s.writeVersion h p
  | some e =>
      if !isRp e && (s.sharers e).isEmpty then (s.setEntry h line none).writeVersion h p
      else s.recallLine h line (.defineRegion p) false

/-- Start a recall that waits for room in the pending table, or for its line (R250). -/
def drainRecalls (s : State) (h : Half) : State :=
  let rp := fun (l : Nat) => match s.entryOf h l with
    | some e => isRp e
    | none => false
  match takeFirst (fun (r : Nat × Why) => !rp r.1) (s.half h).recalls with
  | none => s
  | some ((l, why), rest) =>
      if s.pendRoom h 1 then
        let s := s.modHalf h (fun x => { x with recalls := rest })
        match why with
        | .fence _ | .placeFence _ | .entryError => s.recallLine h l why true
        | .defineRegion p => s.startDefine h l p
        | _ => s.recallLine h l why false
      else s

/-- Complete a pending operation whose last answer has come: the pending outcome of R247. -/
def pendDone (s : State) (h : Half) (line : Nat) (p : Pend) : State :=
  let s := s.modHalf h (fun x => { x with pend := tdel line x.pend, aged := ageNext s.now line x.aged })
  let s := s.writeDirty line p
  let s := match p.why with
    | .access id =>
        let s := s.setEntry h line (if p.snp == 0xA && !p.wbd.contains (p.old.shr % 64) then some p.old else none)
        (match tget id s.rdg.blocked with
        | none => s
        | some b =>
            let b := { b with waits := b.waits.filter (· ≠ line),
                              read := if p.snp == 0xA then line :: b.read else b.read }
            if b.waits.isEmpty then
              { s with rdg.blocked := tdel id s.rdg.blocked }.coherePlain h b.acc b.off b.read
            else { s with rdg.blocked := tput id b s.rdg.blocked })
    | .coherent a x =>
        let off := line * 128
        -- what a dead agent was to own is lost (R257); an agent that has left is granted nothing (R239, R240)
        if (s.agentRec x).state == 3 && !(a.op == MemOp.rds && p.hit) then
          ((((s.setEntry h line none).poisonLine line).count h 0x4090 0xA).count h 0x4090 0x11).grantNone h a off []
        else if (s.agentRec x).state != 1 then
          (((s.setEntry h line (if a.op == MemOp.rds && p.hit then some ⟨1, p.old.shr % 64, 0⟩ else none)).count h 0x4090 0x11).grantNone h a off [])
        else if a.op == MemOp.rds then
          let y := p.old.shr % 64
          if p.hit then s.grantFrom h a off 1 false ⟨2, groupOf [x, y], 0⟩ (some ⟨1, y, 0⟩)
          else if s.isVersionLine line then s.grantFrom h a off 1 false ⟨1, x, 0⟩ none
          else s.grantFrom h a off 2 false ⟨3, x, 0⟩ none
        else
          let holds := a.op == MemOp.upg && !isOwned p.old && (s.sharers { p.old with st := p.old.st }).contains x
          s.grantFrom h a off 3 holds ⟨4, x, 0⟩ none
    | .version a r v => (s.setEntry h line none).acceptPublish h a r v
    | .fence n =>
        let s := s.setEntry h line none
        (match p.dirty with
        | some _ => s.dropDirty h n
        | none => s)
    | .placeFence page =>
        let s := s.setEntry h line none
        (match p.dirty with
        | some _ => s.placeDrop page 0xFFFF
        | none => s)
    | .deregister _ => s.setEntry h line (if p.old.st == 2 then some p.old else none)
    | .overflow | .move | .entryError => s.setEntry h line none
    | .defineRegion r => (s.setEntry h line none).writeVersion h r
  s.drainRecalls h

/-- A snoop answer of agent x for a line; the last one completes the operation (R246, R247). -/
def snoopAnswer (s : State) (h : Half) (line x : Nat) (hit : Bool) (dirty : Option (Bytes × Bool)) : State :=
  match tget line (s.half h).pend with
  | none => s
  | some p =>
      if !p.await.contains x then s
      else
        let stood := p.wbd.contains x
        let p := { p with await := p.await.filter (· ≠ x), hit := p.hit || (hit && !stood),
                          dirty := if stood then p.dirty else (match dirty with
                            | some d => some d
                            | none => p.dirty) }
        if p.await.isEmpty then s.pendDone h line p
        else s.modHalf h (fun y => { y with pend := tput line p y.pend })

end Sys2Proof.Machine.State
end

