-- ==== Sys2Proof/Machine/Home.lean ====
section
/-! DEFINITION. A request at its home half (R20 stages 4 to 6): capping writes (R279 to R281), the order of one
source's requests (R275, R276), held writes of tainted jobs (R226), the fence (R67, R71), island mode (R287), and
publishes (R260 to R263). -/

namespace Sys2Proof.Machine.State

/-- Whether an earlier request of the same source that waits here must be performed first (R275): a write follows every write
that waits, in either half, and whatever waits for its line; a read follows what waits for its line. A write held for its check
ID stands in the way of its own lines alone (R226), as does a publish that carries one. A write-back waits for none: it must
meet the snoop it crosses (R246). -/
def mustFollow (s : State) (a : Acc) (queued : Bool) : Bool :=
  let same := fun (b : Acc) => b.q.src == a.q.src && b.q.sid == a.q.sid
  let line := fun (b : Acc) => b.ga / 128 == a.ga / 128
  let held := (s.west.held ++ s.east.held).map (·.acc)
  let group := (s.itg.waits.filter (fun w => w.atHome && w.reply.isNone)).map (·.acc)
  let waits := s.west.caps ++ s.east.caps ++ (if queued then s.near.behind else []) ++
    (s.rdg.blocked.map (fun b => b.2.acc)).filter isWrite ++ s.plc.waiting.filterMap taskAcc ++ group
  if a.op == .wbd then false
  else if isWrite a then
    waits.any (fun b => same b && (isWrite b || line b)) || held.any (fun b => same b && (line b || (b.op == .pub && !b.q.u)))
  else waits.any (fun b => same b && line b) || held.any (fun b => same b && line b && b.op != .pub)

/-- Writes of a tainted job (R225, R226): the carried ID extends the job's group here; for a PINNED page the write is
held, otherwise its blocks join the group. -/
def admitTainted (s : State) (h : Half) (a : Acc) (off : Nat) : Option State :=
  if !(a.q.u && isWrite a && !a.hold) || a.op == .wbd then none
  else if s.itg.retracted.contains a.q.ck then some (s.answer h a { status := .unconfirmedRetracted })
  else
    let pinned := a.q.job != 0xFFFF && s.classOf a.q.ctx a.ga == 1
    let n := (accBytes a + 127) / 128 * 128
    if pinned && s.heldBytes h + n > 4194304 then some (s.retry h a 1)
    else match s.addDep a.q.ctx a.q.job a.q.ck with
    | none => some (s.waitGroup { acc := a, reply := none, atHome := true })
    | some s =>
        if pinned then some (s.modHalf h (fun x => { x with held := x.held ++ [{ acc := { a with waited := true }, bytes := n }] }))
        else some (s.coherePlain h a off [])

/-- Stage 5 onward for an admitted request. -/
def pastFence (s : State) (h : Half) (a : Acc) (off : Nat) : State :=
  match s.admitTainted h a off with
  | some s => s
  | none =>
      match a.op with
      | .rds | .rdo | .upg =>
          (match s.agentFor a.q with
          | some x => if a.q.u || (a.org != .device && s.tainted a.q.ctx a.q.job && s.isSelf a.q.src) then
              (s.count h 0x4090 0x11).grantNone h a off [] else s.cohere h a off x
          | none => (s.count h 0x4090 0x11).grantNone h a off [])
      | .wbd => if a.hold then s.coherePlain h a off [] else (match s.backAgent a.q with
          | some x => s.writeBack h a off x
          | none => (s.count h 0x4090 0xB).answer h a {})
      | .evc => (match s.backAgent a.q with
          | some x => s.evict h a off x
          | none => s.answer h a {})
      | _ => s.coherePlain h a off []

/-- Whether a request reaches its home half over the purlin (R23). -/
def crosses (a : Acc) (h : Half) : Bool := accHalf a != h

/-- Requests refused at the ridge before its state is looked at (R5, R18, R226, R258, R261, R287). DESIGN CHOICE (log entry
109): no row of R60 names a fault code for an offset above the near tier; the answer carries 0x00, NONE. -/
def refusal (s : State) (h : Half) (a : Acc) (off : Nat) : Option (Status × Nat) :=
  if a.q.u && isWrite a && a.op != .wbd && s.jobEnded a.q.ctx a.q.job then some (.jobEnded, 0)
  else if off ≥ nearSize || off + accBytes a > nearSize then some (.translationFault, 0)
  else if (a.op == .atomic || a.op == .rowAdd) && s.cfg h 0x20C0 1 == 0 && !s.isSelf a.q.src then some (.rightsFault, 0x13)
  else if ((isWrite a && a.op != .wbd) || a.op == .rdo || a.op == .upg) &&
    (accLines a off).any s.isVersionLine then some (.rightsFault, 0x11)
  else if !s.avl.purlinUp && crosses a h then some (.nodeUnreachable, 0)
  else if s.rdg.mode == 0 && (!exempt a || a.op == .rds || a.op == .rdo || a.op == .upg || a.op == .wbd || a.op == .evc) then some (.domainDown, 0)
  else none

/-- Drop a fenced or uncovered request (R67, R71). -/
def fenced (s : State) (h : Half) (a : Acc) (fault : Nat) (n : Option Nat) : State :=
  let s := match n with
    | some n => if isDropped a then s.countDrop n a.q.job else s
    | none => if fault == 0x21 then (if isDropped a then s.placeDrop (s.homeGa a.ga / 65536) a.q.job else s)
        else s.count h 0x4030 (if isDropped a then 5 else 6)
  s.answer h a { status := .accessRevoked, fault := fault }

/-- A request at the ridge of its home half. One that passed the fence before it had to wait is not stopped by a later
one (R71). -/
def atRidge (s : State) (a : Acc) (off : Nat) : State :=
  let h := offHalf off
  match s.refusal h a off with
  | some (st, f) => (if f == 0x13 then s.count h 0x40A0 2 else s).answer h a { status := st, fault := f }
  | none =>
      match (if a.passed then none else s.extentCheck a.q.ctx a.ga off) with
      | some (.retry, _, _) => s.retry h a 3
      | some (_, f, n) => s.fenced h a f n
      | none => s.pastFence h { a with passed := true } off

/-- A request at its home half: ahead of stage 5 a capping write is held (R279), a request of a source that has a
waiting or retried one keeps its order (R275, R276). -/
def atHome (s : State) (a : Acc) (off : Nat) (queued : Bool) : State :=
  let h := offHalf off
  let s := if capIgnored a then s.count h 0x40A0 7 else s
  if !a.hold && s.mustFollow a queued then { s with near.behind := s.near.behind ++ [{ a with waited := true }] }
  else if isWrite a && a.op != .wbd && !a.hold &&
      (match (s.west.retried ++ s.east.retried).find? (fun r => r.src == a.q.src && r.sid == a.q.sid) with
      | some r => !sameReq a r
      | none => false) then s.retry h a 1
  else if capping a && !a.hold then
    if s.jobEnded a.q.ctx a.q.job then (s.count h 0x40A0 4).answer h a { status := .jobEnded }
    else if 4096 ≤ (s.half h).caps.length then (s.count h 0x40A0 5).retry h a 1
    else s.modHalf h (fun x => { x with caps := x.caps ++ [{ a with waited := true }] })
  else s.atRidge a off

/-- A publish at the ridge part of its region's version line: it waits to become ready (R262). -/
def pubArrive (s : State) (a : Acc) : State :=
  let off := match tget a.region s.rdg.regions with
    | some r => gaOff r.base
    | none => 0
  let h := offHalf off
  if !s.avl.purlinUp && crosses a h then s.answer h a { status := .nodeUnreachable }
  else if s.rdg.mode == 0 then s.answer h a { status := .domainDown }
  else if a.q.u && s.itg.retracted.contains a.q.ck then s.answer h a { status := .unconfirmedRetracted }
  else
    let n := if a.q.u then 128 else 0
    if a.q.u && s.heldBytes h + n > 4194304 then s.retry h a 1
    else s.modHalf h (fun x => { x with held := x.held ++ [{ acc := { a with waited := true }, bytes := n, released := false }] })

/-- A publish of another version than the next (R263). -/
def publishConflict (s : State) (h : Half) (a : Acc) (r : PubRegion) : State :=
  ({ s with rdg.regions := tput a.region { r with conflicts := min (r.conflicts + 1) (2 ^ 32 - 1) } s.rdg.regions }.count h 0x4090 0xD).answer h a
    { status := .versionConflict, version := some r.version }

/-- A ready publish is compared with its region (R252, R257, R262, R263). -/
def pubCompare (s : State) (a : Acc) : State :=
  match tget a.region s.rdg.regions with
  | none => s.answer .west a { status := .rightsFault, fault := 0x11, version := some 0 }
  | some r =>
      let off := gaOff r.base
      let h := offHalf off
      let line := off / 128
      if r.ctx != a.q.ctx then s.answer h a { status := .rightsFault, fault := 0x11, version := some r.version }
      else match s.extentCheck a.q.ctx a.ga off with
      | some (.retry, _, _) => s.retry h a 3
      | some (_, f, n) => s.fenced h a f n
      | none =>
        let s := s.reclaimLine h line
        let e := s.entryOf h line
        let rp := match e with
          | some e => isRp e
          | none => false
        let (ok, s) := s.ageGate h a line rp
        if rp || !ok then (s.count h 0x4090 6).retry h a 5
        else if a.version != (r.version + 1) % 2 ^ 32 then s.publishConflict h a r
        else match e with
          | some e =>
              let to' := s.sharers e
              if to'.isEmpty then (s.setEntry h line none).acceptPublish h a a.region a.version
              else if !s.pendRoom h 1 then (s.count h 0x4090 6).retry h a 5
              else s.startSnoop h line 9 e to' (.version a a.region a.version) false
          | none => s.acceptPublish h a a.region a.version

/-- A request of any kind that is to be performed by this device at a near offset. -/
def homeGo (s : State) (a : Acc) (off : Nat) : State :=
  if a.op == .pub then s.pubArrive a else s.atHome a off true

/-- A cap release reaches this device (R279, R280, R316). -/
def capFree (s : State) (src sid job tag : Nat) (st : Status) : State :=
  let hit := fun (a : Acc) => (a.q.src == src || (s.isSelf a.q.src && s.isSelf src)) && a.q.sid == sid && a.q.job == job && a.q.tag == tag
  [Half.west, Half.east].foldl (fun s h =>
    let x := s.half h
    match x.caps.find? hit with
    | some a =>
        let s := s.modHalf h (fun x => { x with caps := x.caps.filter (fun b => !hit b) })
        if st.good then (s.count h 0x40A0 3).push (.home { a with hold := a.hold || !a.q.u, q := { a.q with cap := false } })
        else ((s.count h 0x40A0 4).push (.behind src sid)).answer h a { status := st }
    | none =>
        match x.held.find? (fun w => w.acc.op == .pub && hit w.acc) with
        | some w =>
            if st.good then s.modHalf h (fun x => { x with held := x.held.map (fun v =>
              if v.acc.op == .pub && hit v.acc then { v with released := true } else v) })
            else (s.modHalf h (fun x => { x with held := x.held.filter (fun v => !(v.acc.op == .pub && hit v.acc)) })).answer h w.acc { status := st }
        | none =>
            { s with near.behind := s.near.behind.map (fun b => if b.q.cap && hit b then { b with q := { b.q with cap := false } } else b) }) s

/-- Let the first request of a source that waits for its order go on, if nothing is ahead of it any more (R275): where it is
performed here, or where its page has gone meanwhile. -/
def behindGo (s : State) (src sid : Nat) : State :=
  match takeFirst (fun (a : Acc) => a.q.src == src && a.q.sid == sid) s.near.behind with
  | none => s
  | some (a, rest) =>
      if s.mustFollow a false then s
      else
        let s := { s with near.behind := rest }.push (.behind src sid)
        match s.locateHere a.ga with
        | .near off => s.atHome a off false
        | _ => s.push (.home a)

/-- Drop the capping writes a job's ending or the loss of an entry node takes with it (R281). -/
def dropCaps (s : State) (hit : Acc → Bool) (answered : Bool) : State :=
  [Half.west, Half.east].foldl (fun s h =>
    let gone := (s.half h).caps.filter hit
    let s := s.modHalf h (fun x => { x with caps := x.caps.filter (fun a => !hit a) })
    gone.foldl (fun s a =>
      let s := s.count h 0x40A0 4
      let s := s.push (.behind a.q.src a.q.sid)
      if answered then s.answer h a { status := .jobEnded } else s) s) s

/-- Take the writes held under a check ID out of the buffers (R227, R228). -/
def takeHeld (s : State) (id : CheckId) : List (Half × Held) × State :=
  let mine := fun (w : Held) => w.acc.q.u && w.acc.q.ck = id
  let pick := fun (h : Half) => ((s.half h).held.filter (fun w => mine w && w.acc.op != .pub)).map (fun w => (h, w))
  (pick .west ++ pick .east,
   s.modBoth (fun x => { x with held := x.held.filter (fun w => !(mine w && w.acc.op != .pub)) }))

end Sys2Proof.Machine.State
end

