-- ==== Sys2Proof/Machine/Translate.lean ====
section
/-! DEFINITION. Translation (R50 to R61): geometry, the two-stage walk over table entries read so far, rights, and the
cache of combined translations (R62, R63). -/

namespace Sys2Proof.Machine

/-- A geometry byte (R52): input width and start level, or none when the stage is disabled. -/
def geometry (g : Nat) : Option (Nat × Nat) :=
  let w := g % 64
  let start := if bitOf g 6 then 2 else 1
  if !bitOf g 7 then none
  else if start == 1 then (if 31 ≤ w && w ≤ 48 then some (w, 1) else none)
  else (if 22 ≤ w && w ≤ 30 then some (w, 2) else none)

/-- log2 of a leaf's size at a level (R53). -/
def leafBits (level : Nat) : Nat :=
  match level with
  | 1 => 30 | 2 => 21 | _ => 16

/-- Alignment of a table at a level: its own size, at least 512 B (R53). -/
def tableAlign (w start level : Nat) : Nat :=
  match level with
  | 1 => max 512 (2 ^ (w - 26))
  | 2 => if start == 2 then max 512 (2 ^ (w - 17)) else 8192
  | _ => 512

/-- Index into the table of a level (R53). -/
def tableIndex (level addr : Nat) : Nat :=
  match level with
  | 1 => addr / 2 ^ 30
  | 2 => if addr < 2 ^ 30 then addr / 2 ^ 21 else addr / 2 ^ 21 % 512
  | _ => addr / 2 ^ 16 % 32

/-- What a stage of a walk comes to: a leaf, a fault (code, level, stage), or a table entry still to be read. -/
inductive WalkStep where
  | leaf (out size rights level : Nat)
  | fault (code level stage : Nat)
  | need (ga : Nat)
deriving DecidableEq, Repr

/-- What reading one table entry gives. -/
inductive EntryRead where
  | bytes (b : Bytes)
  | fault (code level stage : Nat)
  | need (ga : Nat)
deriving DecidableEq, Repr

/-- One stage's levels from `level` down (R53 to R55). `rd` reads the 16 bytes of an entry of a level at a table address; `limit`
is 2^w of stage 2 for stage-1 addresses. -/
def walkStage (rd : Nat → Nat → EntryRead) (w start stage : Nat) (limit : Option Nat) (addr : Nat) : Nat → Nat → Nat → WalkStep
  | 0, _, level => .fault 5 level stage
  | n + 1, table, level =>
      let ix := if level == start then addr / 2 ^ leafBits level else tableIndex level addr
      match rd level (table + 16 * ix) with
      | .fault c l st => .fault c l st
      | .need ga => .need ga
      | .bytes b =>
          let kind := bits 2 1 b
          let out := bits 93 32 b
          if !bitOf (field 0 1 b) 0 then .fault 4 level stage
          else if kind ≥ 2 || (kind == 1 && level == 3) then .fault 5 level stage
          else
            let align := if kind == 0 then 2 ^ leafBits level else tableAlign w start (level + 1)
            if out % align != 0 then .fault 6 level stage
            else if (match limit with
              | some m => decide (m ≤ out)
              | none => false) then .fault 3 level 1
            else if kind == 0 then .leaf (out + addr % 2 ^ leafBits level) (leafBits level) (bits 5 3 b) level
            else walkStage rd w start stage limit addr n out (level + 1)

/-- A stage from its root (R52, R55). DESIGN CHOICE (log entry 110): where the input is beyond the stage's width and the
root is misaligned too, the input is looked at first. -/
def walkRoot (rd : Nat → Nat → EntryRead) (root w start stage : Nat) (limit : Option Nat) (addr : Nat) : WalkStep :=
  if addr ≥ 2 ^ w then .fault 3 start stage
  else if root % tableAlign w start start != 0 then .fault 6 start stage
  else walkStage rd w start stage limit addr 3 root start

/-- A combined translation, or what stops it. -/
inductive Trans where
  | ok (ga size rights s1rights s1level s2level : Nat)
  | fault (code level stage : Nat)
  | need (ga : Nat)
deriving DecidableEq, Repr

/-- The whole walk of a context's VA over the entries read so far (R52, R56, R57, R61). A table entry whose read
failed faults with its own code: at the level of the entry that gave the table's address for ADDR_SIZE. -/
def translateWith (x : Ctx) (got : List (Nat × Bytes)) (fail : Option (Nat × Nat)) (va : Nat) : Trans :=
  match geometry x.s2geo with
  | none => .fault 1 0 0
  | some (w2, st2) =>
      let entry := fun (ga code7Level stage7 code3Level : Nat) =>
        match fail with
        | some (g, code) =>
            if g == ga then (if code == 3 then EntryRead.fault 3 code3Level 1 else .fault code code7Level stage7)
            else (match got.find? (·.1 == ga) with
                  | some e => .bytes e.2
                  | none => .need ga)
        | none => (match got.find? (·.1 == ga) with
            | some e => .bytes e.2
            | none => .need ga)
      let stage2 := fun (ia : Nat) =>
        walkRoot (fun level ga => entry ga level 1 (max st2 (level - 1))) x.s2root w2 st2 1 none ia
      let rd1 := fun (level ia : Nat) =>
        match stage2 ia with
        | .fault c l st => EntryRead.fault c l st
        | .need ga => .need ga
        | .leaf ga _ _ l2 => entry ga level 0 l2
      let s1 := match geometry x.s1geo with
        | none => WalkStep.leaf va 48 7 0
        | some (w1, st1) => walkRoot rd1 x.s1root w1 st1 0 (some (2 ^ w2)) va
      match s1 with
      | .fault c l st => .fault c l st
      | .need ga => .need ga
      | .leaf ia size1 r1 l1 =>
          match stage2 ia with
          | .fault c l st => .fault c l st
          | .need ga => .need ga
          | .leaf ga size2 r2 l2 => .ok ga (min size1 size2) (Nat.land r1 r2) r1 l1 l2

/-- Rights an operation needs, bit 0 R, bit 1 W, bit 2 A (R58). -/
def rightsNeeded (op : MemOp) (aop : Nat) : Nat :=
  match op with
  | .read | .bget | .rds => 1
  | .rdo | .upg => 3
  | .write | .bput | .pub | .wbd | .rowSet => 2
  | .rowAdd => 4
  | .atomic => if aopWriteBack aop then 6 else if aopFetch aop then 5 else 4
  | .evc | .caprel => 0

/-- The first missing right, checked in the order R, W, A (R58): its fault code and bit. -/
def missingRight (need have' : Nat) : Option (Nat × Nat) :=
  if bitOf need 0 && !bitOf have' 0 then some (0x10, 0)
  else if bitOf need 1 && !bitOf have' 1 then some (0x11, 1)
  else if bitOf need 2 && !bitOf have' 2 then some (0x12, 2)
  else none

namespace State

/-- Source code of the unit whose own cache a request uses: an engine or an eave port (R62). -/
def unitOf (a : Acc) : Nat := a.q.sid

/-- A cached translation of a VA, in the unit's own cache or in the half's shared one (R57, R62). -/
def tlbHit (s : State) (h : Half) (unit c va : Nat) : Option Tlb :=
  let hit := fun (t : Tlb) => t.ctx == c && va / 2 ^ t.size == t.vpage
  match (tgetD unit [] (s.half h).unitTlb).find? hit with
  | some t => some t
  | none => (s.half h).tlb.find? hit

/-- Put an entry behind the others of a cache; a full one gives up its oldest. -/
def cachePut {α : Type} (n : Nat) (l : List α) (x : α) : List α := (if n ≤ l.length then l.drop 1 else l) ++ [x]

/-- Keep a translation: 256 in a unit's cache, 32,768 in the half's (R62). -/
def tlbAdd (s : State) (h : Half) (unit : Nat) (t : Tlb) : State :=
  { s with spc.gen := s.spc.gen + 1 }.modHalf h (fun x =>
    { x with tlb := cachePut 32768 x.tlb t, unitTlb := tmod unit [] (fun l => cachePut 256 l t) x.unitTlb })

/-- The table entry of a context at a GA in the walk cache (R62). -/
def walkHit (s : State) (h : Half) (c ga : Nat) : Option Bytes :=
  ((s.half h).walkCache.find? (fun w => w.1 == c && w.2.1 == ga)).map (·.2.2)

/-- Keep the table entries a walk has read: 4,096 in a half (R62). -/
def walkKeep (s : State) (h : Half) (c : Nat) (got : List (Nat × Bytes)) : State :=
  s.modHalf h (fun x => { x with walkCache := got.foldl (fun l e =>
    if l.any (fun w => w.1 == c && w.2.1 == e.1) then l else cachePut 4096 l (c, e.1, e.2)) x.walkCache })

/-- Drop the cached translations a test names from every cache of some halves, with the table entries of the contexts
that `whole` names; the numbers of the translations dropped (R51, R63, R92). -/
def tlbDropIn (s : State) (hs : List Half) (p : Tlb → Bool) (whole : Nat → Bool) : List Nat × State :=
  let all := fun (x : HalfSt) => x.tlb ++ (x.unitTlb.map (·.2)).flatten
  let gone := ((hs.map (fun h => all (s.half h))).flatten.filter p).map (·.gen)
  (gone, hs.foldl (fun s h => s.modHalf h (fun x =>
    { x with tlb := x.tlb.filter (fun t => !p t), unitTlb := x.unitTlb.map (fun u => (u.1, u.2.filter (fun t => !p t))),
             walkCache := x.walkCache.filter (fun w => !whole w.1) })) s)

/-- The same in both halves. -/
def tlbDrop (s : State) (p : Tlb → Bool) (whole : Nat → Bool := fun _ => false) : List Nat × State :=
  s.tlbDropIn [.west, .east] p whole

/-- Refuse a request at entry, recording the fault at a level and stage (R60, R61). -/
def refuseAt (s : State) (a : Acc) (st : Status) (code level stage : Nat) : State :=
  s.finishAt a { status := st, fault := code } level stage

end State
end Sys2Proof.Machine
end

