-- ==== Sys2Proof/Machine/Entry.lean ====
section
/-! DEFINITION. Stages 1 to 3 at the entry device (R20): well-formed packets (R296, R314), buckets (R331), context and
job checks (R46 to R50, R212), translation (R56 to R61), taint (R226), location and combining (R92, R279, R327 to
R330, R334). -/

namespace Sys2Proof.Machine.State

/-- Units a request message has on the wire it came by (R294, R312, R314). -/
def reqUnits (geled : Bool) (op : MemOp) (q : Req) : Nat :=
  let head := if geled then 3 else 4
  let u := ofBool q.u
  match op with
  | .read => head + u
  | .write => head + u + unitsOf q.size
  | .atomic => head + u + unitsOf (operandSize q.aop)
  | .bget => 4 + u
  | .bput => 4 + u + 32 + ofBool q.spar.isSome
  | .pub => (if geled then 4 else 6) + u
  | .rds | .rdo | .upg => head + u
  | .wbd => (if geled then 19 else 21) + u
  | .evc => if geled then 3 else 5
  | .caprel => 4
  | .rowAdd | .rowSet => q.len

/-- Bytes an access of n bytes may have from an address on (R57). -/
def inPage (a n : Nat) : Bool := a % 65536 + n ≤ 65536

/-- Whether a request packet is well formed (R296, R314): a length that matches, a size in range, whole
blocks aligned (log entry 106), and an access that lies within one 64 KiB page (R57, log entry 4). -/
def wellFormed (op : MemOp) (q : Req) : Bool :=
  let geled := match q.via with
    | .geled _ _ => true
    | _ => false
  q.len == reqUnits geled op q &&
  (match op with
   | .read | .write => 1 ≤ q.size && q.size ≤ 256 && inPage q.addr q.size
   | .atomic => 1 ≤ q.size && q.size ≤ 256
   | .bget => 1 ≤ q.size && q.size ≤ 16 && q.addr % 4096 == 0 && inPage q.addr (4096 * q.size)
   | .bput => q.addr % 4096 == 0 && inPage q.addr (4096 * (q.seg / 16 + 1))
   | _ => true)

/-- Count a refused packet (R296, R314). -/
def countMalformed (s : State) (v : Via) : State :=
  match v with
  | .port p =>
      let s := match s.peerOn p with
        | some n => s.modNode n (fun x => { x with health := { x.health with mark := x.health.mark - 16 } })
        | none => s
      s.count (portHalf p) 0x40C0 7
  | .batch p | .onward p _ => s.count (portHalf p) 0x40C0 7
  | .geled e _ => s.count e 0x40B0 7

/-- The port's role decides whether a packet enters here or comes translated. -/
def entersHere (s : State) (v : Via) : Bool :=
  match v with
  | .geled _ _ => true
  | .port p => s.roleOf p == 2
  | .batch _ | .onward _ _ => false

/-- The party that sent a request, for its answer. -/
def requester (s : State) (q : Req) : Party :=
  match q.via with
  | .geled e hv => .companion e hv
  | .port p => if s.roleOf p == 2 then .host p else .node q.src q.sid
  | .batch _ | .onward _ _ => .node q.src q.sid

/-- Source code a request enters under (R313, R319). -/
def entrySid (q : Req) : Nat :=
  match q.via with
  | .geled _ _ => 0x80
  | .port p => 0x60 + p
  | .batch _ | .onward _ _ => q.sid

/-! ### Token buckets (R331) -/

/-- Cost of a channel-0 request in bytes. -/
def bucketCost (op : MemOp) (q : Req) : Nat :=
  q.len * 8 + (match op with
    | .read => q.size
    | .bget => q.size * 4096
    | _ => 0)

/-- Bytes of tokens are kept in sixteenths of a byte: 0.1 GB/s is one sixteenth of a byte per core cycle. -/
def bucketTake (s : State) (p src c cost : Nat) : Bool × State :=
  let h := portHalf p
  let cap := max (s.cfg h 0x20D0 3) 65568 * 16
  let own := (s.ctx c).bucketRate
  let rate := if own != 0 then own else s.cfg h 0x20D0 2
  let bs := (s.port p).buckets
  let (b, rest) : Bucket × List Bucket := match takeFirst (fun (b : Bucket) => b.src == src && b.ctx == c) bs with
    | some (b, rest) => ({ b with tokens := min cap (b.tokens + rate * (s.now - b.at')), at' := s.now }, rest)
    | none => (⟨src, c, cap, s.now⟩, if 1024 ≤ bs.length then bs.drop 1 else bs)
  if b.tokens < cost * 16 then
    (false, (s.modPort p (fun t => { t with buckets := rest ++ [b] })).count h (0x40D0 + p) 6)
  else (true, s.modPort p (fun t => { t with buckets := rest ++ [{ b with tokens := b.tokens - cost * 16 }] }))

/-- Charge a request on channel 0 to the bucket of its host at the port it came by, on its own or in a batch; one that is relayed
or of the device's own job passes (R331). -/
def chargeBucket (s : State) (v : Via) (src c job cost : Nat) : Bool × State :=
  let go := fun (p : Nat) => if !s.cfgBit (portHalf p) 0x20D0 1 2 || job == 0xFFFF then (true, s) else s.bucketTake p src c cost
  match v with
  | .port p | .batch p => go p
  | .onward p t => if t.rl then (true, s) else go p
  | .geled _ _ => (true, s)

/-- Whether a memory or coherence request passes its port's bucket. -/
def bucketPass (s : State) (op : MemOp) (q : Req) (src : Nat) : Bool × State :=
  if q.rl || op == .wbd || op == .evc then (true, s) else s.chargeBucket q.via src q.ctx q.job (bucketCost op q)

/-! ### Stage 1 -/

/-- Sources that may carry job 0xFFFF or context 0 from another node (R47, R48). -/
def deviceSid (sid : Nat) : Bool := sid == 0x50 || sid == 0x51 || sid == 0xF0

/-- The stage-1 refusal of a request that enters here or arrives translated (R47, R48, R50, R212, R483): status and fault
code. -/
def stage1 (s : State) (q : Req) : Option (Status × Nat) :=
  if s.phase < 0xA && q.ctx != 0 then some (.retry, 0) else
  match q.via with
  | .geled _ hv =>
      if s.jobEnded q.ctx q.job then some (.jobEnded, 0)
      else if q.ctx == 0 && !hv then some (.translationFault, 1)
      else if q.ctx != 0 && (!(s.ctx q.ctx).on || (geometry (s.ctx q.ctx).s2geo).isNone) then some (.translationFault, 1)
      else if q.ctx != 0 && !bitOf (s.ctx q.ctx).mask 32 then some (.translationFault, 2)
      else if q.job == 0xFFFF then some (.rightsFault, 0x14)
      else none
  | .port p =>
      if s.roleOf p == 2 then
        if s.jobEnded q.ctx q.job then some (.jobEnded, 0)
        else if q.ctx == 0 || !(s.ctx q.ctx).on || (geometry (s.ctx q.ctx).s2geo).isNone then some (.translationFault, 1)
        else if !bitOf (s.ctx q.ctx).mask p then some (.translationFault, 2)
        else if q.job == 0xFFFF then some (.rightsFault, 0x14)
        else none
      else if q.ctx == 0 && !(q.job == 0xFFFF && deviceSid q.sid) then some (.translationFault, 1)
      else if q.job == 0xFFFF && !deviceSid q.sid then some (.rightsFault, 0x14) else none
  | .batch _ | .onward _ _ =>
      if q.ctx == 0 && !(q.job == 0xFFFF && deviceSid q.sid) then some (.translationFault, 1)
      else if q.job == 0xFFFF && !deviceSid q.sid then some (.rightsFault, 0x14) else none

/-! ### Stage 3 -/

/-- Windows toward a node (R334, R338). -/
def winOf (s : State) (n : Nat) : Nat :=
  let w := (s.node n).win
  if w == 0x4000 then s.gcfg 0x20D0 8 else w

/-- Requests on channel 0 outstanding to a node (R334). -/
def inWindow (s : State) (n : Nat) : Nat :=
  (s.eng.outs.filter (fun o => o.node == n && o.sent && !(o.acc.op == .wbd || o.acc.op == .evc))).length + s.partsTo n

/-- Whether a request of a half may leave for a node now: its window has room, and no older route has a request outstanding
(R320, R334). -/
def mayLeave (s : State) (h : Half) (n : Nat) : Bool :=
  !s.fab.changed.contains n && !(s.cfgBit h 0x20D0 1 3 && s.winOf n ≤ s.inWindow n)

/-- Whether an outstanding request may leave the switch now. -/
def mayLaunch (s : State) (o : OutReq) : Bool :=
  if o.acc.op == .wbd || o.acc.op == .evc then !s.fab.changed.contains o.node else s.mayLeave (accHalf o.acc) o.node

/-- A row update as its packet carries it (R127, R129). -/
def rowUpdateOf (s : State) (a : Acc) : RowUpdate :=
  let row := match tget a.q.agentTag s.ylx.tables with
    | some t => (rowAtGa t a.ga).getD 0
    | none => 0
  { src := a.q.src, sid := a.q.sid, tag := a.q.tag, ctx := a.q.ctx, job := a.q.job, table := a.q.agentTag, row := row,
    set := a.op == .rowSet, vfmt := a.q.aop, seq := a.region, pos := a.version, u := a.q.u, ck := a.q.ck, rc := a.q.rc,
    data := a.q.data }

/-- The body of a request packet (R262, R314). -/
def requestMsg (a : Acc) (q : Req) : Msg :=
  if a.op == .pub then .publish q a.region a.version else .request a.op q

/-- The packet of a request to another node: its GA, this device as source (R319). -/
def outPkt (s : State) (a : Acc) (n : Nat) : Pkt :=
  let q := { a.q with addr := a.ga, src := s.nodeNum, dst := n }
  if a.op == .rowAdd || a.op == .rowSet then
    { dst := n, sid := a.q.sid, vc := 0, units := a.q.len, m := .rowUpdate (s.rowUpdateOf { a with q := q }) }
  -- no ridge tracks a shelf's lines: a coherent request to one is a plain read of the line (R238)
  else if s.ownsShelf n && (a.op == .rds || a.op == .rdo || a.op == .upg) then
    { dst := n, sid := a.q.sid, vc := 0, units := 4, m := .request .read { q with addr := a.ga / 128 * 128, size := 128, len := 4 } }
  else
  { dst := n, sid := a.q.sid, vc := if a.op == .wbd || a.op == .evc then 2 else 0, units := a.q.len, m := requestMsg a q }

/-- Whether a request may join an open entry of the same receive side (R328). -/
def mayJoin (s : State) (a b : Acc) : Bool :=
  let plain := fun (x : Acc) => !x.q.cap && !x.q.u && !x.q.rl && x.q.rc < 8 && x.q.job != 0xFFFF && x.q.ctx != 0
  a.op == b.op && a.ga == b.ga && a.q.ctx == b.q.ctx && a.q.via == b.q.via && plain a && plain b &&
  (match a.op with
   | .read => a.q.size == b.q.size && s.gcfg 0x20D0 1 % 2 == 1
   | .atomic => a.q.aop == b.q.aop && a.q.job == b.q.job && aopJoins a.q.aop && bitOf (s.gcfg 0x20D0 1) 1
   | _ => false)

/-- Whether a write has passed this receive side since an entry opened that keeps a request from joining it: of its
own source to the entry's node, or for reads of any source to the entry's line (R328). -/
def writeBetween (s : State) (a : Acc) (o : OutReq) : Bool :=
  let later := (s.eng.outs.dropWhile (fun x => x ≠ o)).drop 1
  later.any (fun x => isWrite x.acc && x.acc.q.via == a.q.via &&
    ((x.acc.q.sid == a.q.sid && x.node == o.node) || (a.op == MemOp.read && x.acc.ga / 128 == o.acc.ga / 128)))

/-- Join a request to an entry still in the switch, if R328 allows (R327): the last 64 entries of its port. -/
def joinEntry (s : State) (a : Acc) : Option State :=
  match a.q.via with
  | .port p =>
      let open' := (s.eng.outs.filter (fun o => !o.sent && o.acc.q.via == a.q.via &&
        (o.acc.op == MemOp.read || o.acc.op == MemOp.atomic))).reverse.take 64
      match open'.find? (fun o => s.mayJoin a o.acc && !s.writeBetween a o) with
      | some o =>
          let q := if a.op == .atomic then { o.acc.q with data := joinOperands a.q.aop o.acc.q.data a.q.data } else o.acc.q
          -- the first joined request keeps its own operand beside the combined one
          let joined := if o.joined.isEmpty then [o.acc, a] else o.joined ++ [a]
          let o' := { o with acc := { o.acc with q := q }, joined := joined }
          some ({ s with eng.outs := s.eng.outs.map (fun x => if x = o then o' else x) }.count (portHalf p)
            (0x40D0 + p) (if a.op == MemOp.read then 4 else 5))
      | none => none
  | _ => none

/-- Destinations whose requests by an older route have all completed go by the new one from now on (R320). -/
def routesSettled (s : State) : State := { s with fab.changed := s.fab.changed.filter (fun n => s.outTo n != 0) }

/-! ### Privileged fallback (R101 to R103) -/

/-- Whether a request reads or updates a row (R119). -/
def isRowReq (a : Acc) : Bool :=
  match a.org with
  | .engine e k => e.cls == .yealm && decide (2 ^ 62 ≤ k)
  | _ => false

/-- The fallback threshold of a context, in core cycles; none when it is not privileged (R101). -/
def fallbackAfter (s : State) (c : Nat) : Option Nat :=
  if c == 0 then none
  else (List.range 16).findSome? (fun i =>
    let t := s.gcfg 0x2075 (i + 1)
    if s.gcfg 0x2074 (i + 1) == c && t != 0 then some (max t 1600) else none)

/-- The near range that stands in for n bytes at a GA (R102): offset and length. -/
def fallbackRange (s : State) (c ga n : Nat) : Option (Nat × Nat) :=
  s.plc.fallbacks.findSome? (fun f =>
    let v := f.2
    if v.ctx == c && v.base ≤ ga && ga + n ≤ v.base + v.pages * 65536 && v.ratio != 0 then
      let lo := (ga - v.base) / v.ratio
      let hi := (ga + n - v.base + v.ratio - 1) / v.ratio
      some (v.copy + lo, hi - lo)
    else none)

/-- A read that has a fallback path (R103): a tenant's load, gather row or operand read of this device. -/
def fallsBack (s : State) (a : Acc) : Bool :=
  (match a.org with
   | .engine _ _ => a.op == .read || a.op == .bget
   | .front _ _ => a.op == .bget
   | .host _ => a.op == .read
   | _ => false) && !a.fell && (s.fallbackAfter a.q.ctx).isSome

/-- Serve a read from its fallback path (R103): a row as the default row, another read from its near copy, which it
reads through the ridge like any access (R20); none where no path covers it. -/
def fallbackGo (s : State) (a : Acc) : Option State :=
  if !s.fallsBack a then none
  else if isRowReq a then some ((s.count (accHalf a) 0x4042 7).finish a { status := .tierFallback })
  else (s.fallbackRange a.q.ctx a.ga (accBytes a)).map (fun (off, n) =>
    (s.count (accHalf a) 0x4042 7).homeGo
      { a with op := .read, fell := true, passed := false, ga := mkGa s.nodeNum off, q := { a.q with src := s.nodeNum, size := n } } off)

/-- Complete a request whose node cannot be reached: by its fallback path, if it has one (R103, R323). -/
def unreachable (s : State) (a : Acc) : State := (s.fallbackGo a).getD (s.fail a .nodeUnreachable)

/-- Count the stall of an access that completes (R99, R100): its cause as observed or reported, and its cycles. -/
def endStall (s : State) (o : OutReq) (r : Reply) : State :=
  match o.cause with
  | none => s
  | some c =>
      let h := accHalf o.acc
      let far := if s.isShelf o.node then 2 else 1
      let told := if r.sv then r.stall else far
      -- of several causes the lowest code: a node busy at load level 14 or 15 (R99)
      let cause := if c == 0 then 0 else if 14 ≤ r.ld then min told far else told
      let s := if c == 0 then s else s.count h 0x4040 (cause + 1)
      s.count h 0x4041 (cause + 1) (s.now - o.issued)

/-- An outstanding request, and those joined to it, completes NODE_UNREACHABLE here (R100, R103, R323). -/
def lose (s : State) (o : OutReq) : State :=
  let s := s.endStall o { status := .nodeUnreachable }
  if o.fell then s else (if o.joined.isEmpty then [o.acc] else o.joined).foldl unreachable s

/-- Whether the port a node's packets leave by is on the other half. -/
def acrossPurlin (s : State) (h : Half) (n : Nat) : Bool :=
  match s.wayTo n with
  | .port p | .wait p => portHalf p != h
  | .relay _ p => portHalf p != h
  | _ => false

/-- Whether the port a node's packets leave by is out of reach of a half: the purlin is lost (R387). -/
def cutOff (s : State) (h : Half) (n : Nat) : Bool := !s.avl.purlinUp && s.acrossPurlin h n

/-- Send an outstanding request if its window and route allow; otherwise it stays in the switch (R320, R334). -/
def launch (s : State) (o : OutReq) : State :=
  let s := s.routesSettled
  if s.cutOff (accHalf o.acc) o.node then s.lose o
  else if !s.mayLaunch o then { s with eng.outs := s.eng.outs ++ [{ o with sent := false }] }
  else
    let (ok, s') := s.route (s.outPkt o.acc o.node)
    if ok then { s' with eng.outs := s'.eng.outs ++ [{ o with sent := true }] }
    else s.lose o

/-- Engines with a part that has not left yet try again. -/
def wakeParts (s : State) : State :=
  s.pushAll ((s.eng.yealms.filter (fun g => ((g.2.run.map (fun w => w.y.parts.any (fun p => !p.sent))).getD false))).map
    (fun g => Task.wake ⟨.yealm, g.1⟩))

/-- Send the requests the windows now cover, oldest first. -/
def relaunch (s : State) : State :=
  let s := s.routesSettled.wakeParts
  let waits := s.eng.outs.filter (fun o => !o.sent)
  waits.foldl (fun s o =>
    if !s.mayLaunch o then s
    else
      let (ok, s') := s.route (s.outPkt o.acc o.node)
      if ok then { s' with eng.outs := s'.eng.outs.map (fun x => if x = o then { o with sent := true } else x) }
      else { s with eng.outs := s.eng.outs.filter (· ≠ o) }.lose o) s

/-- What the owner of a shelf notes of a request to one of its pages: its counter, and a copy in progress (R76, R86,
R91). -/
def noteShelf (s : State) (a : Acc) (n : Nat) : State :=
  if !s.ownsShelf n then s
  else
    let s := s.countAccess (s.shelfHalf n) a
    if isWrite a && a.q.job != 0xFFFF then
      { s with plc.moves := s.plc.moves.map (fun m => if m.page == a.ga / 65536 && m.phase ≥ 1 then
          { m with dirty := (linesOf (a.ga % 65536) (accBytes a)).foldl (fun l x => addOnce x l) m.dirty } else m) }
    else s

/-- A request to another node leaves this device (R279, R319, R320). -/
def toNode (s : State) (a : Acc) (n : Nat) : State :=
  let s := s.noteShelf a n
  -- the receivers of a tainted job's group take in the node a resent write goes to now (R226)
  let s := (if a.q.u && isWrite a then s.addReceiver a.q.ctx a.q.job n else none).getD s
  let (s, a) := s.trackIssue a n
  match s.joinEntry a with
  | some s => s
  | none =>
      if s.wayTo n = .unreachable then s.unreachable a
      else s.launch { acc := a, node := n, tag := a.q.tag, sid := a.q.sid, issued := s.now }

/-- Another node's coherent request to an owned shelf is sent on as a plain read, whose answer grants nothing (R238). -/
def shelfRead (s : State) (a : Acc) (dest : Party) (n : Nat) : State :=
  let tag := s.eng.nextTag
  let s := { s with eng.nextTag := (tag + 1) % 2 ^ 20 }
  s.toNode { a with org := .shelfRead dest a.q.tag, q := { a.q with src := s.nodeNum, sid := 0xF0, tag := tag } } n

/-- Forward a packet another node sent (R92, R93, R322): hop is counted, and the hop limit drops it. -/
def forward (s : State) (a : Acc) (n : Nat) : State :=
  if a.q.hop + 1 > max 1 (s.gcfg 0x20D0 5) then
    (s.count (accHalf a) 0x40C0 6).fail a .nodeUnreachable
  else if s.ownsShelf n && (a.op == .rds || a.op == .rdo || a.op == .upg) then s.shelfRead a (s.requester a.q) n
  else
    let s := s.noteShelf a n
    let m := if a.op == .rowAdd || a.op == .rowSet then Msg.rowUpdate (s.rowUpdateOf a)
             else requestMsg a { a.q with dst := n, hop := a.q.hop + 1 }
    let x : Pkt := { dst := n, sid := a.q.sid, vc := if a.op == .wbd || a.op == .evc then 2 else 0, units := a.q.len,
                     hop := a.q.hop + 1, rl := a.q.rl, m := m }
    let (ok, s') := s.route x
    if ok then (s'.count (accHalf a) 0x40C0 2).count (accHalf a) 0x40C0 3 (ofBool a.q.rl) else s.fail a .nodeUnreachable

/-- Keep a request until a switchover, or the old route of its page, lets it go on (R91, R94, R143). -/
def hold (s : State) (t : Task) : State := { s with plc.waiting := s.plc.waiting ++ [t] }

/-- Whether a request of this device must wait at stage 3: its page or block is in switchover, or has gone to another node
while an earlier access by the old route waits here (R91, R94, R143). -/
def mustHold (s : State) (a : Acc) : Bool :=
  a.q.job != 0xFFFF && (s.switching a.ga || (match s.locate (accHalf a) a.ga with
    | .near _ => false
    | _ => s.waitsOld (s.homeGa a.ga / 65536)))

/-- Stage 3 for a request of this device: where its page is, here or at another node (R92). What the device itself
originates for a place it names goes there. -/
def toSwitch (s : State) (a : Acc) : State :=
  let a := { a with ga := s.homeGa a.ga, q := { a.q with src := s.nodeNum } }
  if a.op == .pub then
    if s.isSelf a.q.dst then
      let (s, a) := s.trackIssue a s.nodeNum
      (s.pubArrive a).checkCaps (srcKey a)
    else s.toNode a a.q.dst
  else if a.q.sid == 0xF0 && a.q.dst != 0x3FFF then
    (if s.isSelf a.q.dst then s.homeGo a (gaOff a.ga) else s.toNode a a.q.dst)
  else if s.mustHold a then s.hold (.arrive { a with waited := true, cause := 4 })
  else
    match s.locate (accHalf a) a.ga with
    | .near off =>
        let (s, a) := s.trackIssue a s.nodeNum
        let s := s.homeGo a off
        if capping a then s.checkCaps (srcKey a) else s
    | .at' n | .moved n => s.toNode a n
    | .stale => s.toNode a (gaNode a.ga)

/-- A tainted job's writes carry its group's check ID, and their destinations join the receivers (R226, R230). -/
def taintWrite (s : State) (a : Acc) (dest : Nat) : Option (State × Acc) :=
  if isWrite a then
    match s.openGroupOf a.q.ctx a.q.job with
    | some (_, g) =>
        (s.addReceiver a.q.ctx a.q.job dest).map (fun s =>
          (s, { a with q := { a.q with u := true, ck := s.idOf g, len := a.q.len + ofBool (!a.q.u) } }))
    | none => some (s, a)
  else some (s, a)

/-- The node that will perform a request, as far as this device knows. -/
def destOf (s : State) (a : Acc) : Nat :=
  if a.op == .pub then (if s.isSelf a.q.dst then s.nodeNum else a.q.dst)
  else match s.locate (accHalf a) a.ga with
    | .near _ => s.nodeNum
    | .at' n | .moved n => n
    | .stale => gaNode a.ga

/-- After translation and rights: island mode at entry, taint, then the switch (R226, R287). -/
def translated (s : State) (a : Acc) : State :=
  let d := s.destOf a
  -- an engine's write of no bytes is the translation of an output page as its descriptor starts (R120)
  if a.op == .write && a.q.size == 0 then s.finish a {}
  else if placing a then s.finish a { version := some a.ga } else
  if a.op == .atomic && s.cfg (accHalf a) 0x20C0 1 == 0 && !s.isSelf (gaNode a.ga) && !s.ownsShelf (gaNode a.ga) then
    (s.count (accHalf a) 0x40A0 2).refuseAt a .rightsFault 0x13 0 0
  else
    match s.taintWrite a d with
    | some (s, a) => s.toSwitch a
    | none => s.waitGroup { acc := a, reply := none, atHome := false }

/-- Rights and alignment of a translated request (R58, R61, R285). -/
def checkRights (s : State) (a : Acc) (ga rights r1 l1 l2 gen : Nat) : State :=
  let a := { a with ga := ga, gens := [gen] }
  if a.op == .atomic && !aopValid a.q.aop ga then s.refuseAt a .translationFault 6 0 0
  else
    match (if placing a then none else missingRight (rightsNeeded a.op a.q.aop) rights) with
    | some (code, bit) =>
        if bitOf r1 bit then s.refuseAt a .rightsFault code l2 1 else s.refuseAt a .rightsFault code l1 0
    | none => s.translated a

/-- The read of one table entry (R56): 16 bytes, context 0, job 0xFFFF. -/
def walkAcc (a : Acc) (id ga : Nat) : Acc :=
  { op := .read, ga := ga, org := .walk id,
    q := { via := a.q.via, ctx := 0, job := 0xFFFF, tag := 0x40000 + id % 0x40000, sid := 0xF0, addr := ga, size := 16 } }

/-- Go on with a walk: the translation is found, faults, or needs another table entry (R56, R61). -/
def walkStep (s : State) (id : Nat) : State :=
  match tget id s.spc.walks with
  | none => s
  | some w =>
      let c := w.acc.q.ctx
      match translateWith (s.ctx c) w.got w.fail w.acc.q.addr with
      | .fault code level stage =>
          { s with spc.walks := tdel id s.spc.walks }.refuseAt w.acc .translationFault code level stage
      | .ok ga size rights r1 l1 l2 =>
          let s := { s with spc.walks := tdel id s.spc.walks }
          let gen := s.spc.gen
          let va := w.acc.q.addr
          let s := (s.walkKeep (accHalf w.acc) c w.got).tlbAdd (accHalf w.acc) (unitOf w.acc)
            ⟨c, va / 2 ^ size, size, ga - va % 2 ^ size, rights, r1, l1, l2, gen⟩
          s.checkRights w.acc ga rights r1 l1 l2 gen
      | .need ga =>
          if w.await == some ga then s
          else match s.walkHit (accHalf w.acc) c ga with
          | some b => { s with spc.walks := tput id { w with got := w.got ++ [(ga, b)] } s.spc.walks }.push (.walk id)
          | none =>
            let s := { s with spc.walks := tput id { w with await := some ga } s.spc.walks }
            s.toSwitch (walkAcc w.acc id ga)

/-- Stage 2 (R50, R51, R56, R57): context 0 has the identity; a cached translation; or a walk. -/
def stage2 (s : State) (a : Acc) : State :=
  if a.q.ctx == 0 then
    if a.op == .atomic && !aopValid a.q.aop a.q.addr then s.refuseAt a .translationFault 6 0 0
    else s.translated { a with ga := a.q.addr }
  else if !(s.ctx a.q.ctx).on then s.refuseAt a .translationFault 1 0 0
  else
    match s.tlbHit (accHalf a) (unitOf a) a.q.ctx a.q.addr with
    | some t => s.checkRights a (t.ga + a.q.addr % 2 ^ t.size) t.rights t.s1rights t.s1level t.s2level t.gen
    | none =>
        let id := s.spc.nextWalk
        { s with spc.nextWalk := id + 1, spc.walks := tput id { acc := a } s.spc.walks }.walkStep id

/-- A packet received whole on a port is counted, and its credits are returned (R311, R321). -/
def portArrival (s : State) (p vc units : Nat) : State :=
  let s := match s.peerOn p with
    | some n => s.modNode n (fun x => { x with heard := s.now, health := { x.health with hardDead := false } })
    | none => s
  ((s.modPort p (fun t => { t with rcvd := (t.rcvd + 1) % 2 ^ 32 })).count (portHalf p) (0x40D0 + p) 3).emit
    (.credits p (setAt [0, 0, 0, 0] vc units))

/-- What arrives by a port of its own is counted there. -/
def countArrival (s : State) (v : Via) (vc units : Nat) : State :=
  match v with
  | .port p => s.portArrival p vc units
  | _ => s

/-- A request with the source it enters under (R319). -/
def entryReq (s : State) (q : Req) : Req :=
  if s.entersHere q.via then { q with src := s.nodeNum, sid := entrySid q } else q

/-- The request as it goes through this device, with where its answer goes. -/
def entryAcc (s : State) (op : MemOp) (q : Req) : Acc :=
  { op := op, q := q, ga := q.addr,
    org := if s.entersHere q.via then Origin.host (s.requester q) else Origin.remote (s.requester q) }

/-- Drop this device's own cached translations of a page (R92). -/
def dropTranslations (s : State) (page : Nat) : State := (s.tlbDrop (fun t => s.homeGa t.ga / 65536 == page)).2

/-- The counter word of a page that comes from another device (R85): it moves with the page, but no packet of the manual
carries it, so its value is free (log entry 114). -/
def wordArrives (s : State) (page : Nat) (placed : Bool) : State :=
  let (v, s) := s.drawFree
  let w : Counter := { count := v % 256, cand := v / 256 % 2 ^ 14, weight := v / 2 ^ 22 % 16, placed := placed,
                       snap := v % 256, snapCand := v / 256 % 2 ^ 14, snapWeight := v / 2 ^ 22 % 16 }
  { s with plc.counters := tput page w s.plc.counters }

/-- A copy placed here from another device serves from now on (R91, R92). -/
def goLive (s : State) (page : Nat) : State :=
  match tget page s.plc.here with
  | some f => if f.live then s else
      (({ s with plc.here := tput page { f with live := true } s.plc.here } : State).wordArrives page true).dropTranslations page
  | none => s

/-- A row block copied into a spill frame here serves from now on; its load word begins anew (R141, R143). -/
def blockLive (s : State) (t b : Nat) : State :=
  match tget (t, b) s.ylx.overs with
  | some o => if o.live then s else
      { s with ylx.overs := tput (t, b) { o with live := true } s.ylx.overs, ylx.loads := tput (t, b) { moved := true } s.ylx.loads }
  | none => s

/-- A page placed elsewhere is at its home frame again (R77). -/
def pageHome (s : State) (page : Nat) : State :=
  (({ s with plc.away := tdel page s.plc.away, plc.backs := tdel page s.plc.backs } : State).wordArrives page false).dropTranslations page

/-- Note that a block of a page has been written back to its home (below 16), or that its holder has let the page go (16);
with all of them the page is at home. -/
def noteBack (s : State) (page k : Nat) : State :=
  let l := addOnce k (tgetD page [] s.plc.backs)
  if 17 ≤ l.length then s.pageHome page else { s with plc.backs := tput page l s.plc.backs }

/-- What a request of another node tells about a copy: a tenant request that comes by forwarding shows the holder that
its copy serves, and the home that its page or block has come back (R91, R93, R143, R144). -/
def noteArrival (s : State) (a : Acc) : State :=
  if a.q.job == 0xFFFF then s
  else
    let g := s.homeGa a.ga
    let page := g / 65536
    let s := s.goLive page
    let s := if 1 ≤ a.q.hop && 16 ≤ (tgetD page [] s.plc.backs).length then s.pageHome page else s
    if s.ylx.overs.isEmpty then s
    else match s.blockAtGa g with
      | none => s
      | some (t, b, _) =>
          match tget (t, b) s.ylx.overs with
          | none => s
          | some o =>
              if o.learned then s
              else if s.isSelf (gaNode g) then
                (if 1 ≤ a.q.hop && !s.isSelf o.node then { s with ylx.overs := tdel (t, b) s.ylx.overs } else s)
              else s.blockLive t b

/-- A block that its holder writes back to the home frame here (R91, R143): the near offset it goes to. -/
def writeBackTo (s : State) (a : Acc) : Option (Nat × State) :=
  let g := s.homeGa a.ga
  let page := g / 65536
  if (a.op != MemOp.bput && a.op != MemOp.write) || a.q.ctx != 0 || a.q.job != 0xFFFF || !s.isSelf (gaNode g) then none
  else if tget page s.plc.away = some a.q.src then
    some (gaOff g, s.noteBack page (g % 65536 / 4096))
  else match (if s.ylx.overs.isEmpty then none else s.blockAtGa g) with
    | some (t, b, _) =>
        (match tget (t, b) s.ylx.overs with
        | some o => if !o.learned && o.node == a.q.src then some (gaOff g, s) else none
        | none => none)
    | none => none

/-- A well-formed request passes the bucket and stage 1, and goes on as one that enters here, is performed here or is on
its way (R331, R47 to R50). -/
def letIn (s : State) (a : Acc) : State :=
  let q := a.q
  let enters := s.entersHere q.via
  let (ok, s) := s.bucketPass a.op q q.src
  if !ok then s.sendReply (s.requester q) a { status := .retry, sv := true, stall := 1 }
  -- a relay applies no stage to what it passes on (R321)
  else if !enters && !s.isSelf q.dst && q.rl then s.forward a q.dst
  else if !enters && !s.isSelf q.dst then
    -- a page of an owned shelf that is placed is forwarded to its holder (R76, R93), which alone writes it back
    let page := a.ga / 65536
    let holder := tget page s.plc.away
    let back := a.op == .bput && q.ctx == 0 && q.job == 0xFFFF && holder == some q.src
    let dst := if back then q.dst else holder.getD q.dst
    let a := { a with q := { q with dst := dst } }
    if back then (s.noteBack page (a.ga % 65536 / 4096)).forward a dst
    else if q.job != 0xFFFF && s.switching a.ga then s.hold (.home { a with waited := true, cause := 4 })
    else if s.isSelf dst || thas (a.ga / 65536) s.plc.here then
      (match s.locateHere a.ga with
      | .near off => s.homeGo a off
      | _ => s.forward a dst)
    else s.forward a dst
  else
    match s.stage1 q with
    | some (st, f) => s.finish a { status := st, fault := f, sv := st == .retry, stall := if st == .retry then 1 else 0 }
    | none =>
        if enters then s.stage2 a
        else if a.op == .pub then s.pubArrive a
        else match s.writeBackTo a with
        | some (off, s) => s.homeGo a off
        | none =>
          let s := s.noteArrival a
          if q.job != 0xFFFF && s.switching a.ga then s.hold (.home { a with waited := true, cause := 4 })
          else match s.locateHere a.ga with
          | .near off => s.homeGo a off
          | .at' n => s.forward a n
          | .moved n => s.finish a { status := .retry, sv := true, stall := 4, loc := some n }
          -- a copy whose frame has been discarded is not written (R91, R95)
          | .stale => if q.job == 0xFFFF && isWrite a then s.finish a { status := .accessRevoked, fault := 0x20 }
              else s.finish a { status := .retry, sv := true, stall := 4 }

/-- A memory or coherence request arrives (R296, R314). -/
def receive (s : State) (op : MemOp) (q : Req) : State :=
  let s := s.countArrival q.via (if op == .wbd || op == .evc then 2 else 0) q.len
  let a := s.entryAcc op (s.entryReq q)
  if !wellFormed op q then
    let s := s.countMalformed q.via
    if op == .wbd || op == .evc then s else s.sendReply (s.requester q) a { status := .translationFault }
  else s.letIn a

/-- One block of a bulk write from its sixteen segments (R317): data, poison, spar, state and check ID. -/
def blockOf (segs : List Req) (q : Req) (k : Nat) : Req :=
  let poison := segs.foldl (fun m (r : Req) => m ||| (r.pz % 4) * 2 ^ (2 * (r.seg % 16))) 0
  { q with addr := q.addr + 4096 * k, data := (segs.map (fun r => fitTo 256 r.data)).flatten, pz := poison, seg := k,
           spar := segs.findSome? (·.spar), len := (segs.map (·.len)).foldl (· + ·) 0 }

/-- A segment of a bulk write arrives (R205, R315, R317): its block is performed with the sixteenth. -/
def bputSegment (s : State) (q : Req) : State :=
  let s := s.countArrival q.via 0 q.len
  let q' := s.entryReq q
  let key := (q'.src, q'.sid, q'.tag)
  if !wellFormed .bput q then
    (s.countMalformed q.via).sendReply (s.requester q) (s.entryAcc .bput q') { status := .translationFault }
  else
    let x := tgetD key {} s.eng.bputs
    let k := q.seg / 16
    let segs := x.segs ++ [q']
    let mine := segs.filter (fun r => r.seg / 16 == k)
    let x := { x with segs := segs, lastSeen := x.lastSeen || q.last }
    if mine.length < 16 then { s with eng.bputs := tput key x s.eng.bputs }
    else
      let x := { x with segs := segs.filter (fun r => r.seg / 16 != k), waiting := x.waiting + 1, blocks := x.blocks + 1 }
      { s with eng.bputs := tput key x s.eng.bputs }.letIn (s.entryAcc .bput (blockOf mine q' k))

end Sys2Proof.Machine.State
end

