-- ==== Sys2Proof/Machine/Respond.lean ====
section
/-! DEFINITION. Answers that reach this device for requests it has outstanding (R93, R99 to R103, R204, R206, R317,
R329, R330, R332, R334). -/

namespace Sys2Proof.Machine.State

/-! ### Load level and windows -/

/-- The window toward a node after one of its responses (R334). -/
def noteWindow (s : State) (n ld : Nat) (emptyBucket : Bool) : State :=
  let win := s.winOf n
  let v := s.node n
  let halve := ld ≥ 14 || emptyBucket
  if !bitOf (s.gcfg 0x20D0 1) 3 then s
  else if (ld ≥ 12 || emptyBucket) && s.now - v.cut ≥ s.gcfg 0x20D0 6 then
    (s.modNode n (fun v => { v with win := max (if halve then win / 2 else win * 3 / 4) (s.gcfg 0x20D0 7),
                                    cut := s.now, grow := 0 })).count s.holder 0x40C0 8
  else if ld ≤ 7 then
    if v.grow + 1 ≥ 64 then s.modNode n (fun v => { v with win := min (win + 1) (s.gcfg 0x20D0 8), grow := 0 })
    else s.modNode n (fun v => { v with grow := v.grow + 1 })
  else s

/-- What every response from a node tells: its load level, that it lives, and the window toward it (R332, R334, R378). -/
def noteResponse (s : State) (r : Rsp) : State :=
  let s := s.modNode r.src (fun v => { v with ld := r.ld, heard := s.now, health := { v.health with hardDead := false } })
  s.noteWindow r.src r.ld (r.status == 2 && r.sv && r.stall == 1)

/-! ### Redirects (R92, R93) -/

/-- Record or drop the redirect of a page in a half. -/
def learn (s : State) (h : Half) (page loc : Nat) : State :=
  s.modHalf h (fun x =>
    if loc == page / 2 ^ 32 || s.isSelf loc then { x with redirects := tdel page x.redirects }
    else
      let rest := tdel page x.redirects
      { x with redirects := (if 65536 ≤ rest.length then rest.drop 1 else rest) ++ [(page, loc)] })

/-- Record or drop the learned override of a row block (R144); learned ones give way oldest first. -/
def learnOver (s : State) (ga : Nat) (loc : Option Nat) : State :=
  match s.blockAtGa ga with
  | none => s
  | some (t, b, _) =>
      match tget (t, b) s.ylx.overs with
      | some o => if o.learned then
            { s with ylx.overs := match loc with
              | some n => tput (t, b) { node := n, off := 0, learned := true } s.ylx.overs
              | none => tdel (t, b) s.ylx.overs } else s
      | none =>
          match loc with
          | none => s
          | some n =>
              let rest := if 131072 ≤ s.ylx.overs.length then
                (match takeFirst (fun (o : (Nat × Nat) × Over) => o.2.learned) s.ylx.overs with
                  | some (_, r) => r
                  | none => s.ylx.overs) else s.ylx.overs
              if 131072 ≤ rest.length then s else { s with ylx.overs := rest ++ [((t, b), { node := n, off := 0, learned := true })] }

/-! ### One answer -/

/-- The fields of a received response. -/
def replyOf (r : Rsp) : Reply :=
  { tag := r.tag, status := Status.ofCode r.status, fault := r.fault, sv := r.sv, stall := r.stall, ld := r.ld,
    data := r.data, tg := r.tg, pz := r.pz, u := r.u, ck := r.ck, loc := r.loc, seg := r.seg, last := r.last,
    st := r.st, spar := r.spar, grant := r.grant }

/-- The answers of joined requests (R329, R330). -/
def joinedReplies (o : OutReq) (r : Reply) : List (Acc × Reply) :=
  if o.joined.isEmpty then [(o.acc, r)]
  else
    (o.joined.foldl (fun (acc : List (Acc × Reply) × Bytes) a =>
      let mine := if a.op == .atomic && aopFetch a.q.aop && r.status.good then { r with data := acc.2 } else r
      (acc.1 ++ [(a, mine)], if a.op == .atomic && aopFetch a.q.aop then atomicApply a.q.aop acc.2 a.q.data else acc.2))
      ([], r.data)).1

/-- The blocks of a bulk answer from its segments (R317). -/
def blksOf (segs : List Rsp) : List Blk :=
  let n := segs.foldl (fun m r => max m (r.seg / 16 + 1)) 0
  (List.range n).map (fun k =>
    let mine := segs.filter (fun r => r.seg / 16 == k)
    let poison := mine.foldl (fun m r => m ||| (r.pz % 4) * 2 ^ (2 * (r.seg % 16))) 0
    { data := fitTo 4096 ((mine.map (·.data)).flatten), poison := poison,
      spar := (mine.findSome? (·.spar)).getD ⟨0, 0⟩, st := (mine.headD { src := 0, sid := 0, tag := 0 }).st,
      void := poison != 0, ck := (mine.find? (·.u)).map (·.ck) })

/-- An outstanding request, sent or still in the switch. -/
def waitOf (s : State) (sid tag : Nat) : Option OutReq := s.eng.outs.find? (fun o => o.sid == sid && o.tag == tag)

/-- The request an answer names (R312). -/
def outOf (s : State) (sid tag : Nat) : Option OutReq := s.eng.outs.find? (fun o => o.sid == sid && o.tag == tag && o.sent)

def dropOut (s : State) (o : OutReq) : State := { s with eng.outs := s.eng.outs.filter (· ≠ o) }

/-- Send a request of this device to another node than before (R93, R144): a tainted job's write adds it to the receivers of
the group, or waits for a receiver slot (R226, R230). -/
def launchAgain (s : State) (o : OutReq) : State :=
  match (if o.acc.q.u && isWrite o.acc then s.itg.groups.find? (fun g => g.2.phase == 0 && s.idOf g.2 = o.acc.q.ck) else none) with
  | none => s.launch o
  | some (i, g) => (match s.groupReceiver i g o.node with
    | some s => s.launch o
    | none => s.waitGroup { acc := o.acc, reply := none, atHome := false })

/-- A whole answer to an outstanding request. -/
def settleOut (s : State) (o : OutReq) (r : Reply) : State :=
  let h := accHalf o.acc
  let page := o.acc.ga / 65536
  let home := gaNode o.acc.ga
  let s := s.dropOut o
  let s := match r.loc with
    | some n => if isRowReq o.acc then s.learnOver o.acc.ga (some n) else s.learn h page n
    | none => s
  if o.fell then (s.endStall o r).count h 0x4042 0xB
  else if isRowReq o.acc && r.status == .retry && r.sv && r.stall == 4 && !o.again then
    let s := (if r.loc.isNone then s.learnOver o.acc.ga none else s).count h 0x4050 0xD
    s.launchAgain { o with node := r.loc.getD home, again := true }
  else if r.status == .retry && r.sv && r.stall == 4 && !o.again && o.node != home then
    let s := (s.modHalf h (fun x => { x with redirects := tdel page x.redirects })).count h 0x4042 8
    if s.isSelf home then s.pushAll ((if o.joined.isEmpty then [o.acc] else o.joined).map Task.arrive) else s.launchAgain { o with node := home, again := true }
  else if r.blks.any (s.crcBad h) && !o.reread && (match o.acc.org with
      | .engine _ _ => false
      | _ => true) then
    (s.countChecks h r.blks).launch { o with reread := true, segs := [] }
  else
    let s := s.endStall o r
    let nowFall := r.status == .nodeUnreachable || (r.status == .retry && r.sv && r.stall == 7)
    match (if nowFall then s.fallbackGo o.acc else none) with
    | some s => s
    | none =>
        let s := if o.reread && !r.blks.isEmpty && !r.blks.any (s.crcBad h) then s.count h 0x4080 2 else s
        (joinedReplies o r).foldl (fun s x => s.finish x.1 x.2) s

/-- A probe's answer clears every unanswered probe of its half (R377). -/
def probeAnswered (s : State) (o : OutReq) : State :=
  match o.acc.org with
  | .probe h => s.modNode o.node (fun v => { v with probes := v.probes.filter (· ≠ h) })
  | _ => s

/-- A response packet is counted on its port. -/
def portRecv (s : State) (r : Rsp) : State := s.portArrival r.port 1 (4 + unitsOf r.data.length + ofBool r.u + ofBool r.spar.isSome)

/-- A response packet (RSP, and the RSP that ends a failed bulk read). -/
def response (s : State) (r : Rsp) : State :=
  let s := (s.portRecv r).noteResponse r
  match s.outOf r.sid r.tag with
  | none => s
  | some o => ((s.probeAnswered o).settleOut o (replyOf r)).relaunch

/-- A BDATA segment: the answer is whole with the segment marked last (R315, R317). -/
def segment (s : State) (r : Rsp) : State :=
  let s := (s.portRecv r).noteResponse r
  match s.outOf r.sid r.tag with
  | none => s
  | some o =>
      let o' := { o with segs := o.segs ++ [r] }
      let s := { s with eng.outs := s.eng.outs.map (fun x => if x = o then o' else x) }
      if r.last then
        let blks := blksOf o'.segs
        (s.settleOut o' { replyOf r with status := .ok, data := [], blks := blks, u := false, pz := 0 }).relaunch
      else s

/-- A read that has waited the fallback threshold (R103). -/
def fallBack (s : State) (o : OutReq) : State :=
  match s.fallbackAfter o.acc.q.ctx with
  | none => s
  | some t =>
      if o.fell || s.now - o.issued < t || !s.fallsBack o.acc ||
        (!isRowReq o.acc && (s.fallbackRange o.acc.q.ctx o.acc.ga (accBytes o.acc)).isNone) then s
      else
        let s := { s with eng.outs := s.eng.outs.map (fun x => if x = o then { o with fell := true, joined := [] } else x) }
        (if o.joined.isEmpty then [o.acc] else o.joined).foldl (fun s a => (s.fallbackGo a).getD s) s

/-- A request that has waited the stall threshold (R99): cause 0 is seen here, any other is learned from the answer. -/
def stall (s : State) (o : OutReq) (retraining : Bool) : State :=
  let h := accHalf o.acc
  if o.cause.isSome || s.now - o.issued < s.cfg h 0x2070 0xB then s
  else
    let s := if retraining then s.count h 0x4040 1 else s
    { s with eng.outs := s.eng.outs.map (fun x => if x = o then { o with cause := some (if retraining then 0 else 15) } else x) }

end Sys2Proof.Machine.State
end

