-- ==== Sys2Proof/Machine/Engines.lean ====
section
/-! DEFINITION. What every engine does (R20, R97, R98, R204, R206, R369): job submission and dispatch, requests of an
engine, checking of the blocks it reads, completion records, and its queue. -/

namespace Sys2Proof.Machine.State

/-- Clear the `run` of an engine, change it, or read it. -/
def runOf (s : State) (e : Engine) : Option Work := (s.engOf e).run

def modRun (s : State) (e : Engine) (f : Work → Work) : State :=
  s.modEng e (fun g => { g with run := g.run.map f })

/-- Record a status of a running descriptor: the first code of R5, with its fault and detail. -/
def note (s : State) (e : Engine) (st : Status) (fault : Nat := 0) (detail : Nat := 0) : State :=
  s.modRun e (fun w => if w.status.first st = w.status then w else { w with status := st, fault := fault, detail := detail })

/-! ### Requests of an engine -/

/-- A request of an engine. -/
def engAcc (s : State) (e : Engine) (w : Work) (op : MemOp) (addr size : Nat) (data : Bytes) (key tag : Nat) : Acc :=
  let q : Req := { via := .batch (16 * (engHalf e).num), ctx := w.ctx, job := w.job, tag := tag, src := s.nodeNum, sid := engSid e,
                   addr := addr, size := size, data := data }
  { op := op, ga := addr, org := .engine e key, q := { q with len := reqUnits false op q } }

def newTag (s : State) : Nat × State :=
  (s.eng.nextTag, { s with eng.nextTag := (s.eng.nextTag + 1) % 2 ^ 20 })

/-- Issue a request of an engine at stage 2, or at stage 3 with its GA known. -/
def issue (s : State) (e : Engine) (op : MemOp) (addr size : Nat) (data : Bytes) (key : Nat) (translate : Bool := true)
    (f : Acc → Acc := id) : State :=
  match s.runOf e with
  | none => s
  | some w =>
      let (tag, s) := s.newTag
      let s := s.modRun e (fun w => { w with await := w.await ++ [key] })
      let a := f (s.engAcc e w op addr size data key tag)
      if translate then s.stage2 a else s.translated a

/-- Line reads an engine keeps outstanding (R140, R151, R197). -/
def lineLimit : EngClass → Nat
  | .tile => 16384
  | .yealm => 4096
  | .update => 8192

/-- Lines of a piece of a row, which is read at most 256 bytes at a time; a row below a line's size takes one. -/
def pieceLines (size : Nat) : Nat := (min 256 size + 127) / 128

/-- Lines of the reads a descriptor has outstanding. -/
def linesOut (s : State) (w : Work) : Nat :=
  let piece := match tget (yTable w.desc) s.ylx.tables with
    | some t => pieceLines (rowSize t)
    | none => 1
  w.await.foldl (fun n k => n + (if k < pageKey then 32 else if stageKey ≤ k && k < updateKey then piece else 0)) 0

/-- Ask for the blocks a descriptor waits for, as far as the engine's outstanding reads allow (R140, R151, R197). -/
def pump (s : State) (e : Engine) : State :=
  match s.runOf e with
  | none => s
  | some w =>
      let n := (lineLimit e.cls - s.linesOut w) / 32
      (w.want.take n).foldl (fun s b => s.issue e .bget (b * 4096) 1 [] b) (s.modRun e (fun w => { w with want := w.want.drop n }))

/-- Ask for the blocks of a range of VAs that are not here yet. -/
def askRange (s : State) (e : Engine) (va n : Nat) : State :=
  if n == 0 then s
  else
    let bs := (List.range ((va + n + 4095) / 4096 - va / 4096)).map (va / 4096 + ·)
    (s.modRun e (fun w => { w with want := w.want ++ bs.filter (fun b =>
      !(w.got.any (·.1 == b) || w.await.contains b || w.want.contains b)) })).pump e

/-- Whether every block of a range is here. -/
def blocksHere (w : Work) (va n : Nat) : Bool :=
  n == 0 || (List.range ((va + n + 4095) / 4096 - va / 4096)).all (fun i => w.got.any (·.1 == va / 4096 + i))

/-- Ask for no more than what is outstanding: the descriptor fails. -/
def askNoMore (s : State) (e : Engine) : State := s.modRun e (fun w => { w with want := [], y.todo := [] })

/-- Translate the pages of a range that will be written (R120). -/
def askPages (s : State) (e : Engine) (va n : Nat) : State :=
  if n == 0 then s
  else (List.range ((va + n + 65535) / 65536 - va / 65536)).foldl
    (fun s i => s.issue e .write (max va ((va / 65536 + i) * 65536)) 0 [] (pageKey + va / 65536 + i)) s

/-- Write a whole block with its spar (R202). -/
def putBlock (s : State) (e : Engine) (va : Nat) (data : Bytes) (tag : Nat) : State :=
  let d := fitTo 4096 data
  s.issue e .bput va 0 d (putKey + va / 4096) true (fun a =>
    { a with q := { a.q with spar := some ⟨crc32c d, tag⟩ } })

/-- Write a completion record to memory (R133, R171, R195). -/
def putRecord (s : State) (e : Engine) (va : Nat) (rec : Bytes) : State :=
  s.issue e .write va rec.length rec recordKey

/-- Remove one outstanding key. -/
def arrived (s : State) (e : Engine) (key : Nat) : State := s.modRun e (fun w => { w with await := w.await.erase key })

/-! ### Blocks an engine has read -/

/-- A byte range of the blocks read. -/
def gotBytes (w : Work) (va n : Nat) : Bytes :=
  let first := va / 4096
  let cnt := (va + n + 4095) / 4096 - first
  slice (va % 4096) n ((List.range cnt).map (fun i =>
    match w.got.find? (·.1 == first + i) with
    | some b => fitTo 4096 b.2.data
    | none => zeros 4096)).flatten

/-- The n elements of a format from a VA on, each with the format of its code: a fallback block holds the elements of its range
in the format its own tag names, unscaled (R102, R204). -/
def gotElems (w : Work) (fmt va n : Nat) : List (Nat × Nat) :=
  let width := fmtBits fmt
  let all := gotBytes w va ((n * width + 7) / 8)
  (List.range n).map (fun i =>
    let at' := va * 8 + i * width
    match w.got.find? (fun b => b.1 == at' / 32768 && b.2.fell) with
    | some b => let k := at' % 32768 / width * fmtBits b.2.spar.tag
        (b.2.spar.tag, bits (k + fmtBits b.2.spar.tag - 1) k b.2.data)
    | none => (fmt, bits (i * width + width - 1) (i * width) all))

/-- Whether a block of a range came from a fallback copy. -/
def gotFell (w : Work) (va n : Nat) : Bool := w.got.any (fun b => b.2.fell && va < b.1 * 4096 + 4096 && b.1 * 4096 < va + n)

/-- Tags of the unscaled formats, which a fallback block may have (R204). -/
def fallbackTag (t : Nat) : Bool := 1 ≤ t && t ≤ 4

/-- What the consumption of a range of the blocks read meets (R5, R204, R209, R222): a tag its consumer does not accept,
poison, or retraction. A consumer of whole blocks checks no tag of a void one. -/
def gotStatus (w : Work) (va n : Nat) (tags : List Nat) (whole : Bool) : Option Status :=
  if n == 0 then none
  else
    let first := va / 4096
    let cnt := (va + n + 4095) / 4096 - first
    let bs := (List.range cnt).filterMap (fun i => (w.got.find? (·.1 == first + i)).map (fun b => (first + i, b.2)))
    let lines := fun (k : Nat) => (List.range 32).filter (fun l => va < k * 4096 + l * 128 + 128 && k * 4096 + l * 128 < va + n)
    let badTag := fun (b : Blk) => if b.fell then !fallbackTag b.spar.tag else !(whole && b.void) && !tags.contains b.spar.tag
    if bs.any (fun b => badTag b.2) then some .checkMismatch
    else if bs.any (fun b => (lines b.1).any (fun l => bitOf b.2.poison l)) then some .poisoned
    else if bs.any (fun b => b.2.st == 2) then some .unconfirmedRetracted
    else none

/-- Fail a descriptor by the data it consumed, and end its job (R209, R211, R222). -/
def consumed (s : State) (e : Engine) (st : Status) : State :=
  match s.runOf e with
  | none => s
  | some w =>
      let s := if st == .checkMismatch then s.count (engHalf e) 0x4080 4 else s
      (s.note e st).push (.endJob w.ctx w.job (reasonOf st) (some [w.issuer]))

/-- Consume a range of the blocks read. -/
def consume (s : State) (e : Engine) (va n : Nat) (tags : List Nat) (whole : Bool := true) : State :=
  match (s.runOf e).bind (fun w => gotStatus w va n tags whole) with
  | none => s
  | some st => s.consumed e st

/-- An operation whose job is ended stops with JOB_ENDED (R212), unless data it consumed itself ended the job: that status
stands (R134, R169, R193). -/
def noteEnded (s : State) (e : Engine) : State :=
  match s.runOf e with
  | none => s
  | some w =>
      if !s.jobEnded w.ctx w.job || w.stopped then s
      else (if w.status.consumes then s else s.note e .jobEnded).modRun e (fun w => { w with stopped := true })

/-- Where a VA lies: none while its translation must be asked for, a missing GA where it faults. `known` holds pages that have
been asked for. -/
def placeOf (s : State) (h : Half) (c : Nat) (known : Tbl Nat (Option Nat)) (va : Nat) : Option (Option Nat) :=
  if c == 0 then some (some va)
  else match tget (va / 65536) known with
    | some ga => some (ga.map (fun x => x / 65536 * 65536 + va % 65536))
    | none => (s.tlbHit h 256 c va).map (fun t => some (t.ga + va % 2 ^ t.size))

/-- The GA of a VA of an engine, as far as the translation caches tell. -/
def translateNow (s : State) (h : Half) (c va : Nat) : Option Nat := (s.placeOf h c [] va).join

/-- A received block, as a descriptor keeps it. -/
def blkOfReply (r : Reply) : Blk :=
  match r.blks with
  | b :: _ => b
  | [] => { data := r.data, poison := 0, spar := ⟨0, r.tg⟩, void := true, fell := r.status == .tierFallback }

/-- An answer to an engine's block read: kept, read again once on a crc mismatch, or failed (R206). `whole` tells
whether this engine checks the crc of what it reads (R204). -/
def takeBlock (s : State) (e : Engine) (key : Nat) (r : Reply) (whole : Bool) : State :=
  match s.runOf e with
  | none => s
  | some w =>
      if !r.status.good then s.note e r.status r.fault
      else
        let b := blkOfReply r
        let s := if r.status == .tierFallback then s.note e .tierFallback else s
        let h := engHalf e
        let s := if whole then s.countChecks h [b] else s
        if whole && s.crcBad h b then
          if w.reread.contains key then
            let ga := (s.translateNow h w.ctx (key * 4096)).getD 0
            (((s.confirmMismatch h ga w.ctx w.job).note e .checkMismatch).push
              (.endJob w.ctx w.job 2 (some [w.issuer])))
          else (s.modRun e (fun w => { w with reread := w.reread ++ [key] })).askRange e (key * 4096) 4096
        else
          let s := if whole && w.reread.contains key then s.count h 0x4080 2 else s
          s.modRun e (fun w => { w with got := w.got ++ [(key, b)] })

/-! ### Dispatch (R97, R98) -/

/-- The pieces of a range of VAs page by page: first VA and bytes. -/
def rangePages (r : Nat × Nat) : List (Nat × Nat) :=
  if r.2 == 0 then []
  else (List.range ((r.1 + r.2 + 65535) / 65536 - r.1 / 65536)).map (fun i =>
    let lo := max r.1 ((r.1 / 65536 + i) * 65536)
    (lo, min (r.1 + r.2) ((r.1 / 65536 + i + 1) * 65536) - lo))

/-- Bytes of some ranges of VAs by the node and offset that hold them (R97). A shelf runs no engine: its bytes count for the
device that owns it, there in the half of the shelf's port and stack p mod 8 of it (R190). -/
def rangeLocs (s : State) (h : Half) (c : Nat) (known : Tbl Nat (Option Nat)) (rs : List (Nat × Nat)) : List (Nat × Nat × Nat) :=
  ((rs.map rangePages).flatten).filterMap (fun p =>
    match (s.placeOf h c known p.1).join with
    | none => none
    | some ga =>
        match s.locate h ga with
        | .near off => some (s.nodeNum, off, p.2)
        | .at' d | .moved d =>
            if s.ownsShelf d then some (s.nodeNum, ((s.shelfHalf d).num * 8 + gaOff ga / 65536 % 8) * stackSize, p.2)
            else some (if s.isShelf d then s.hopOf d else d, 0, p.2)
        | .stale => none)

/-- Pages of some ranges whose translation must be asked for, each by the first VA used in it. -/
def unplaced (s : State) (h : Half) (c : Nat) (known : Tbl Nat (Option Nat)) (rs : List (Nat × Nat)) : List Nat :=
  ((rs.map rangePages).flatten).foldl (fun l p =>
    if (s.placeOf h c known p.1).isSome || l.any (fun v => v / 65536 == p.1 / 65536) then l else l ++ [p.1]) []

def bytesOf (locs : List (Nat × Nat × Nat)) (p : Nat × Nat × Nat → Bool) : Nat :=
  (locs.filter p).foldl (fun n x => n + x.2.2) 0

/-- The node that holds the most bytes: this device on a tie, then the lower node (R97). -/
def bestNode (s : State) (locs : List (Nat × Nat × Nat)) : Nat :=
  (locs.map (·.1)).foldl (fun b n =>
    let x := bytesOf locs (·.1 == n)
    let y := bytesOf locs (·.1 == b)
    if x > y || (x == y && b != s.nodeNum && (n == s.nodeNum || n < b)) then n else b) s.nodeNum

/-- Engines of a class on a half, in number order. -/
def classEngines (cls : EngClass) (h : Half) : List Engine :=
  let n := match cls with
    | .tile => 8
    | _ => 16
  (List.range n).map (fun i => (⟨cls, h.num * n + i⟩ : Engine))

def queueLen (s : State) (e : Engine) : Nat := (s.engOf e).queue.length + ofBool (s.engOf e).run.isSome

/-- Whether an engine accepts work (R366, R369, R370): in service, or under a test that yields. -/
def accepts (s : State) (e : Engine) : Bool :=
  let g := s.engOf e
  s.phase ≥ 0xA && (g.state == 0 || (g.state == 1 && !g.forced))

/-- The engine with the shortest queue, the lower number on a tie. -/
def shortest (s : State) (es : List Engine) : Option Engine :=
  es.foldl (fun b e =>
    match b with
    | none => some e
    | some x => if s.queueLen e < s.queueLen x then some e else b) none

/-- Engine for work of a class whose operand bytes on this device lie as `locs` says (R97). -/
def chooseEngine (s : State) (cls : EngClass) (locs : List (Nat × Nat × Nat)) (ok : Engine → Bool) : Option Engine :=
  let mine := locs.filter (fun x => s.isSelf x.1)
  let h := if bytesOf mine (fun x => offHalf x.2.1 == .east) > bytesOf mine (fun x => offHalf x.2.1 == .west) then Half.east else .west
  let mine8 := (List.range 8).map (fun i => h.num * 8 + i)
  let st := mine8.foldl (fun b n => if bytesOf mine (fun x => stackOf x.2.1 == n) > bytesOf mine (fun x => stackOf x.2.1 == b) then n else b) (h.num * 8)
  let usable := fun (e : Engine) => s.accepts e && ok e
  let beside := (classEngines cls h).filter (fun e => engStack e == st && usable e)
  let limit := s.cfg h 0x2070 (match cls with
    | .tile => 8
    | .yealm => 9
    | .update => 0xA)
  let all := (classEngines cls h).filter usable
  let far := (classEngines cls h.other).filter usable
  match s.shortest beside with
  | some e => if s.queueLen e > limit then s.shortest all else some e
  | none => (match s.shortest all with
      | some e => some e
      | none => s.shortest far)

/-- Abandon a test in a dormer slot for work (R369). -/
def yieldTest (s : State) (e : Engine) : State :=
  let g := s.engOf e
  if g.state == 1 && !g.forced then (s.modEng e (fun g => { g with state := 0 })).count (engHalf e) 0x40F0 9 else s

/-- A job enters the list of an engine that works for it (R372). -/
def listJob (g : Eng) (c j : Nat) : Eng :=
  let known := g.jobs.contains (c, j)
  { g with jobs := if known || 256 ≤ g.jobs.length then g.jobs else g.jobs ++ [(c, j)],
           overflow := g.overflow || (!known && 256 ≤ g.jobs.length) }

/-- Put work on an engine's queue; the job enters the engine's list (R372). -/
def enqueue (s : State) (e : Engine) (w : Work) : State :=
  ((s.yieldTest e).modEng e (fun g => { listJob g w.ctx w.job with queue := g.queue ++ [w] })).push (.wake e)

/-- Put work ahead of a queue, behind the places that queued gangs keep there (R162). -/
def putFirst (w : Work) (q : List Work) : List Work :=
  let gang := fun (x : Work) => match x.sink with
    | .gang _ => true
    | _ => false
  let tail := (q.reverse.takeWhile (fun x => !gang x)).reverse
  q.take (q.length - tail.length) ++ w :: tail

/-- Work that leaves another engine goes to the head of an engine's queue (R170, R194, R372). -/
def enqueueFirst (s : State) (e : Engine) (w : Work) : State :=
  ((s.yieldTest e).modEng e (fun g => { listJob g w.ctx w.job with queue := putFirst w g.queue })).push (.wake e)

/-! ### Completion -/

/-- A 64-byte completion record goes to the issuing host (R98, R314). -/
def sendCompletion (s : State) (w : Work) (cls : EngClass) (rec : Bytes) : State :=
  s.sendTo w.issuer 1 12 (.completion cls w.tag rec)

/-- The running descriptor is finished; the engine goes on with its queue, and the front ends with what waits for it. -/
def retire (s : State) (e : Engine) : State :=
  ((s.modEng e (fun g => { g with run := none })).push (.wake e)).pushAll (s.eng.fronts.map (fun (f : Nat × Front) => Task.post f.1))

/-- The next descriptor of an engine in service. -/
def nextWork (s : State) (e : Engine) : State :=
  let g := s.engOf e
  match g.run, g.queue with
  | none, w :: t => if g.state == 0 && s.phase ≥ 0xA then s.modEng e (fun g => { g with run := some w, queue := t }) else s
  | _, _ => s

/-- The stage-1 refusal of a job submission (R47, R50, R97, R212, R483): the checks of a request that enters here. -/
def submitRefusal (s : State) (j : Submit) : Option (Status × Nat) :=
  s.stage1 { via := j.via, ctx := j.ctx, job := j.job, tag := j.tag, addr := 0 }

/-- The issuing host of a submission. -/
def issuerOf (j : Submit) : Party :=
  match j.via with
  | .geled e hv => .companion e hv
  | .port p | .batch p | .onward p _ => .host p

/-- The bucket charge of a submission (R331). -/
def submitBucket (s : State) (j : Submit) (src : Nat) : Bool × State :=
  s.chargeBucket j.via src j.ctx j.job ((4 + unitsOf j.desc.length) * 8)

/-- Forward a job to another node (R97, R98); none where no route leads there. -/
def forwardJob (s : State) (n : Nat) (cls : EngClass) (w : Work) : Option State :=
  let sid := match w.issuer with
    | .host p => 0x60 + p
    | .companion _ _ => 0x80
    | .node _ x => x
    | _ => 0xF0
  let (ok, s') := s.route { dst := n, sid := sid, vc := 0, units := 4 + unitsOf w.desc.length, m := .job cls w.ctx w.job w.tag w.desc w.issuer }
  if ok then some s' else none

/-- The node a job is forwarded to (R97): it holds more than half of the operand bytes, and the context allows it. -/
def awayNode (s : State) (c : Nat) (locs : List (Nat × Nat × Nat)) (forwarded : Bool) : Option Nat :=
  let best := s.bestNode locs
  if !forwarded && best != s.nodeNum && bytesOf locs (·.1 == best) * 2 > bytesOf locs (fun _ => true) && bitOf (s.ctx c).flags 0
  then some best else none

end Sys2Proof.Machine.State
end

