-- ==== Sys2Proof/Machine/Copy.lean ====
section
/-! DEFINITION. Traffic this device itself originates to move pages and row blocks (R91, R143, R210, R318): its reads and
writes, which pass the ridge like any other request, the switchovers, and coordination packets. -/

namespace Sys2Proof.Machine
namespace State

/-- A request of this device itself (R91, R318): context 0, job 0xFFFF, made by one half, for a place of a node. -/
def devReq (s : State) (h : Half) (op : MemOp) (node ga : Nat) (org : Origin) (f : Req → Req) : State :=
  let (tag, s) := s.newTag
  let q : Req := f { via := .batch (16 * h.num), ctx := 0, job := 0xFFFF, tag := tag, src := s.nodeNum, sid := 0xF0,
                     dst := node, addr := ga }
  let q := { q with len := (if op == .bput then 16 else 1) * reqUnits false op q }
  let a : Acc := { op := op, ga := ga, org := org, q := q }
  if s.isSelf node then s.homeGo a (gaOff ga) else s.toNode a node

/-- A block with its spar, poison, result state and check ID (R202, R207, R210). -/
def devPut (s : State) (h : Half) (node ga : Nat) (b : Blk) (org : Origin := .device) : State :=
  s.devReq h .bput node ga org (fun q =>
    { q with data := b.data, pz := b.poison, st := b.st, spar := some b.spar, u := b.ck.isSome, ck := b.ck.getD ⟨0, 0⟩ })

/-- A bulk read of n blocks. -/
def devGet (s : State) (h : Half) (node ga n : Nat) (org : Origin) : State :=
  s.devReq h .bget node ga org (fun q => { q with size := n })

/-- A piece that fills no 4 KiB block. A WRITE has no field for a retracted state; DESIGN CHOICE (log entry 115): it is
carried all the same, as R210 asks. -/
def devWrite (s : State) (h : Half) (node ga : Nat) (bs : Bytes) (pz st : Nat) (ck : Option CheckId) (org : Origin) : State :=
  s.devReq h .write node ga org (fun q =>
    { q with size := bs.length, data := bs, pz := pz, st := st, u := ck.isSome, ck := ck.getD ⟨0, 0⟩ })

/-- A block with every line poisoned. -/
def poisonBlk : Blk := { data := zeros 4096, poison := 2 ^ 32 - 1, spar := ⟨0, 0⟩, void := true }

/-- A coordination packet (R318): kinds 1 space request, 2 space answer, 3 frame request, 4 frame answer, 5 fence placed
copies. -/
def coordinate (s : State) (node kind ans t n ga : Nat) : State := s.control node 2 (.coordination kind ans t n ga)

/-- The device that decides for a page: its home, or the owner of its shelf (R76). -/
def deciderOf (s : State) (page : Nat) : Nat := s.hopOf (page / 2 ^ 32)

/-- Tell another device that a page's location has changed (R92, R93). The manual gives no packet for that; DESIGN CHOICE
(log entry 58): a space answer that answers no request says so. -/
def tellMoved (s : State) (node page : Nat) : State :=
  if s.isSelf node then s else s.coordinate node 2 0 0 0 (page * 65536)

/-- The payload of a placement hint (R96). -/
def hintBytes (x : Hint) : Bytes := le 2 x.ctx ++ le 2 x.target ++ le 4 x.pages ++ le 8 (x.page * 65536) ++ zeros 8

/-- What the home of a page tells the device that holds it: the hints recorded for it (R89, R96), and that its region
drains (R81). The manual gives no packet for either; DESIGN CHOICE (log entry 116): the home passes its hints on with the
home's own number for "the home", and a hint to 0x3FFF says that the region drains. -/
def tellHolder (s : State) (page node : Nat) : State :=
  if s.isSelf node then s
  else
    let home := page / 2 ^ 32
    let mine := s.plc.hints.filter (fun x => x.page ≤ page && page < x.page + x.pages)
    let s := mine.foldl (fun s x =>
      s.control node 3 (.hint (hintBytes { x with page := page, pages := 1, target := if x.target == 0x3FFF then home else x.target }))) s
    match s.plc.regions.find? (fun r => r.2.cls != 4 && r.2.drain.isSome && inPages (s.homeGa r.2.base) r.2.pages page) with
    | some r => s.control node 3 (.hint (hintBytes ⟨r.2.ctx, 0x3FFF, page, 1⟩))
    | none => s

/-! ### Pages (R91) -/

def moveOf (s : State) (page : Nat) : Option PMove := s.plc.moves.find? (fun m => m.page == page)

def modMove (s : State) (page : Nat) (f : PMove → PMove) : State :=
  { s with plc.moves := s.plc.moves.map (fun m => if m.page == page then f m else m) }

/-- The half that copies a page: that of its frame, or of the port of its shelf. -/
def moveHalf (s : State) (page : Nat) : Half :=
  match s.pageAt page with
  | some off => offHalf off
  | none => s.shelfHalf (page / 2 ^ 32)

/-- Read n blocks of a page being moved, from this device's memory or from the shelf that holds it. -/
def askCopy (s : State) (page k n : Nat) : State :=
  let h := s.moveHalf page
  let s := s.modMove page (fun m => { m with left := m.left + 1 })
  match s.pageAt page with
  | some off => s.devGet h s.nodeNum (mkGa s.nodeNum (off + k * 4096)) n (.copy page k)
  | none => s.devGet h (page / 2 ^ 32) (page * 65536 + k * 4096) n (.copy page k)

/-- Write one block of a page where the page goes: its reserved frame here, or another node (R91, R210). -/
def landPage (s : State) (m : PMove) (k : Nat) (b : Blk) : State :=
  let h := s.moveHalf m.page
  if s.isSelf m.dest then
    match tget m.page s.plc.here with
    | some f => (s.modMove m.page (fun m => { m with left := m.left + 1 })).devPut h s.nodeNum (mkGa s.nodeNum (f.frame + k * 4096)) b (.copy m.page k)
    | none => s
  else (s.modMove m.page (fun m => { m with left := m.left + 1 })).devPut h m.dest (m.page * 65536 + k * 4096) b (.copy m.page k)

/-- Copy the blocks that hold dirty lines again; their marks are cleared (R91). -/
def copyDirty (s : State) (m : PMove) : State :=
  let blocks := m.dirty.foldl (fun (l : List Nat) x => addOnce (x / 32) l) []
  blocks.foldl (fun (s : State) k => s.askCopy m.page k 1) (s.modMove m.page (fun m => { m with dirty := [] }))

/-- Start the copy of a page (R91). No copy traffic is issued while the domain is down (R258). -/
def startCopy (s : State) (page : Nat) : State :=
  if s.rdg.mode == 0 then s
  else (s.modMove page (fun m => { m with phase := 1, dirty := [] })).askCopy page 0 16

/-- Copies that were accepted and wait for the domain to come up again (R258). -/
def resumeCopies (s : State) : State :=
  (s.plc.moves.filter (fun m => m.accepted && m.phase == 0)).foldl (fun s m => s.startCopy m.page) s

/-- Abandon a move: the frame at its destination is freed (R41, R91). -/
def abandonMove (s : State) (m : PMove) : State :=
  let s := { s with plc.moves := s.plc.moves.filter (fun x => x.page != m.page) }
  if m.demote then s
  else if s.isSelf m.dest then { s with plc.here := s.plc.here.filter (fun f => f.1 != m.page || f.2.live) }
  else s.coordinate m.dest 5 0 0 1 (m.page * 65536)

/-- The location of a page changes (R77, R85, R92, R93): every line is at its destination. -/
def switchPage (s : State) (m : PMove) : State :=
  let s := { s with plc.moves := s.plc.moves.filter (fun x => x.page != m.page) }.dropTranslations m.page
  let held := thas m.page s.plc.here
  let own := s.ownsShelf (m.page / 2 ^ 32)
  if m.demote then
    let s := { s with plc.here := tdel m.page s.plc.here, plc.forwards := tput m.page m.dest s.plc.forwards }
    let s := if own then { s with plc.counters := s.plc.counters.map (fun (w : Nat × Counter) => if w.1 == m.page then (w.1, { w.2 with placed := false }) else w) }
      else { s with plc.counters := tdel m.page s.plc.counters }.tellMoved (s.deciderOf m.page) m.page
    s.count s.holder 0x4042 4
  else
    let s := if s.isSelf m.dest then
        { s with plc.here := s.plc.here.map (fun (f : Nat × Placed) => if f.1 == m.page then (f.1, { f.2 with live := true }) else f),
                 plc.counters := s.plc.counters.map (fun (w : Nat × Counter) => if w.1 == m.page then (w.1, { w.2 with placed := true }) else w) }
      else
        let s := if held then { s with plc.here := tdel m.page s.plc.here, plc.forwards := tput m.page m.dest s.plc.forwards } else s
        let s := if !held || own then { s with plc.away := tput m.page m.dest s.plc.away, plc.backs := tdel m.page s.plc.backs }.tellHolder m.page m.dest else s
        { s with plc.counters := tdel m.page s.plc.counters }.tellMoved m.dest m.page
    s.count s.holder 0x4042 3

/-- A switchover ends when nothing of its copy is left to be answered (R91). -/
def switchDone (s : State) (page : Nat) : State :=
  match s.moveOf page with
  | some m => if m.phase == 3 && m.left == 0 then s.switchPage m else s
  | none => s

/-- Forget a move whose destination has taken its space back (R41, R143). -/
def forgetMove (s : State) (page : Nat) : State := { s with plc.moves := s.plc.moves.filter (fun x => x.page != page) }

/-- A read or a write of a page's copy is answered: what was read goes on to the page's new place. -/
def copyStep (s : State) (page k : Nat) (st : Status) (blks : List Blk) : State :=
  match s.moveOf page with
  | none => s
  | some m =>
      if !st.good then s.abandonMove m
      else
        let s := s.modMove page (fun x => { x with left := x.left - 1 })
        (((List.range blks.length).zip blks).foldl (fun s x => s.landPage m (k + x.1) x.2) s).switchDone page

/-- A page of an admission range has been read from the partner (R390): it is written here, or its range is given up. -/
def rangeLoaded (s : State) (i ga : Nat) (st : Status) (blks : List Blk) : State :=
  match s.avl.admission.ranges[i]? with
  | none => s
  | some r =>
      if s.avl.admission.st != 2 then s
      else if st.good then
        ((List.range blks.length).zip blks).foldl (fun s x =>
          let off := r.2.1 + (gaOff ga - r.1) + x.1 * 4096
          s.devPut (offHalf off) s.nodeNum (mkGa s.nodeNum off) x.2) s
      else { s with avl.admission := { s.avl.admission with ranges := s.avl.admission.ranges.set i (0, 0, 0),
                                                            abandoned := s.avl.admission.abandoned + 1 } }

/-! ### Row blocks (R143, R144) -/

/-- Bytes of a block's rows. -/
def blockBytes (t : Table) (b : Nat) : Nat := (blockRows t b).length * rowSize t

def rowMoveOf (s : State) (n b : Nat) : Option RMove := s.ylx.moves.find? (fun m => m.t == n && m.b == b)

def modRows (s : State) (n b : Nat) (f : RMove → RMove) : State :=
  { s with ylx.moves := s.ylx.moves.map (fun m => if m.t == n && m.b == b then f m else m) }

/-- Read the part of a block that fills 4 KiB of its copy, from byte `at'` on. -/
def askRows (s : State) (n b : Nat) (t : Table) (at' : Nat) : State :=
  match s.blockHere t n b with
  | none => s
  | some off =>
      let lo := (off + at') / 4096
      let hi := (off + min (at' + 4096) (blockBytes t b) + 4095) / 4096
      (s.modRows n b (fun m => { m with left := m.left + 1 })).devGet (offHalf off) s.nodeNum (mkGa s.nodeNum (lo * 4096)) (hi - lo) (.rowCopy n b at')

/-- Read a whole block. -/
def askBlockRows (s : State) (n b : Nat) (t : Table) : State :=
  (List.range ((blockBytes t b + 4095) / 4096)).foldl (fun s i => s.askRows n b t (i * 4096)) s

/-- Copy the marked rows again and clear their marks (R143). -/
def replayRows (s : State) (m : RMove) (t : Table) : State :=
  let starts := m.marks.foldl (fun (l : List Nat) row => addOnce ((rowBlock t row).2 * rowSize t / 4096 * 4096) l) []
  starts.foldl (fun s x => s.askRows m.t m.b t x) (s.modRows m.t m.b (fun m => { m with marks := [] }))

/-- Whether byte x of the blocks read lies in a poisoned line. -/
def blksPoison (blks : List Blk) (x : Nat) : Bool := bitOf (blks.getD (x / 4096) poisonBlk).poison (x % 4096 / 128)

/-- The check ID and result state of what is assembled from some blocks (R210). -/
def blksState (blks : List Blk) : Nat × Option CheckId :=
  (if blks.any (fun b => b.st == 2) then 2 else if blks.any (fun b => b.st == 1) then 1 else 0, blks.findSome? (·.ck))

/-- Write what was read of a block from byte `at'` on where the block goes (R143, R210): as a block with its spar when it
fills one there, in pieces of a line otherwise. A frame's last block is filled with zeros. -/
def landRows (s : State) (m : RMove) (t : Table) (at' : Nat) (blks : List Blk) : State :=
  match s.blockHere t m.t m.b with
  | none => s
  | some off =>
      let h := offHalf off
      let skip := (off + at') % 4096
      let n := min 4096 (blockBytes t m.b - at')
      let bytes := slice skip n (blks.map (fun b => fitTo 4096 b.data)).flatten
      let here := s.isSelf m.dest
      let ga := if here then mkGa s.nodeNum (m.frame + at') else blockGa t m.b + at'
      let more := fun (s : State) => s.modRows m.t m.b (fun m => { m with left := m.left + 1 })
      let (st, ck) := blksState blks
      if ga % 4096 == 0 && (!m.back || n == 4096) then
        let b : Blk := match blks with
          | b :: _ => if skip == 0 && n == 4096 then b else
              let d := fitTo 4096 bytes
              let pz := (List.range 32).foldl (fun p i => if 128 * i < n && (blksPoison blks (skip + 128 * i) ||
                blksPoison blks (skip + min (n - 1) (128 * i + 127))) then p + 2 ^ i else p) 0
              { data := d, poison := pz, spar := ⟨crc32c d, b.spar.tag⟩, st := st, void := pz != 0, ck := ck }
          | [] => poisonBlk
        (more s).devPut h m.dest ga b (.rowCopy m.t m.b at')
      else
        -- lines of the place the piece goes to: a spill frame begins with the block
        let d0 := if here || m.back then gaOff ga else at'
        (List.range ((d0 + n + 127) / 128 - d0 / 128)).foldl (fun s i =>
          let lo := max d0 ((d0 / 128 + i) * 128) - d0
          let hi := min (d0 + n) ((d0 / 128 + i + 1) * 128) - d0
          let bad := blksPoison blks (skip + lo) || blksPoison blks (skip + hi - 1)
          (more s).devWrite h m.dest (ga + lo) (slice lo (hi - lo) bytes) (ofBool bad) st ck (.rowCopy m.t m.b at')) s

/-- Begin a move's copy, once the domain is up (R143, R258). -/
def startRows (s : State) (n b : Nat) : State :=
  match tget n s.ylx.tables with
  | none => s
  | some t =>
      if s.rdg.mode == 0 then s
      else (s.modRows n b (fun m => { m with phase := 1, marks := [] })).askBlockRows n b t

/-- Copies that were accepted and wait for the domain (R258). -/
def resumeRows (s : State) : State :=
  (s.ylx.moves.filter (fun m => m.accepted && m.phase == 0)).foldl (fun s m => s.startRows m.t m.b) s

/-- Drop every staged row of a block (R137). -/
def dropStaged (s : State) (n b : Nat) (t : Table) : State :=
  s.modBoth (fun x => { x with staged := x.staged.filter (fun r => !(r.t == n && (rowBlock t r.row).1 == b)) })

/-- Tell another device that a block's location has changed (R144). DESIGN CHOICE (log entry 58): a frame answer that
answers no request says so. -/
def tellBlock (s : State) (node n b : Nat) (t : Table) : State :=
  if s.isSelf node then s else s.coordinate node 4 0 n b (blockGa t b)

/-- The location of a block changes (R141, R143, R144). -/
def switchRows (s : State) (m : RMove) (t : Table) : State :=
  let h := match s.blockHere t m.t m.b with
    | some off => offHalf off
    | none => .west
  let s := { s with ylx.moves := s.ylx.moves.filter (fun x => !(x.t == m.t && x.b == m.b)) }.dropStaged m.t m.b t
  let s := { s with ylx.loads := tput (m.t, m.b) { moved := !m.back } s.ylx.loads }
  if m.back then
    let s := { s with ylx.spills := s.ylx.spills.filter (fun f => !(f.1.1 == m.t && f.2 = (m.t, m.b))),
                      ylx.overs := tdel (m.t, m.b) s.ylx.overs }
    let s := if s.isSelf m.dest then s
      else { s with ylx.forwards := tput (m.t, m.b) m.dest s.ylx.forwards, ylx.loads := tdel (m.t, m.b) s.ylx.loads }.tellBlock m.dest m.t m.b t
    s.count h 0x4050 0xC
  else if s.isSelf m.dest then
    { s with ylx.overs := tput (m.t, m.b) { node := s.nodeNum, off := m.frame, learned := false } s.ylx.overs }.count h 0x4050 9
  else
    ({ s with ylx.overs := tput (m.t, m.b) { node := m.dest, off := 0, learned := false } s.ylx.overs,
              ylx.forwards := tput (m.t, m.b) m.dest s.ylx.forwards }.tellBlock m.dest m.t m.b t).count h 0x4050 9

/-- A switchover of a block ends when nothing of its copy is left to be answered (R143). -/
def rowsDone (s : State) (n b : Nat) : State :=
  match s.rowMoveOf n b, tget n s.ylx.tables with
  | some m, some t => if m.phase == 3 && m.left == 0 then s.switchRows m t else s
  | _, _ => s

/-- Abandon a move of a block (R41, R143): a frame reserved here is free again, another node is told to free its own. -/
def abandonRows (s : State) (m : RMove) : State :=
  let s := { s with ylx.moves := s.ylx.moves.filter (fun x => !(x.t == m.t && x.b == m.b)) }.count s.holder 0x4050 0xB
  if m.back then s
  else if s.isSelf m.dest then { s with ylx.spills := s.ylx.spills.filter (fun f => !(f.1.1 == m.t && f.2 = (m.t, m.b))) }
  else match tget m.t s.ylx.tables with
    | some t => s.coordinate m.dest 4 1 m.t m.b (blockGa t m.b)
    | none => s

/-- A read or a write of a block's copy is answered. -/
def rowStep (s : State) (n b at' : Nat) (st : Status) (blks : List Blk) : State :=
  match s.rowMoveOf n b, tget n s.ylx.tables with
  | some m, some t =>
      if !st.good then s.abandonRows m
      else
        let s := s.modRows n b (fun x => { x with left := x.left - 1 })
        (if blks.isEmpty then s else s.landRows m t at' blks).rowsDone n b
  | _, _ => s

/-! ### Fences of what is held here of another home's pages (R41, R95) -/

/-- Near ranges this device holds of a page range of another home: frames of placed copies, and row blocks at spill
frames, each with the page it belongs to. -/
def heldRanges (s : State) (ga pages : Nat) : List (Nat × Nat × Nat) :=
  ((s.plc.here.filter (fun f => f.2.live && inPages ga pages f.1)).map (fun f => (f.1, f.2.frame, 65536))) ++
  s.ylx.overs.filterMap (fun o => match tget o.1.1 s.ylx.tables with
    | some t => let g := blockGa t o.1.2
        if o.2.live && !o.2.learned && s.isSelf o.2.node && !s.isSelf (gaNode g) && ga / 65536 ≤ (g + blockBytes t o.1.2) / 65536 &&
          g / 65536 < ga / 65536 + pages then some (g / 65536, o.2.off, blockBytes t o.1.2) else none
    | none => none)

/-- Whether a near offset lies in some ranges. -/
def inRanges (rs : List (Nat × Nat × Nat)) (off : Nat) : Bool := rs.any (fun r => r.2.1 ≤ off && off < r.2.1 + r.2.2)

/-- Recall what agents hold of a fenced range; a recall on its way for the ridge's own ends drops its data too (R71, R95). -/
def placeRecall (s : State) (r : Nat × Nat × Nat) : State :=
  let hit := fun (l : Nat) => inRanges [r] (l * 128)
  let own := fun (w : Why) => match w with
    | .overflow | .move | .deregister _ | .entryError => true
    | _ => false
  let h := offHalf r.2.1
  let s := s.modHalf h (fun y =>
    { y with pend := y.pend.map (fun p => if hit p.1 && own p.2.why then (p.1, { p.2 with why := .placeFence r.1, discard := true }) else p),
             recalls := y.recalls.map (fun x => if hit x.1 then (x.1, .placeFence r.1) else x) })
  (((s.half h).dir.filter (fun e => hit e.1)).map (·.1)).foldl (fun s l => s.recallLine h l (.placeFence r.1) true) s

/-- Free what has been reserved here for pages and blocks of a range and has not switched yet. -/
def freeReserved (s : State) (ga pages : Nat) : State :=
  let hit := fun (page : Nat) => inPages ga pages page
  let gone := s.ylx.overs.filterMap (fun o => match tget o.1.1 s.ylx.tables with
    | some t => if !o.2.live && !o.2.learned && hit (blockGa t o.1.2 / 65536) then some o.1 else none
    | none => none)
  { s with plc.here := s.plc.here.filter (fun f => f.2.live || !hit f.1),
           ylx.overs := s.ylx.overs.filter (fun o => !gone.contains o.1),
           ylx.spills := s.ylx.spills.filter (fun f => !gone.contains f.2) }

/-- The home of placed copies fences them (R95): their requests are refused from now on, and agents' lines recalled. -/
def fencePlaced (s : State) (src ga pages : Nat) : State :=
  let pages := max 1 pages
  let s := (s.plc.moves.filter (fun m => inPages ga pages m.page)).foldl abandonMove (s.freeReserved ga pages)
  let s := { s with plc.fences := s.plc.fences ++ [({ src := src, base := ga, pages := pages } : PFence)] }
  let s := (s.heldRanges ga pages).foldl placeRecall s
  let a := s.avl.admission
  if src == a.partner && 4 ≤ a.st then
    { s with avl.admission := { a with ranges := a.ranges.filter (fun r => !(gaOff ga < r.1 + r.2.2 * 65536 && r.1 < gaOff ga + pages * 65536)) } }
  else s

/-- Whether a request admitted before a fence is not complete, or a line is still with an agent (R71, R95). -/
def fenceBusy (s : State) (f : PFence) : Bool :=
  let rs := s.heldRanges f.base f.pages
  let past := fun (a : Acc) => a.passed && inPages f.base f.pages (s.homeGa a.ga / 65536)
  [Half.west, Half.east].any (fun h =>
    (s.half h).dir.any (fun e => inRanges rs (e.1 * 128)) || (s.half h).recalls.any (fun r => inRanges rs (r.1 * 128)) ||
    (s.half h).pend.any (fun p => inRanges rs (p.1 * 128))) || s.waitingHere.any past

/-- A fence is done (R95): the copies are discarded, and the home hears of the writes that were dropped. -/
def endFence (s : State) (f : PFence) : State :=
  if s.fenceBusy f then s
  else
    let gone := ((s.plc.here.filter (fun x => inPages f.base f.pages x.1)).map (·.1))
    let blocks := s.ylx.overs.filterMap (fun o => match tget o.1.1 s.ylx.tables with
      | some t => if !o.2.learned && s.isSelf o.2.node && !s.isSelf (gaNode (blockGa t o.1.2)) && inPages f.base f.pages (blockGa t o.1.2 / 65536)
          then some o.1 else none
      | none => none)
    let s := { s with plc.fences := s.plc.fences.filter (· ≠ f), plc.here := s.plc.here.filter (fun x => !gone.contains x.1),
                      plc.counters := if gone.isEmpty then s.plc.counters else s.plc.counters.filter (fun w => !gone.contains w.1),
                      ylx.overs := s.ylx.overs.filter (fun o => !blocks.contains o.1),
                      ylx.spills := s.ylx.spills.filter (fun x => !blocks.contains x.2) }
    (gone.foldl dropTranslations s).control f.src 2 (.fenceDone f.pages f.base f.drops)

/-- Fences that are done, and requests that may go on. -/
def endFences (s : State) : State :=
  let s := s.plc.fences.foldl endFence s
  ({ s with plc.waiting := [] } : State).pushAll (s.plc.waiting ++ s.near.behind.map (fun (a : Acc) => Task.behind a.q.src a.q.sid))

end State
end Sys2Proof.Machine
end

