-- ==== Sys2Proof/Machine/Truss.lean ====
section
/-! DEFINITION. Truss arithmetic (R147 to R159, R217, R218): the tile-job descriptor, exact block sums, accumulation,
output conversion and the checker. -/

namespace Sys2Proof.Machine

/-! ### The descriptor (R155) -/

def tOp (d : Bytes) : Nat := bits 3 0 d
def tAcc (d : Bytes) : Bool := bits 4 4 d == 1
def tFed (d : Bytes) : Bool := bits 5 5 d == 1
def tSplit (d : Bytes) : Nat := bits 7 6 d
def tGang (d : Bytes) : Nat := max 1 (bits 12 8 d)
def tAfmt (d : Bytes) : Nat := bits 23 16 d
def tBfmt (d : Bytes) : Nat := bits 31 24 d
def tCfmt (d : Bytes) : Nat := bits 39 32 d
def tTm (d : Bytes) : Nat := bits 63 48 d
def tSeq (d : Bytes) : Nat := bits 95 64 d
def tAlpha (d : Bytes) : BitVec 32 := BitVec.ofNat 32 (bits 127 96 d)
def tM (d : Bytes) : Nat := bits 159 128 d
def tN (d : Bytes) : Nat := bits 191 160 d
def tK (d : Bytes) : Nat := bits 223 192 d
def tA (d : Bytes) : Nat := bits 319 256 d
def tB (d : Bytes) : Nat := bits 383 320 d
def tC (d : Bytes) : Nat := bits 447 384 d
def tAs (d : Bytes) : Nat := bits 511 448 d
def tBs (d : Bytes) : Nat := bits 575 512 d
def tAstr (d : Bytes) : Nat := bits 607 576 d
def tBstr (d : Bytes) : Nat := bits 639 608 d
def tCstr (d : Bytes) : Nat := bits 671 640 d
def tAsstr (d : Bytes) : Nat := bits 703 672 d
def tBsstr (d : Bytes) : Nat := bits 735 704 d
def tG (d : Bytes) : Nat := bits 831 768 d
def tCmpl (d : Bytes) : Nat := bits 895 832 d

def ceilDiv (a b : Nat) : Nat := (a + b - 1) / max 1 b

/-- Bytes of a 256-element segment (R152). -/
def segBytes (fmt : Nat) : Nat := fmtBits fmt * 32

/-- Array modes (R147): 0 full, 1 double, 2 quarter. -/
def tMode (d : Bytes) : Nat :=
  if tAfmt d == 2 || tBfmt d == 2 then 2
  else if 7 ≤ tAfmt d && tAfmt d ≤ 9 && 7 ≤ tBfmt d && tBfmt d ≤ 9 then 1 else 0

/-- Strips of K, panels, and strips of C. -/
def tStrips (d : Bytes) : Nat := ceilDiv (tK d) 256
def tPanels (d : Bytes) : Nat := ceilDiv (tM d) (tTm d)
def tCols (d : Bytes) : Nat := ceilDiv (tN d) 256

/-- Rows of a panel, and columns of a strip of C that exist. -/
def panelRows (d : Bytes) (p : Nat) : Nat := min (tTm d) (tM d - p * tTm d)
def stripCols (d : Bytes) (n : Nat) : Nat := min 256 (tN d - n * 256)

/-- Formats of operands (R148). -/
def operandFmt (c : Nat) : Bool := 2 ≤ c && c ≤ 10

/-- Bytes of a panel of tm rows of K elements, with its scales (R151). -/
def panelBytes (d : Bytes) : Nat := tTm d * (tK d * fmtBits (tAfmt d) / 8 + (if fmtScaled (tAfmt d) then tK d / 32 else 0))

/-- Whether a strip stride is too small for its rows (R152). -/
def strideBad (rows seg stride : Nat) : Bool := stride < ceilDiv (rows * seg) 4096

/-- Validation of a tile job (R168): status and detail; gang permissions are bits 0 and 1 of 0x2090.01. -/
def tRefusal (d : Bytes) (perm : Nat) : Option (Status × Nat) :=
  let bad := fun n => some (Status.translationFault, n)
  let sa := fmtScaled (tAfmt d)
  let sb := fmtScaled (tBfmt d)
  let g := bits 12 8 d
  if tOp d != 1 then bad 1
  else if !operandFmt (tAfmt d) || !operandFmt (tBfmt d) || ((tAfmt d == 10) != (tBfmt d == 10)) ||
    !(1 ≤ tCfmt d && tCfmt d ≤ 4) then bad 3
  else if tM d == 0 || 1048576 < tM d || tN d == 0 || 1048576 < tN d || tK d < 32 || 1048576 < tK d || tK d % 32 != 0 ||
    tTm d < 16 || 4096 < tTm d || tTm d % 16 != 0 || panelBytes d > 5242880 ||
    (!tFed d && strideBad (tM d) (segBytes (tAfmt d)) (tAstr d)) || strideBad (tN d) (segBytes (tBfmt d)) (tBstr d) ||
    strideBad (tM d) (segBytes (tCfmt d)) (tCstr d) || (sa && !tFed d && strideBad (tM d) 8 (tAsstr d)) ||
    (sb && strideBad (tN d) 8 (tBsstr d)) then bad 4
  else if tA d % 4096 != 0 || tB d % 4096 != 0 || tC d % 4096 != 0 || tAs d % 4096 != 0 || tBs d % 4096 != 0 ||
    tG d % 64 != 0 || tCmpl d % 64 != 0 || (tFed d && (tA d != 0 || tAs d != 0)) ||
    (!sa && (tAs d != 0 || tAsstr d != 0)) || (!tFed d && sa && tAs d == 0) ||
    (!sb && (tBs d != 0 || tBsstr d != 0)) || (sb && tBs d == 0) then bad 6
  else if tFed d != (tG d != 0) then bad 7
  else if (9 ≤ g && g ≤ 15) || 16 < g || (2 ≤ g && g ≤ 8 && tSplit d == 0) || (2 ≤ g && !bitOf perm 0) ||
    (g == 16 && !bitOf perm 1) then some (.rightsFault, 8)
  else none

/-- Ranges of the output C (R152, R154): its strips. -/
def tOut (d : Bytes) : List (Nat × Nat) :=
  (List.range (tCols d)).map (fun n => (tC d + n * tCstr d * 4096, (tM d * segBytes (tCfmt d) + 4095) / 4096 * 4096))

/-- Ranges of the operands a tile job reads, without a gather's (R152, R153). -/
def tIn (d : Bytes) : List (Nat × Nat) :=
  let strips := fun (base stride bytes n : Nat) => (List.range n).map (fun k => (base + k * stride * 4096, bytes))
  (if tFed d then [] else strips (tA d) (tAstr d) (tM d * segBytes (tAfmt d)) (tStrips d) ++
    (if fmtScaled (tAfmt d) then strips (tAs d) (tAsstr d) (tM d * 8) (tStrips d) else [])) ++
  strips (tB d) (tBstr d) (tN d * segBytes (tBfmt d)) (tStrips d) ++
  (if fmtScaled (tBfmt d) then strips (tBs d) (tBsstr d) (tN d * 8) (tStrips d) else []) ++
  (if tAcc d then strips (tC d) (tCstr d) (tM d * segBytes (tCfmt d)) (tCols d) else [])

/-- Conditions of R165 on the gather of a gather-fed job: g its descriptor, dim that of its table. -/
def fedBad (d g : Bytes) (dim red dfmt op outs cmpl out : Nat) (fed : Bool) : Bool :=
  let _ := g
  op != 1 || !fed || cmpl != 0 || out != 0 || !(2 ≤ dfmt && dfmt ≤ 4) || dfmt != tAfmt d || outs != tM d || dim != tK d ||
  tTm d * tK d * (if red == 0 then fmtBits dfmt / 8 else 4) > 2097152

/-! ### The array (R149) -/

/-- Element j of a segment. -/
def segElem (fmt : Nat) (seg : Bytes) (j : Nat) : Nat × Nat :=
  let w := fmtBits fmt
  (fmt, bits (j * w + w - 1) (j * w) seg)

/-- A row of one 256-element strip: elements, each with the format of its code, and their block scales, up to the row's end
(R153, R154). -/
structure SegRow where
  elems : List (Nat × Nat)
  scales : List Nat
deriving DecidableEq, Repr

/-- A row from its elements: a block of elements of an unscaled format has scale 127 (R148). -/
def segRow (len : Nat) (elems : List (Nat × Nat)) (scales : Bytes) : SegRow :=
  { elems := elems,
    scales := (List.range (len / 32)).map (fun q => if fmtScaled (elems.getD (32 * q) (0, 0)).1 then (scales.getD q 0).toNat else 127) }

/-- The exact sum of the products of one 32-element block. -/
def dotExact (a b : List (Nat × Nat)) : Fp :=
  (List.zipWith (fun x y => (decodeElem x.1 x.2).mul (decodeElem y.1 y.2)) a b).foldl Fp.add (.fin false ⟨0, 0⟩)

/-- Accumulate the blocks of one strip, ascending in K (R149). -/
def accStrip (a b : SegRow) (acc : BitVec 32) : BitVec 32 :=
  (List.range a.scales.length).foldl (fun acc q =>
    let x := dotExact (slice' (32 * q) a.elems) (slice' (32 * q) b.elems)
    let sa := a.scales.getD q 127
    let sb := b.scales.getD q 127
    let y := (x.mul (decodeScale sa)).mul (decodeScale sb)
    fadd acc (y.toF32 (BitVec.ofNat 32 sa) (BitVec.ofNat 32 sb) acc)) acc
where
  /-- 32 elements from an index. -/
  slice' (i : Nat) (l : List (Nat × Nat)) : List (Nat × Nat) := (l.drop i).take 32

/-- Dequantised elements of a strip's row, as the checker sees them (R110, R217). -/
def segVals (r : SegRow) : List (BitVec 32) :=
  r.elems.mapIdx (fun j x => dequant x.1 x.2 (r.scales.getD (j / 32) 127) none)

def fsum (l : List (BitVec 32)) : BitVec 32 := l.foldl fadd 0

/-- Columns of a list of rows. -/
def columns (n : Nat) (rows : List (List (BitVec 32))) : List (List (BitVec 32)) :=
  (List.range n).map (fun k => rows.map (fun r => r.getD k 0))

/-- The checker's quantities of a unit from its dequantised rows of A and B over the tile's K range (R217). -/
def checkerOf (a b : List (List (BitVec 32))) : Chk :=
  let k := (a.headD []).length
  let ca := columns k a
  let cb := columns k b
  let sumA := ca.map fsum
  let sumAbsA := ca.map (fun c => fsum (c.map fabs))
  let sumB := cb.map fsum
  let sumAbsB := cb.map (fun c => fsum (c.map fabs))
  { cs := b.map (fun r => fsum (List.zipWith fmul sumA r)),
    cabs := b.map (fun r => fsum (List.zipWith fmul sumAbsA (r.map fabs))),
    rs := a.map (fun r => fsum (List.zipWith fmul r sumB)),
    rabs := a.map (fun r => fsum (List.zipWith fmul (r.map fabs) sumAbsB)),
    na := a.map (fun r => fsum (r.map (fun x => fmul x x))),
    nb := b.map (fun r => fsum (r.map (fun x => fmul x x))),
    nin := ((a ++ b).map (fun r => (r.filter (fun x => !(f32 x).isFin)).length)).foldl (· + ·) 0 }

/-- Test 2 of R218 for one element: |x| > (1 + 2^-10) √(na nb), skipped when the bound is not finite. -/
def magBad (x na nb : BitVec 32) : Bool :=
  if !(f32 x).isFin || !(f32 na).isFin || !(f32 nb).isFin then false
  else
    let v := (f32 x).val
    let c : Dy := ⟨1025, -10⟩
    Dy.lt ((c.mul c).mul ((f32 na).val.mul (f32 nb).val)) (v.mul v)

/-- Tests 3 and 4 of R218 for one sum: |sum − check| > t × terms × 2^-24 × abs + 2^-126. -/
def sumBad (sum check abs : BitVec 32) (t terms : Nat) : Bool :=
  match f32 sum, f32 check, f32 abs with
  | .fin _ x, .fin _ y, .fin _ z => Dy.lt ((Dy.mul ⟨(t * terms : Nat), -24⟩ z).add ⟨1, -126⟩) (x.sub y).abs
  | .fin _ _, .inf _, .fin _ _ => true
  | .inf _, .fin _ _, .fin _ _ => true
  | _, _, _ => false

/-- Whether a unit fails its check (R218): `full` with tests 1 and 2, which a reduced sum does not take again (R219). -/
def unitFails (q : Chk) (acc : List (List (BitVec 32))) (k t : Nat) (full : Bool) : Bool :=
  if q.nin > 0 then false
  else
    let h := acc.length
    let w := (acc.headD []).length
    (full && acc.any (fun r => r.any (fun x => !(f32 x).isFin))) ||
    (full && (acc.mapIdx (fun m r => (r.mapIdx (fun j x => magBad x (q.na.getD m 0) (q.nb.getD j 0))).any id)).any id) ||
    ((columns w acc).mapIdx (fun j c => sumBad (fsum c) (q.cs.getD j 0) (q.cabs.getD j 0) t (ceilDiv k 32 + h))).any id ||
    (acc.mapIdx (fun m r => sumBad (fsum r) (q.rs.getD m 0) (q.rabs.getD m 0) t (ceilDiv k 32 + 256))).any id

/-- Element-wise FP32 sum of two units, and of two checkers' vectors. -/
def addUnits (x y : List (List (BitVec 32))) : List (List (BitVec 32)) :=
  if x.isEmpty then y else if y.isEmpty then x else List.zipWith (List.zipWith fadd) x y

def addVec (x y : List (BitVec 32)) : List (BitVec 32) :=
  if x.isEmpty then y else if y.isEmpty then x else List.zipWith fadd x y

def addChk (x y : Chk) : Chk :=
  { cs := addVec x.cs y.cs, cabs := addVec x.cabs y.cabs, rs := addVec x.rs y.rs, rabs := addVec x.rabs y.rabs,
    na := addVec x.na y.na, nb := addVec x.nb y.nb, nin := x.nin + y.nin }

/-- Faults of the array: the accumulators of some elements changed. -/
def upsetUnit (acc : List (List (BitVec 32))) (u : List (Nat × Nat × BitVec 32)) : List (List (BitVec 32)) :=
  acc.mapIdx (fun m r => r.mapIdx (fun j x =>
    u.foldl (fun x f => if f.1 == m && f.2.1 == j then x ^^^ f.2.2 else x) x))

/-- Output bytes of a row of a unit, 256 columns (R154, R156): bytes, saturated, NaN or infinite. -/
def outRow (d : Bytes) (cols : Nat) (acc : List (BitVec 32)) (old : List (Nat × Nat)) : Bytes × Nat × Nat :=
  let w := fmtBits (tCfmt d) / 8
  (List.range 256).foldl (fun (o : Bytes × Nat × Nat) j =>
    if j < cols then
      let x := fmul (acc.getD j 0) (tAlpha d)
      let x := if tAcc d then fadd x (dequant (old.getD j (1, 0)).1 (old.getD j (1, 0)).2 127 none) else x
      let c := convF32 (tCfmt d) x none
      (o.1 ++ le w c.bits, o.2.1 + ofBool c.sat, o.2.2 + ofBool c.nonfin)
    else (o.1 ++ zeros w, o.2)) ([], 0, 0)

/-- Arithmetic cycles of a unit's passes over a K range of `len` elements (R159). -/
def unitCycles (d : Bytes) (rows cols len : Nat) : Nat :=
  let blocks := match tMode d with
    | 0 => ceilDiv len 256
    | 1 => ceilDiv len 512
    | _ => ceilDiv len 128 * ceilDiv cols 128
  blocks * max rows 64

/-- The completion record (R171). -/
def tRecord (w : Work) (now : Nat) : Bytes :=
  let st := if w.status = .ok && w.t.gdef > 0 then Status.okDefaultRow else w.status
  let cyc := match w.t.start with
    | some t => (w.lastWrite.getD now - t) * 3 / 4
    | none => 0
  fitTo 64 (le 1 st.code ++ le 1 w.fault ++ le 1 w.detail ++ le 1 w.t.used ++ le 4 (tSeq w.desc) ++ le 2 w.job ++ le 2 w.ctx ++
    le 4 w.t.written ++ le 4 w.t.remote ++ le 4 w.t.nonfinite ++ le 4 w.t.saturated ++ le 4 w.t.dropped ++ le 8 cyc ++
    le 4 w.t.gidx ++ le 4 w.t.gdef ++ le 4 w.t.gfall ++ le 4 w.t.gempty ++ le 4 w.t.resumed)

end Sys2Proof.Machine
end

