-- ==== Sys2Proof/Machine/Yealm.lean ====
section
/-! DEFINITION. Yealm engines (R108 to R138): rows, descriptors, gathers and their parts, scatters, prefetches, the row
stage, and completion records. -/

namespace Sys2Proof.Machine

/-! ### The descriptor (R119) -/

def yOp (d : Bytes) : Nat := bits 3 0 d
def yRed (d : Bytes) : Nat := bits 7 4 d
def yWide (d : Bytes) : Bool := bits 8 8 d == 1
def yFed (d : Bytes) : Bool := bits 9 9 d == 1
def yFmt (d : Bytes) : Nat := bits 31 24 d
def ySeq (d : Bytes) : Nat := bits 63 32 d
def yList (d : Bytes) : Nat := bits 127 64 d
def yCount (d : Bytes) : Nat := bits 159 128 d
def yBags (d : Bytes) : Nat := bits 191 160 d
def yOffs (d : Bytes) : Nat := bits 255 192 d
def yAux (d : Bytes) : Nat := bits 319 256 d
def yOut (d : Bytes) : Nat := bits 383 320 d
def yCmpl (d : Bytes) : Nat := bits 447 384 d
def yTicket (d : Bytes) : Nat := bits 479 448 d

/-- Bytes of an index. -/
def yIndexSize (d : Bytes) : Nat := if yWide d then 8 else 4

/-- Output positions of a gather: bags, or indices when red is none. -/
def yOuts (d : Bytes) : Nat := if yRed d == 0 then yCount d else yBags d

/-- Accumulator size A (R119). -/
def yAccSize (d : Bytes) (dim : Nat) : Nat :=
  if yRed d == 0 then yCount d * dim * (fmtBits (yFmt d) / 8) else yBags d * dim * 4

/-- Validation (R120), in the table's order: status, fault code and detail. `t` is the table while it is defined. DESIGN CHOICE
(log entry 126): no row of R120 refuses an aux field of an operation that has none, or an out field of one that writes none;
such a field is ignored. -/
def yRefusal (d : Bytes) (c : Nat) (t : Option Table) (inTile : Bool) : Option (Status × Nat × Nat) :=
  let op := yOp d
  let red := yRed d
  let bad := fun n => some (Status.translationFault, 0, n)
  if op < 1 || 4 < op then bad 1
  else if 4 < red || (red != 0 && op != 1) || (red == 3 && yAux d == 0) then bad 2
  else if (op == 1 && !(1 ≤ yFmt d && yFmt d ≤ 4)) || (op == 2 && !(yFmt d == 1 || yFmt d == 2)) ||
    ((op == 3 || op == 4) && yFmt d != 0) ||
    (op == 2 && (match t with
      | some t => !(t.fmt == 1 || t.fmt == 2)
      | none => false)) then bad 3
  else if yCount d == 0 || 1048576 < yCount d || (red == 0 && yBags d != 0) || (red != 0 && yBags d == 0) ||
    (op == 1 && !yFed d && yAccSize d ((t.map (·.dim)).getD 0) > 2097152) then bad 4
  else if yList d % yIndexSize d != 0 || yOffs d % 4 != 0 || yOut d % 4096 != 0 || yCmpl d % 64 != 0 ||
    (red == 0 && yOffs d != 0) || (op == 4 && yTicket d == 0) then bad 6
  else if (yFed d && (!inTile || op != 1)) then bad 7
  else match t with
    | none => some (.rightsFault, 0, 0x10)
    | some t =>
        if t.state != 1 then some (.rightsFault, 0, 0x10)
        else if t.ctx != c then some (.rightsFault, 0, 0x11)
        else if op == 2 && !bitOf t.flags 1 then some (.rightsFault, 0x12, 0x12)
        else if op == 3 && !bitOf t.flags 2 then some (.rightsFault, 0x11, 0x12)
        else none

/-! ### Rows (R110) -/

/-- The dequantised elements of a row. -/
def rowVals (t : Table) (b : Bytes) : List (BitVec 32) :=
  let w := fmtBits t.fmt
  let sb := if fmtScaled t.fmt then t.dim / 32 else 0
  (List.range t.dim).map (fun j =>
    let lo := sb * 8 + j * w
    dequant t.fmt (bits (lo + w - 1) lo b) (if fmtScaled t.fmt then (b.getD (j / 32) 0).toNat else 0) (some t.scale))

def vecOp (f : BitVec 32 → BitVec 32 → BitVec 32) (a b : List (BitVec 32)) : List (BitVec 32) := List.zipWith f a b

/-- A row as an operand of a reduction: weighted for a weighted sum (R123, R124). -/
def asOperand (red : Nat) (weight : BitVec 32) (x : List (BitVec 32)) : List (BitVec 32) :=
  if red == 3 then x.map (fmul weight) else x

/-- Two operands of a bag combined (R123, R124). -/
def combine2 (red : Nat) (a b : List (BitVec 32)) : List (BitVec 32) := if red == 4 then vecOp fmax a b else vecOp fadd a b

/-- Put an operand of n rows into a bag's accumulator (R124). DESIGN CHOICE (log entry 127): the first operand starts the
accumulator; a bag of rows that are all -0 sums to -0. -/
def addOperand (red bag n : Nat) (x : List (BitVec 32)) (acc : List (Nat × Nat × List (BitVec 32))) :
    List (Nat × Nat × List (BitVec 32)) :=
  match tget bag acc with
  | some (k, v) => tput bag (k + n, combine2 red v x) acc
  | none => acc ++ [(bag, n, x)]

/-- What an index is (R116). -/
inductive IndexKind where
  | missing | negative | outOfRange | row (i : Nat)
deriving DecidableEq, Repr

def indexKind (size rows v : Nat) : IndexKind :=
  if v == 256 ^ size - 1 then .missing
  else if v ≥ 256 ^ size / 2 then .negative
  else if v ≥ rows then .outOfRange
  else .row v

/-- Little-endian words of a byte string. -/
def words (w : Nat) (n : Nat) (b : Bytes) : List Nat := (List.range n).map (fun i => field (i * w) w b)

/-- FP32 of a natural number. -/
def natF32 (n : Nat) : BitVec 32 := (Fp.fin false ⟨n, 0⟩).toF32 0 0 0

/-- The bag of index position j, for offsets. -/
def bagOf (offs : List Nat) (j : Nat) : Nat := (offs.filter (fun o => o ≤ j)).length - 1

/-- Bag offsets that may be used (R120, BAGS). -/
def bagsOk (offs : List Nat) (count : Nat) : Bool :=
  offs.headD 1 == 0 && offs.getLastD 0 == count && (offs.zip (offs.drop 1)).all (fun p => decide (p.1 ≤ p.2))

/-- The output bytes of n bags of a gather from bag lo on (R124, R125): results, saturated elements, and empty bags. -/
def gatherOut (d : Bytes) (dim lo n : Nat) (lens : List Nat) (acc : List (Nat × Nat × List (BitVec 32))) : Bytes × Nat × Nat :=
  (List.range n).foldl (fun (o : Bytes × Nat × Nat) i =>
    let b := lo + i
    let len := lens.getD b 0
    let v := match tget b acc with
      | some (_, v) => if yRed d == 2 then v.map (fun x => fdiv x (natF32 len)) else v
      | none => List.replicate dim 0
    let c := v.map (fun x => convF32 (yFmt d) x none)
    (o.1 ++ (c.map (fun x => le (fmtBits (yFmt d) / 8) x.bits)).flatten, o.2.1 + (c.filter (·.sat)).length,
     o.2.2 + ofBool (yRed d != 0 && len == 0))) ([], 0, 0)

/-- Updates a scatter did not apply: all of them when it failed before it issued any (R132). -/
def yDropped (w : Work) : Nat :=
  if (yOp w.desc == 2 || yOp w.desc == 3) && !w.status.good && !w.y.split then yCount w.desc else w.y.dropped

/-- The status a descriptor would report now (R134). -/
def yStatus (w : Work) : Status :=
  if w.status = .ok && w.y.missing + w.y.negative + w.y.outRange + w.y.unreach > 0 then .okDefaultRow else w.status

/-- The completion record (R133). -/
def yRecord (w : Work) : Bytes :=
  let st := yStatus w
  fitTo 64 (le 1 st.code ++ le 1 w.fault ++ le 1 w.detail ++ le 1 0 ++ le 4 (ySeq w.desc) ++ le 2 w.job ++ le 2 w.ctx ++
    le 4 (if w.y.split then yCount w.desc else 0) ++ le 4 w.y.missing ++ le 4 w.y.negative ++ le 4 w.y.outRange ++ le 4 w.y.unreach ++
    le 4 w.y.fallback ++ le 4 w.y.staged ++ le 4 (yDropped w) ++ le 4 w.y.conflicts ++ le 4 w.y.empty ++
    le 4 w.y.saturated ++ le 4 w.y.prefetched)

namespace State

def tableOf (s : State) (t : Nat) : Option Table := tget t s.ylx.tables

/-! ### The row stage (R136 to R138) -/

/-- Whether a staged row is protected from eviction. -/
def protectedRow (r : Staged) : Bool := r.ticket != 0 && r.boundaries < 2

/-- Evict least recently used unprotected rows until n bytes fit in the pool of 32 MiB; none when they cannot. -/
def stageRoom (pool : List Staged) (n : Nat) : Nat → Option (List Staged)
  | 0 => none
  | k + 1 =>
      if (pool.foldl (fun m r => m + r.size) 0) + n ≤ 33554432 then some pool
      else match takeFirst (fun r => !protectedRow r) pool with
        | some (_, rest) => stageRoom rest n k
        | none => none

/-- Stage a row of this device's stacks; whether it is staged (R138). -/
def stageRow (s : State) (t row off size c j ticket eng : Nat) : Bool × State :=
  let h := offHalf off
  let pool := (s.half h).staged.filter (fun r => !(r.t == t && r.row == row))
  match stageRoom pool size (pool.length + 1) with
  | some pool => (true, s.modHalf h (fun x => { x with staged := pool ++ [⟨t, row, off, size, c, j, ticket, 0, eng⟩] }))
  | none => (false, s)

/-- A staged row of a half, moved to the most recently used place. -/
def stagedHit (s : State) (h : Half) (t row : Nat) : Option (Staged × State) :=
  match takeFirst (fun (r : Staged) => r.t == t && r.row == row) (s.half h).staged with
  | some (r, rest) => some (r, s.modHalf h (fun x => { x with staged := rest ++ [r] }))
  | none => none

/-! ### Placing rows (R116, R121) -/

/-- Whether a node cannot be reached for rows (R116). -/
def rowUnreachable (s : State) (n : Nat) : Bool :=
  !s.isSelf n && (s.wayTo n = .unreachable || s.isShelf n || (s.node n).health.expelled)

/-- The node that holds a row now. -/
def rowNode (s : State) (h : Half) (t : Table) (row : Nat) : Nat :=
  match s.locate h (rowGa t row) with
  | .near _ => s.nodeNum
  | .at' n | .moved n => n
  | .stale => gaNode (rowGa t row)

/-- A row takes part in a bag as the table's default row. -/
def defaultRow (s : State) (e : Engine) (t : Table) (x : PartEntry) : State :=
  s.modRun e (fun w => { w with y.acc := addOperand (yRed w.desc) x.bag 1 (asOperand (yRed w.desc) x.weight (rowVals t t.defaultRow)) w.y.acc })

/-- An unreachable row (R117). -/
def unreachableRow (s : State) (e : Engine) (t : Table) (x : PartEntry) : State :=
  ((s.defaultRow e t x).modRun e (fun w => { w with y.unreach := w.y.unreach + 1 })).count (engHalf e) 0x4050 5

/-- A row that arrived: into its bag. -/
def takeRow (s : State) (e : Engine) (t : Table) (i : Nat) (data : Bytes) : State :=
  s.modRun e (fun w =>
    match w.y.ents[i]? with
    | some x => { w with y.left := w.y.left.filter (· ≠ i),
                         y.acc := addOperand (yRed w.desc) x.bag 1 (asOperand (yRed w.desc) x.weight (rowVals t data)) w.y.acc }
    | none => w)

/-- Read row i of this engine's own list: from the row stage, or by requests of at most 256 bytes (R123, R136). -/
def askRow (s : State) (e : Engine) (t : Table) (i : Nat) (x : PartEntry) : State :=
  match s.runOf e with
  | none => s
  | some w =>
      let ga := rowGa t x.row
      let size := rowSize t
      let base := if yOp w.desc == 4 then stageKey else rowKey
      let staged : Option (Nat × State) := if yOp w.desc == 4 then none else match s.locate (engHalf e) ga with
        | .near off =>
            (match s.extentCheck t.ctx (s.homeGa ga) off with
            | none => if offHalf off = engHalf e && s.rdg.mode != 0 then (s.stagedHit (engHalf e) (yTable w.desc) x.row).map (fun (r : Staged × State) => (off, r.2)) else none
            | some _ => none)
        | _ => none
      match staged with
      | some (off, s) =>
          let s := (s.count (engHalf e) 0x4050 4).countRow (engHalf e) ga true
          (s.modRun e (fun w => { w with y.staged := w.y.staged + 1, y.chunks := w.y.chunks ++ [(rowKey + i * 16, s.loadBytes off size)] })).takeRow e t i
            (s.loadBytes off size)
      | none =>
          (List.range ((size + 255) / 256)).foldl (fun s c =>
            s.issue e .read (ga + 256 * c) (min 256 size) [] (base + i * 16 + c) false) s

/-- Read the rows that wait, in order, as far as the engine's outstanding line reads allow (R140). -/
def pumpRows (s : State) (e : Engine) (t : Table) : State :=
  match s.runOf e with
  | none => s
  | some w =>
      let lines := ((rowSize t + 255) / 256) * pieceLines (rowSize t)
      let n := (lineLimit .yealm - s.linesOut w) / lines
      (w.y.todo.take n).foldl (fun s i => match w.y.ents[i]? with
        | some x => s.askRow e t i x
        | none => s) (s.modRun e (fun w => { w with y.todo := w.y.todo.drop n }))

/-- Number rows for this engine to read itself, and read them. -/
def readRows (s : State) (e : Engine) (t : Table) (xs : List PartEntry) : State :=
  let base := match s.runOf e with
    | some w => w.y.ents.length
    | none => 0
  let ns := (List.range xs.length).map (· + base)
  (s.modRun e (fun w => { w with y.ents := w.y.ents ++ xs, y.left := w.y.left ++ ns, y.todo := w.y.todo ++ ns })).pumpRows e t

/-- A part request (R122): the descriptor with its addresses zeroed. -/
def partRequestOf (s : State) (e : Engine) (w : Work) (t : Table) (p : PartOut) : Part :=
  { src := s.nodeNum, sid := engSid e, tag := p.tag, ctx := w.ctx, job := w.job,
    desc := w.desc.take 8 ++ zeros 8 ++ slice 16 8 w.desc ++ zeros 32 ++ slice 56 8 w.desc,
    tableTag := t.tag, partNo := p.no, entries := p.entries }

/-- Send a part that has not left yet, if its node's window and route let it (R315, R320, R334); where no route leads its rows are
unreachable (R117, R138). -/
def pumpPart (s : State) (e : Engine) (t : Table) (p : PartOut) : State :=
  match s.runOf e with
  | none => s
  | some w =>
      let others := w.y.parts.filter (· ≠ p)
      if p.sent || !s.mayLeave (engHalf e) p.node then s
      else if s.wayTo p.node = .unreachable then
        let s := s.modRun e (fun w => { w with y.parts := others })
        if yOp w.desc == 4 then s.count (engHalf e) 0x4050 8 p.entries.length
        else p.entries.foldl (fun s x => s.unreachableRow e t x) s
      else
        let x := s.partRequestOf e w t p
        let s := (partSegments x).foldl (fun s g =>
          (s.route { dst := p.node, sid := engSid e, vc := 0, units := g.2.2.1, m := .part { x with entries := [] } g.1 g.2.1 g.2.2.2 }).2) s
        s.modRun e (fun w => { w with y.parts := w.y.parts.map (fun q => if q = p then { p with sent := true } else q) })

/-- Send the parts of a descriptor that may leave now. -/
def pumpParts (s : State) (e : Engine) (t : Table) : State :=
  match s.runOf e with
  | none => s
  | some w => w.y.parts.foldl (fun s p => s.pumpPart e t p) s

/-- Form a part for a node, and send it (R121, R122); `again` after a stale location (R144). -/
def sendPart (s : State) (e : Engine) (t : Table) (n : Nat) (xs : List PartEntry) (again : Bool := false) : State :=
  match s.runOf e with
  | none => s
  | some w =>
      let (tag, s) := s.newTag
      let no := w.y.parts.foldl (fun m p => max m (p.no + 1)) 0
      let p : PartOut := { no := no, node := n, tag := tag, entries := xs, again := again, sent := false }
      (s.modRun e (fun w => { w with y.parts := w.y.parts ++ [p] })).pumpPart e t p

/-- Form and send one part for each location of the given rows, and read this device's own (R121); a prefetch skips, and
counts, rows it can have staged nowhere (R138). -/
def placeRows (s : State) (e : Engine) (t : Table) (xs : List PartEntry) (again : Bool := false) : State :=
  match s.runOf e with
  | none => s
  | some w =>
      let h := engHalf e
      let at' := xs.map (fun x => (s.rowNode h t x.row, x))
      let lost := at'.filter (fun p => s.rowUnreachable p.1)
      let ok := at'.filter (fun p => !s.rowUnreachable p.1)
      let own := (ok.filter (fun p => s.isSelf p.1)).map (·.2)
      let away := ok.filter (fun p => !s.isSelf p.1)
      let nodes := away.foldl (fun l p => addOnce p.1 l) []
      let part := match w.sink with
        | .part _ _ _ _ => true
        | _ => false
      let remote := bitOf (s.ctx w.ctx).flags 0 && !part
      let send := fun (s : State) => nodes.foldl (fun s n => s.sendPart e t n ((away.filter (·.1 == n)).map (·.2)) again) s
      if yOp w.desc == 4 then
        let skipped : Nat := lost.length + if remote then 0 else away.length
        let s := if 0 < skipped then s.count h 0x4050 8 skipped else s
        let s := s.readRows e t own
        if remote then send s else s
      else
        let s := lost.foldl (fun s p => s.unreachableRow e t p.2) s
        let s := s.readRows e t own
        if remote then send s else s.readRows e t (away.map (·.2))

/-! ### Splitting a descriptor (R116 to R118, R121, R127) -/

/-- Count an invalid index under its reason. -/
def badIndex (s : State) (e : Engine) (k : IndexKind) : State :=
  s.modRun e (fun w => match k with
    | .missing => { w with y.missing := w.y.missing + 1 }
    | .negative => { w with y.negative := w.y.negative + 1 }
    | .outOfRange => { w with y.outRange := w.y.outRange + 1 }
    | .row _ => w)

/-- The indices of a running descriptor. -/
def indicesOf (w : Work) : List Nat := words (yIndexSize w.desc) (yCount w.desc) (gotBytes w (yList w.desc) (yCount w.desc * yIndexSize w.desc))

/-- The bag offsets of a running descriptor. -/
def offsetsOf (w : Work) : List Nat := if yRed w.desc == 0 then [] else words 4 (yBags w.desc + 1) (gotBytes w (yOffs w.desc) ((yBags w.desc + 1) * 4))

/-- Split a gather or prefetch (R121, R138). -/
def splitGather (s : State) (e : Engine) (w : Work) (t : Table) : State :=
  let red := yRed w.desc
  let offs := offsetsOf w
  let weights := if red == 3 then (gotElems w 1 (yAux w.desc) (yCount w.desc)).map (fun x => dequant x.1 x.2 127 none) else []
  let kinds := (indicesOf w).mapIdx (fun j v => (j, indexKind (yIndexSize w.desc) t.rows v))
  let entry := fun (j row : Nat) => (⟨row, if red == 0 then j else bagOf offs j,
    if red == 3 then weights.getD j 0 else 0x3F800000#32⟩ : PartEntry)
  let s := kinds.foldl (fun s k =>
    match k.2 with
    | .row _ => s
    | bad => if yOp w.desc == 4 then s else ((s.badIndex e bad).defaultRow e t (entry k.1 0)).count (engHalf e) 0x4050 5) s
  s.placeRows e t (kinds.filterMap (fun k => match k.2 with
    | .row i => some (entry k.1 i)
    | _ => none))

/-- The value of update j of a scatter-add as it is sent: what was read, converted where it came from a fallback copy (R127,
R204). -/
def updateValue (w : Work) (va dim vs : Nat) : Bytes :=
  if gotFell w va vs then
    ((gotElems w (yFmt w.desc) va dim).map (fun x => le (fmtBits (yFmt w.desc) / 8) (convF32 (yFmt w.desc) (dequant x.1 x.2 127 none) none).bits)).flatten
  else gotBytes w va vs

/-- Issue the updates of a scatter in list order (R118, R127). -/
def splitScatter (s : State) (e : Engine) (w : Work) (t : Table) : State :=
  let set := yOp w.desc == 3
  let vs := if set then rowSize t else t.dim * (fmtBits (yFmt w.desc) / 8)
  let n := if set then rowSize t else t.dim * (fmtBits t.fmt / 8)
  let h := engHalf e
  ((indicesOf w).mapIdx (fun j v => (j, indexKind (yIndexSize w.desc) t.rows v))).foldl (fun s k =>
    match k.2 with
    | .row row =>
        let node := s.rowNode h t row
        if s.rowUnreachable node then
          (s.note e .nodeUnreachable).modRun e (fun w => { w with y.unreach := w.y.unreach + 1, y.dropped := w.y.dropped + 1 })
        else if !set && !s.isSelf node && s.cfg h 0x20C0 1 == 0 then
          ((s.count h 0x40A0 2).note e .rightsFault 0x13).modRun e (fun w => { w with y.dropped := w.y.dropped + 1 })
        else
          let s := s.modRun e (fun w => { w with y.updates := w.y.updates ++ [k.1] })
          s.issue e (if set then .rowSet else .rowAdd) (rowGa t row) n
            (if set then gotBytes w (yAux w.desc + k.1 * vs) vs else updateValue w (yAux w.desc + k.1 * vs) t.dim vs)
            (updateKey + k.1) false (fun a =>
              { a with region := ySeq w.desc, version := k.1,
                       q := { a.q with agentTag := yTable w.desc, aop := yFmt w.desc, len := 6 + unitsOf vs } })
    | bad => s.badIndex e bad) s

/-- Key of the translation of a descriptor's cmpl (R120). -/
def cmplKey : Nat := pageKey + 2 ^ 50

/-- Read a descriptor's index list, offsets, weights or update rows, and translate its output pages (R120, R121). -/
def yealmStart (s : State) (e : Engine) (w : Work) (t : Table) : State :=
  let d := w.desc
  let op := yOp d
  let s := s.modRun e (fun w => { w with started := true })
  let s := s.askRange e (yList d) (yCount d * yIndexSize d)
  let s := if yRed d != 0 then s.askRange e (yOffs d) ((yBags d + 1) * 4) else s
  let s := if yRed d == 3 then s.askRange e (yAux d) (yCount d * 4) else s
  let s := if op == 2 then s.askRange e (yAux d) (yCount d * t.dim * (fmtBits (yFmt d) / 8)) else s
  let s := if op == 3 then s.askRange e (yAux d) (yCount d * rowSize t) else s
  let s := if op == 1 && !yFed d then s.askPages e (yOut d) (yOuts d * t.dim * (fmtBits (yFmt d) / 8)) else s
  if yCmpl d != 0 then s.issue e .write (yCmpl d) 0 [] (cmplKey) else s

/-- Check what was read, then split (R120, R204). -/
def yealmSplit (s : State) (e : Engine) (w : Work) (t : Table) : State :=
  let d := w.desc
  let op := yOp d
  let n := yCount d
  let s := s.modRun e (fun w => { w with y.split := true })
  let s := s.consume e (yList d) (n * yIndexSize d) (if yWide d then [0, 0x12] else [0, 0x11]) false
  let s := if yRed d != 0 then s.consume e (yOffs d) ((yBags d + 1) * 4) [0, 0x11] false else s
  let s := if yRed d == 3 then s.consume e (yAux d) (n * 4) [0, 1] false else s
  let s := if op == 2 then s.consume e (yAux d) (n * t.dim * (fmtBits (yFmt d) / 8)) [0, yFmt d] false else s
  let s := if op == 3 then s.consume e (yAux d) (n * rowSize t) [0, t.fmt] false else s
  match s.runOf e with
  | none => s
  | some w =>
      if !w.status.good then (if op == 2 || op == 3 then s.modRun e (fun w => { w with y.dropped := n }) else s)
      else if yRed d != 0 && !bagsOk (offsetsOf w) n then s.note e .translationFault 0 5
      else if op == 1 then s.splitGather e w t
      else if op == 4 then (if s.cfgBit (engHalf e) 0x2080 1 0 then s.splitGather e w t else s.count (engHalf e) 0x4050 8 n)
      else s.splitScatter e w t

/-! ### Ending (R125, R132 to R134) -/

/-- The answer of a part (R122, R123). -/
def partAnswerOf (s : State) (e : Engine) (w : Work) (t : Table) (tag no : Nat) : PartAnswer :=
  let red := yRed w.desc
  let raw := fun (bag : Nat) =>
    match (w.y.ents.mapIdx (fun i x => (i, x))).find? (fun p => p.2.bag == bag) with
    | some (i, _) =>
        let b := ((List.range 16).filterMap (fun c => tget (rowKey + i * 16 + c) w.y.chunks)).flatten
        if b.isEmpty then t.defaultRow else b
    | none => t.defaultRow
  let _ := e
  let es := w.y.acc.map (fun x =>
    if red == 0 || x.2.1 == 1 then (⟨x.1, 1, true, fitTo (rowSize t) (raw x.1)⟩ : Partial)
    else ⟨x.1, min x.2.1 127, false, (x.2.2.map (fun v => le 4 v.toNat)).flatten⟩)
  let st := List.replicate w.y.prefetched (⟨0, 1, true, []⟩ : Partial)
  { src := s.nodeNum, tag := tag, partNo := no, status := w.status.code, loc := w.y.loc,
    detail := w.detail, entries := if yOp w.desc == 4 then st else if w.status.good then es else [] }

/-- A gather with a ticket frees the rows its prefetch staged (R138). -/
def releaseTicket (s : State) (w : Work) : State :=
  if yOp w.desc == 1 && yTicket w.desc != 0 then
    s.modBoth (fun x => { x with staged := x.staged.map (fun (r : Staged) =>
      if r.ctx == w.ctx && r.job == w.job && r.ticket == yTicket w.desc then { r with ticket := 0 } else r) })
  else s

/-- A freed table's record goes with its last running descriptor, and what this device kept of its blocks (R114). -/
def sweepTables (s : State) : State :=
  let busy := fun (t : Nat) => s.eng.yealms.any (fun y => (y.2.queue ++ y.2.run.toList).any (fun w => yTable w.desc == t))
  let gone := (s.ylx.tables.filter (fun t => t.2.state == 2 && !busy t.1)).map (·.1)
  if gone.isEmpty then s
  else
    let keep := fun (t : Nat) => !gone.contains t
    { s with ylx.tables := s.ylx.tables.filter (fun t => keep t.1), ylx.overs := s.ylx.overs.filter (fun o => keep o.1.1),
             ylx.forwards := s.ylx.forwards.filter (fun f => keep f.1.1), ylx.loads := s.ylx.loads.filter (fun l => keep l.1.1),
             ylx.stamps := s.ylx.stamps.filter (fun x => keep x.1.1) }.modBoth
      (fun x => { x with staged := x.staged.filter (fun r => keep r.t) })

/-- Count a completed descriptor (R146). -/
def yealmCount (s : State) (h : Half) (w : Work) : State :=
  let op := yOp w.desc
  if op == 1 then s.count h 0x4050 1 else if op == 2 || op == 3 then s.count h 0x4050 2 else s

/-- Everything is done: the record goes out (R133). -/
def yealmFinish (s : State) (e : Engine) (w : Work) : State :=
  (((((s.yealmCount (engHalf e) w).releaseTicket w).sendCompletion w .yealm (yRecord w)).retire e).sweepTables)

/-- The completion record is written at cmpl, then everything is done (R133). -/
def yealmClose (s : State) (e : Engine) (w : Work) : State :=
  if yCmpl w.desc != 0 && !w.recorded then
    ((s.modRun e (fun w => { w with recorded := true })).putRecord e (yCmpl w.desc) (yRecord w)).push (.wake e)
  else s.yealmFinish e w

/-- Indices of each output position of a gather (R119). -/
def bagLens (w : Work) : List Nat :=
  let offs := offsetsOf w
  if yRed w.desc == 0 then List.replicate (yCount w.desc) 1 else (offs.zip (offs.drop 1)).map (fun p => p.2 - p.1)

/-- Write the output of a gather (R125). -/
def gatherWrite (s : State) (e : Engine) (w : Work) (t : Table) : State :=
  let (out, sat, empty) := gatherOut w.desc t.dim 0 (yOuts w.desc) (bagLens w) w.y.acc
  let s := s.modRun e (fun w => { w with writing := true, y.saturated := sat, y.empty := empty })
  (List.range ((out.length + 4095) / 4096)).foldl (fun s i =>
    s.putBlock e (yOut w.desc + i * 4096) (slice (i * 4096) 4096 out) (yFmt w.desc)) s

/-- Whether every row of the bags from lo to hi - 1 has arrived (R166). -/
def bagsWhole (w : Work) (lo hi : Nat) : Bool :=
  let mine := fun (x : PartEntry) => lo ≤ x.bag && x.bag < hi
  w.y.left.all (fun i => match w.y.ents[i]? with
    | some x => !mine x
    | none => true) && w.y.parts.all (fun p => !p.entries.any mine)

/-- Hand the panels that are whole over to the tile, in order (R126, R166). -/
def panelsGo (s : State) (e : Engine) (t : Table) (tile : Nat) : State :=
  match s.runOf ⟨.tile, tile⟩ with
  | none => s
  | some v =>
      (List.range (tPanels v.desc)).foldl (fun s p =>
        match s.runOf e with
        | some w =>
            let lo := p * tTm v.desc
            let n := panelRows v.desc p
            if w.status.good && w.y.split && w.y.panels == p && bagsWhole w lo (lo + n) then
              let (out, _, empty) := gatherOut w.desc t.dim lo n (bagLens w) w.y.acc
              ((s.modRun e (fun w => { w with y.panels := p + 1, y.empty := w.y.empty + empty })).modRun ⟨.tile, tile⟩
                (fun v => { v with t.fedOut := v.t.fedOut ++ [(p, out)] })).push (.wake ⟨.tile, tile⟩)
            else s
        | none => s) s

/-- A gather-fed gather ends: its counts and its status go to the tile job (R165, R167). -/
def fedEnd (s : State) (e : Engine) (w : Work) (tile : Nat) : State :=
  let x := w.y
  let s := s.modRun ⟨.tile, tile⟩ (fun v => { v with
    t.gidx := v.t.gidx + (if x.split then yCount w.desc else 0),
    t.gdef := v.t.gdef + x.missing + x.negative + x.outRange + x.unreach,
    t.gfall := v.t.gfall + x.fallback, t.gempty := v.t.gempty + x.empty })
  let s := if w.status = .ok then s else s.note ⟨.tile, tile⟩ w.status w.fault w.detail
  ((((s.yealmCount (engHalf e) w).releaseTicket w).push (.wake ⟨.tile, tile⟩)).retire e).sweepTables

/-- Whether a descriptor has something outstanding or still to ask for. -/
def yealmWaits (w : Work) : Bool := !w.await.isEmpty || !w.want.isEmpty || !w.y.todo.isEmpty || !w.y.parts.isEmpty

/-- The descriptor of a yealm engine goes on when nothing of it is outstanding. -/
def yealmGo (s : State) (e : Engine) (w : Work) (t : Table) : State :=
  if w.recorded then s.yealmFinish e w
  else if w.status.good && !w.started then
    (match w.sink with
    | .part _ _ _ _ => ((s.modRun e (fun w => { w with started := true, y.split := true })).placeRows e t w.entries).push (.wake e)
    | _ => (s.yealmStart e w t).push (.wake e))
  else if w.status.good && !w.y.split then (s.yealmSplit e w t).push (.wake e)
  else match w.sink with
    | .part node sid tag no =>
        ((s.releaseTicket w).sendAnswer node sid (s.partAnswerOf e w t tag no)).retire e
    | .panel tile _ => s.fedEnd e w tile
    | .host | .member _ | .gang _ =>
        if w.status.good && yOp w.desc == 1 && !w.writing then (s.gatherWrite e w t).push (.wake e) else s.yealmClose e w

/-- Take a yealm engine's running descriptor as far as it can go. -/
def yealmStep (s : State) (e : Engine) : State :=
  let s := (s.nextWork e).noteEnded e
  let s := if ((s.runOf e).map (·.status.good)).getD true then s else s.askNoMore e
  match s.runOf e with
  | none => s
  | some w =>
      match s.tableOf (yTable w.desc) with
      | none => if yealmWaits w then s
          else if w.recorded then s.yealmFinish e w
          else let s := s.note e .rightsFault 0 0x10
               s.yealmClose e ((s.runOf e).getD w)
      | some t =>
          let s := ((s.pump e).pumpRows e t).pumpParts e t
          let s := match w.sink with
            | .panel tile _ => s.panelsGo e t tile
            | _ => s
          match s.runOf e with
          | some w => if yealmWaits w then s else s.yealmGo e w t
          | none => s

/-! ### Answers -/

/-- The pieces of row i that are here, in order; none while one is missing. -/
def rowWhole (w : Work) (t : Table) (base i : Nat) : Option Bytes :=
  let cs := (List.range ((rowSize t + 255) / 256)).map (fun c => tget (base + i * 16 + c) w.y.chunks)
  if cs.all (·.isSome) then some (cs.filterMap id).flatten else none

/-- A row that a prefetch has read whole is staged; one that finds the pool full of protected rows is skipped (R138). -/
def stageRead (s : State) (e : Engine) (w : Work) (t : Table) (x : PartEntry) : State :=
  let h := engHalf e
  match s.locate h (rowGa t x.row) with
  | .near off =>
      let (ok, s) := s.stageRow (yTable w.desc) x.row off (rowSize t) w.ctx w.job (yTicket w.desc) e.idx
      if ok then s.modRun e (fun w => { w with y.prefetched := w.y.prefetched + 1 }) else s.count (offHalf off) 0x4050 8
  | _ => s.count h 0x4050 8

/-- A piece of a row has arrived, or cannot be had (R117, R134, R138). -/
def rowPiece (s : State) (e : Engine) (key : Nat) (r : Reply) : State :=
  match s.runOf e with
  | none => s
  | some w =>
      let stage := key < rowKey
      let base := if stage then stageKey else rowKey
      let i := (key - base) / 16
      match s.tableOf (yTable w.desc), w.y.ents[i]? with
      | some t, some x =>
          let drop := fun (s : State) => s.modRun e (fun w => { w with y.left := w.y.left.filter (· ≠ i) })
          if !w.y.left.contains i then s
          else if stage && (r.status == .tierFallback || r.status == .nodeUnreachable) then (drop s).count (engHalf e) 0x4050 8
          else if r.status == .tierFallback then
            (((drop s).modRun e (fun w => { w with y.fallback := w.y.fallback + 1 })).note e .tierFallback).defaultRow e t x
          else if r.status == .nodeUnreachable then (drop s).unreachableRow e t x
          else if !r.status.good then (drop s).note e r.status r.fault
          else if r.tg != 0 && r.tg != t.fmt then (drop s).consumed e .checkMismatch
          else
            let s := s.modRun e (fun w => { w with y.chunks := w.y.chunks ++ [(key, r.data)] })
            let w := (s.runOf e).getD w
            match rowWhole w t base i with
            | none => s
            | some b => if stage then (drop s).stageRead e w t x else s.takeRow e t i b
      | _, _ => s

/-- An answer to a request of a yealm engine. -/
def yealmDeliver (s : State) (e : Engine) (key : Nat) (r : Reply) : State :=
  let s := s.arrived e key
  let s :=
    if updateKey ≤ key then
      let s := s.modRun e (fun w => { w with y.updates := w.y.updates.filter (· ≠ key - updateKey) })
      if r.status.good then (if r.version == some 1 then s.modRun e (fun w => { w with y.conflicts := w.y.conflicts + 1 }) else s)
      else (s.note e r.status r.fault).modRun e (fun w => { w with y.dropped := w.y.dropped + 1 })
    else if stageKey ≤ key then s.rowPiece e key r
    else if recordKey ≤ key then s
    else if putKey ≤ key then
      (if r.status.good then s else (s.note e r.status r.fault).modRun e (fun w => { w with y.dropped := w.y.dropped + 1 }))
    else if pageKey ≤ key then
      (if r.status.good then s
       else (s.note e r.status r.fault).modRun e (fun w => { w with recorded := w.recorded || key == cmplKey }))
    else s.takeBlock e key r false
  s.push (.wake e)

/-! ### Parts (R121 to R124, R144) -/

/-- Bytes of rows by location, for R97. -/
def rowLocs (s : State) (h : Half) (t : Table) (rows : List Nat) : List (Nat × Nat × Nat) :=
  rows.filterMap (fun r => match s.locate h (rowGa t r) with
    | .near off => some (s.nodeNum, off, rowSize t)
    | _ => none)

/-- A part request arrives (R47, R48, R120, R121, R123, R144). DESIGN CHOICE (log entry 129): a part that names a row the table
here does not have is refused as one without its table; the answer carries the detail code of a refusal. -/
def partArrive (s : State) (x : Part) : State :=
  let s := (partSegments x).foldl (fun s g => s.countArrival x.via 0 g.2.2.1) s
  let refuse := fun (s : State) (st : Status) (detail : Nat) (loc : Option Nat) =>
    s.sendAnswer x.src x.sid { src := s.nodeNum, tag := x.tag, partNo := x.partNo, status := st.code, loc := loc,
                               sv := st = .retry, stall := if st = .retry then (if loc.isSome then 4 else 1) else 0, detail := detail, entries := [] }
  let t := yTable x.desc
  let (pass, s) := s.chargeBucket x.via x.src x.ctx x.job (((partSegments x).map (fun g => g.2.2.1)).foldl (· + ·) 0 * 8)
  if !pass || s.phase < 0xA then refuse s .retry 0 none
  else if s.jobEnded x.ctx x.job then refuse s .jobEnded 0 none
  else match s.stage1 { via := x.via, ctx := x.ctx, job := x.job, tag := x.tag, src := x.src, sid := x.sid, addr := 0 }, s.tableOf t with
    | some (st, _), _ => refuse s st 0 none
    | none, none => refuse s .rightsFault 0x10 none
    | none, some tb =>
        if tb.state != 1 then refuse s .rightsFault 0x10 none
        else if tb.ctx != x.ctx then refuse s .rightsFault 0x11 none
        else if tb.tag != x.tableTag then refuse s .rightsFault 0x13 none
        else if x.entries.any (fun p => tb.rows ≤ p.row) then refuse s .rightsFault 0x10 none
        else
          let locs := x.entries.map (fun p => s.locateHere (rowGa tb p.row))
          match locs.findSome? (fun l => match l with
            | .moved n => some (some n)
            | .stale => some none
            | _ => none) with
          | some loc => refuse s .retry 0 loc
          | none =>
              let moved := locs.findSome? (fun l => match l with
                | .at' n => some n
                | _ => none)
              let one := x.entries.all (fun p => (rowBlock tb p.row).1 == (rowBlock tb (x.entries.headD ⟨0, 0, 0⟩).row).1)
              let w : Work := { desc := x.desc, ctx := x.ctx, job := x.job, tag := x.tag, issuer := .node x.src x.sid,
                                sink := .part x.src x.sid x.tag x.partNo, entries := x.entries,
                                y := { loc := if one then moved else none } }
              match s.chooseEngine .yealm (s.rowLocs (viaHalf x.via) tb (x.entries.map (·.row))) (fun _ => true) with
              | some e => s.enqueue e w
              | none => refuse s .retry 0 none

/-- The rows of an answered part go where they belong (R117, R124, R134, R138, R144). -/
def takePart (s : State) (e : Engine) (w : Work) (t : Table) (p : PartOut) (x : PartAnswer) : State :=
  let st := Status.ofCode x.status
  let ents := p.entries
  let s := match x.loc with
    | some n => ents.foldl (fun (s : State) q => s.learnOver (rowGa t q.row) (some n)) s
    | none => s
  if st == .retry then
    -- a former location says where the rows are, or nothing when it is not their origin; any other node says come again
    let stale := x.loc.isSome || ents.any (fun q => !(gaNode (rowGa t q.row) == p.node))
    let s := if stale && x.loc.isNone then ents.foldl (fun (s : State) q => s.learnOver (rowGa t q.row) none) s else s
    (if stale && !p.again then s.count (engHalf e) 0x4050 0xD else s).placeRows e t ents (p.again || stale)
  else if st == .nodeUnreachable then
    (if yOp w.desc == 4 then s.count (engHalf e) 0x4050 8 ents.length else ents.foldl (fun s q => s.unreachableRow e t q) s)
  else if !st.good then
    let s := s.note e st 0 x.detail
    if st.consumes then s.push (.endJob w.ctx w.job (reasonOf st) (some [w.issuer])) else s
  else if yOp w.desc == 4 then s.modRun e (fun w => { w with y.prefetched := w.y.prefetched + x.entries.length })
  else
    let s := if st == .tierFallback then s.note e st else s
    x.entries.foldl (fun s q =>
      let weight := ((ents.find? (·.bag == q.bag)).map (·.weight)).getD 0x3F800000#32
      let v := if q.raw then asOperand (yRed w.desc) weight (rowVals t q.data)
               else (words 4 t.dim q.data).map (BitVec.ofNat 32)
      s.modRun e (fun w => { w with y.acc := addOperand (yRed w.desc) q.bag q.n v w.y.acc })) s

/-- The answer of a part is taken by its engine. -/
def partTaken (s : State) (x : PartAnswer) : State :=
  match s.eng.yealms.findSome? (fun g => g.2.run.bind (fun w =>
      (w.y.parts.find? (fun p => p.no == x.partNo && p.tag == x.tag)).map (fun p => (g.1, w, p)))) with
  | none => s
  | some (i, w, p) =>
      let e : Engine := ⟨.yealm, i⟩
      let s := (s.modRun e (fun w => { w with y.parts := w.y.parts.filter (· ≠ p) })).relaunch
      match s.tableOf (yTable w.desc) with
      | none => s.push (.wake e)
      | some t => (s.takePart e w t p x).push (.wake e)

/-- A part answer arrives at the coordinating engine (R124). -/
def partAnswered (s : State) (x : PartAnswer) : State :=
  let s := (answerSegments x).foldl (fun s g => s.countArrival x.via 1 g.2.2.1) s
  (s.noteResponse { src := x.src, sid := 0, tag := x.tag, status := x.status, sv := x.sv, stall := x.stall, ld := x.ld }).partTaken x

/-- No answer comes any more to the parts sent to a node: their rows are unreachable (R116, R117). -/
def partsLost (s : State) (n : Nat) : State :=
  let lost := (s.eng.yealms.map (fun g => match g.2.run with
    | some w => w.y.parts.filter (fun p => p.node == n)
    | none => [])).flatten
  lost.foldl (fun s p => s.partTaken { src := n, tag := p.tag, partNo := p.no, status := Status.nodeUnreachable.code, entries := [] }) s

/-- Rows of a descriptor's index list that its table has (R97, R121). -/
def listRows (w : Work) (t : Table) : List Nat :=
  (indicesOf w).filterMap (fun v => match indexKind (yIndexSize w.desc) t.rows v with
    | .row i => some i
    | _ => none)

end State
end Sys2Proof.Machine
end

