-- ==== Sys2Proof/Machine/Tile.lean ====
section
/-! DEFINITION. Truss tiles (R151 to R173, R217 to R221): jobs, gangs, gather-fed panels, verdicts, recomputation, and
the moving of jobs. -/

namespace Sys2Proof.Machine.State

def tileEng (i : Nat) : Engine := ⟨.tile, i⟩

/-! ### Operands of a unit -/

/-- Length of strip k's part of a row below K (R154). -/
def stripLen (d : Bytes) (k : Nat) : Nat := min 256 (tK d - k * 256)

/-- Elements of K a tile computes. -/
def kLen (d : Bytes) (ks : List Nat) : Nat := ks.foldl (fun n k => n + stripLen d k) 0

/-- Ranges of VA of panel p of A and its scales, with the tags their consumer accepts (R152, R153, R204). -/
def panelRanges (w : Work) (p : Nat) : List (Nat × Nat × List Nat) :=
  let d := w.desc
  let h := panelRows d p
  let g := segBytes (tAfmt d)
  if tFed d then []
  else (w.t.ks.map (fun k =>
    (tA d + k * tAstr d * 4096 + p * tTm d * g, h * g, [0, tAfmt d]) ::
      (if fmtScaled (tAfmt d) then [(tAs d + k * tAsstr d * 4096 + p * tTm d * 8, h * 8, [0, 0x10])] else []))).flatten

/-- Ranges of strip n of B and its scales. -/
def weightRanges (w : Work) (n : Nat) : List (Nat × Nat × List Nat) :=
  let d := w.desc
  let c := stripCols d n
  let g := segBytes (tBfmt d)
  (w.t.ks.map (fun k =>
    (tB d + k * tBstr d * 4096 + n * 256 * g, c * g, [0, tBfmt d]) ::
      (if fmtScaled (tBfmt d) then [(tBs d + k * tBsstr d * 4096 + n * 256 * 8, c * 8, [0, 0x10])] else []))).flatten

/-- Ranges of A and B whose products this tile computes for a unit. -/
def operandRanges (w : Work) (p n : Nat) : List (Nat × Nat × List Nat) :=
  if w.t.share.contains (p, n) then panelRanges w p ++ weightRanges w n else []

/-- The range of C a unit is written to, by its rows. -/
def outRange (w : Work) (p n : Nat) : Nat × Nat :=
  let g := segBytes (tCfmt w.desc)
  (tC w.desc + n * tCstr w.desc * 4096 + p * tTm w.desc * g, panelRows w.desc p * g)

/-- Whether this tile writes the units it finishes: not a member that sends its partials on. -/
def writes (w : Work) : Bool := w.t.top || !w.t.reduce

/-- Ranges of VA a unit needs. -/
def unitRanges (w : Work) (p n : Nat) : List (Nat × Nat × List Nat) :=
  operandRanges w p n ++ (if tAcc w.desc && writes w then [((outRange w p n).1, (outRange w p n).2, [0, tCfmt w.desc])] else [])

/-- Row r of panel p in strip k of A: from memory, or from the gather-fed slot (R165). -/
def aRow (w : Work) (p r k : Nat) : SegRow :=
  let d := w.desc
  let g := segBytes (tAfmt d)
  let len := stripLen d k
  if tFed d then
    let eb := fmtBits (tAfmt d) / 8
    let seg := slice ((r * tK d + k * 256) * eb) (len * eb) ((tget p w.t.slots).getD [])
    segRow len ((List.range len).map (segElem (tAfmt d) seg)) []
  else segRow len (gotElems w (tAfmt d) (tA d + k * tAstr d * 4096 + (p * tTm d + r) * g) len)
    (gotBytes w (tAs d + k * tAsstr d * 4096 + (p * tTm d + r) * 8) 8)

def bRow (w : Work) (n j k : Nat) : SegRow :=
  let d := w.desc
  let g := segBytes (tBfmt d)
  segRow (stripLen d k) (gotElems w (tBfmt d) (tB d + k * tBstr d * 4096 + (n * 256 + j) * g) (stripLen d k))
    (gotBytes w (tBs d + k * tBsstr d * 4096 + (n * 256 + j) * 8) 8)

/-- The accumulators and checker quantities of this tile's part of a unit from its operands (R149, R158, R217). -/
def computeUnit (w : Work) (p n : Nat) : List (List (BitVec 32)) × Chk :=
  if !w.t.share.contains (p, n) then ([], {})
  else
    let d := w.desc
    let as := (List.range (panelRows d p)).map (fun r => w.t.ks.map (aRow w p r))
    let bs := (List.range (stripCols d n)).map (fun j => w.t.ks.map (bRow w n j))
    (as.map (fun a => bs.map (fun b => (a.zip b).foldl (fun acc x => accStrip x.1 x.2 acc) 0)),
     checkerOf (as.map (fun a => (a.map segVals).flatten)) (bs.map (fun b => (b.map segVals).flatten)))

/-! ### Writing a unit (R154, R156, R220) -/

/-- The output blocks of a unit: VA and data, with the counts of saturated and non-finite elements. -/
def unitBlocks (w : Work) (u : OutUnit) (acc : List (List (BitVec 32))) : List (Nat × Bytes) × Nat × Nat :=
  let d := w.desc
  let g := segBytes (tCfmt d)
  let base := (outRange w u.p u.n).1
  let rows := acc.mapIdx (fun r x => outRow d (stripCols d u.n) x (gotElems w (tCfmt d) (base + r * g) 256))
  let all := (rows.map (·.1)).flatten
  let n := (all.length + 4095) / 4096
  ((List.range n).map (fun i => (base + i * 4096, slice (i * 4096) 4096 all)),
   (rows.map (·.2.1)).foldl (· + ·) 0, (rows.map (·.2.2)).foldl (· + ·) 0)

/-- Whether a VA's block is on another node (R220): its page has been translated before the unit is formed. -/
def blockAway (s : State) (e : Engine) (c va : Nat) : Bool :=
  match s.translateNow (engHalf e) c va with
  | none => false
  | some ga => (match s.locate (engHalf e) ga with
      | .near _ => false
      | _ => true)

/-- Whether the tiles' checks are on (R232). -/
def checksOn (s : State) (e : Engine) : Bool := s.cfgBit (engHalf e) 0x20A0 1 1

/-- Change the pending count of a job's group (R224). -/
def addPending (s : State) (c j : Nat) (up : Bool) : State :=
  s.modGroup c j (fun g => { g with pending := if up then g.pending + 1 else g.pending - 1 })

/-- Close the job's group if nothing holds it open any more (R227). -/
def checkJobGroup (s : State) (c j : Nat) : State :=
  match s.openGroupOf c j with
  | some (i, _) => s.checkGroup i
  | none => s

/-- Drain the blocks of a unit whose destination is another node, unconfirmed, before the verdict (R220, R225). A job
that cannot open its group keeps its blocks until the verdict. -/
def drainUnit (s : State) (e : Engine) (u : OutUnit) : State :=
  match s.runOf e with
  | none => s
  | some w =>
      let (bs, _, _) := unitBlocks w u u.acc
      let away := bs.filter (fun b => s.blockAway e w.ctx b.1)
      if away.isEmpty || !s.checksOn e then s
      else match s.openGroup w.ctx w.job with
        | none => s.count s.holder 0x4080 0x10
        | some s =>
            let s := if w.t.owed.contains (u.p, u.n) then s else s.addPending w.ctx w.job true
            let s := s.modRun e (fun w => { w with t.unit := some { u with drained := away.length, pends := true },
                                                   t.owed := w.t.owed.filter (· ≠ (u.p, u.n)),
                                                   t.remote := w.t.remote + away.length })
            away.foldl (fun s b => s.putBlock e b.1 b.2 (tCfmt w.desc)) s

/-- The next two panels of a tile's units, which its two slots hold (R151, R158). -/
def slotPanels (w : Work) : List Nat := (w.t.units.foldl (fun l u => addOnce u.1 l) []).take 2

/-- Whether a block lies in some ranges. -/
def inRangesOf (rs : List (Nat × Nat × List Nat)) (b : Nat) : Bool :=
  rs.any (fun r => r.1 < b * 4096 + 4096 && b * 4096 < r.1 + r.2.1)

/-- Take the next unit, and keep only the blocks of the panels in the slots: a panel is read once (R151, R158). -/
def nextUnit (w : Work) : Work :=
  let w := { w with t.unit := none, t.units := w.t.units.drop 1 }
  let keep := ((slotPanels w).map (panelRanges w)).flatten
  { w with got := w.got.filter (fun b => inRangesOf keep b.1), want := w.want.filter (inRangesOf keep) }

/-- The unit's verdict is final: the blocks still held are written, and the next unit is taken (R156, R220). Where the whole
unit goes under a group that is to be retracted, every block is written again and the group stays open (R221). -/
def acceptUnit (s : State) (e : Engine) (u : OutUnit) (acc : List (List (BitVec 32))) (again : Bool := false) : State :=
  match s.runOf e with
  | none => s
  | some w =>
      let (bs, sat, nonfin) := unitBlocks w u acc
      let held := bs.filter (fun b => again || u.drained == 0 || !s.blockAway e w.ctx b.1)
      let far := held.filter (fun b => s.blockAway e w.ctx b.1)
      let owed := u.pends || w.t.owed.contains (u.p, u.n)
      let s := if owed && !again then s.addPending w.ctx w.job false else s
      let s := held.foldl (fun s b => s.putBlock e b.1 b.2 (tCfmt w.desc)) s
      let s := s.modRun e (fun w =>
        let v := nextUnit w
        { v with t.owed := v.t.owed.filter (· ≠ (u.p, u.n)), t.written := v.t.written + 1, t.remote := v.t.remote + far.length,
                 t.saturated := v.t.saturated + sat, t.nonfinite := v.t.nonfinite + nonfin })
      let s := s.count (engHalf e) 0x4060 6 sat
      (if again then s else s.checkJobGroup w.ctx w.job).push (.wake e)

/-- Members of a gang that report to a tile and compute a unit. -/
def reporters (s : State) (i : Nat) (x : Nat × Nat) : Nat :=
  (s.eng.tiles.filter (fun t => match t.2.run with
    | some w => t.1 != i && w.t.reduce && w.t.leader == i && (w.t.share.contains x || w.t.units.contains x)
    | none => false)).length

/-- The operands of the next unit are all here: compute it (R158). -/
def formUnit (s : State) (e : Engine) (p n : Nat) : State :=
  let s := (((s.runOf e).map (fun w => unitRanges w p n)).getD []).foldl (fun (s : State) (r : Nat × Nat × List Nat) => s.consume e r.1 r.2.1 r.2.2) s
  match s.runOf e with
  | none => s
  | some w =>
      if !w.status.good then s.push (.wake e)
      else
        let mine := w.t.share.contains (p, n)
        let (acc, chk) := computeUnit w p n
        let k := if w.t.reduce then s.reporters e.idx (p, n) else 0
        let u : OutUnit := { p := p, n := n, rows := panelRows w.desc p, acc := acc, chk := chk, waiting := k, sums := 0 < k,
                             checked := !mine || !s.checksOn e }
        let s := s.count (engHalf e) 0x4060 4 (if mine then unitCycles w.desc u.rows (stripCols w.desc n) (kLen w.desc w.t.ks) else 0)
        let s := s.modRun e (fun w => { w with t.unit := some u, t.start := some (w.t.start.getD s.now) })
        -- the panel after this one goes into the other slot meanwhile (R158)
        let s := (((slotPanels w).drop 1).map (panelRanges w)).flatten.foldl (fun (s : State) (r : Nat × Nat × List Nat) => s.askRange e r.1 r.2.1) s
        if u.sums || !writes w then s else if !s.checksOn e then s.acceptUnit e u acc else s.drainUnit e u

/-! ### Gangs (R161 to R164) -/

/-- Units of the given panels and strips of C, panel by panel. -/
def unitList (ps ns : List Nat) : List (Nat × Nat) := (ps.map (fun p => ns.map (fun n => (p, n)))).flatten

/-- Shares of the tiles of one group under a split (R163): strips of K, and units, of member j of g. -/
def shareOf (d : Bytes) (split j g : Nat) (ks : List Nat) : List Nat × List (Nat × Nat) :=
  let ps := List.range (tPanels d)
  let ns := List.range (tCols d)
  match split with
  | 1 => (ks, unitList ps (slice' (j * ceilDiv (tCols d) g) (ceilDiv (tCols d) g) ns))
  | 2 => (ks, unitList (ps.filter (fun p => p % g == j)) ns)
  | 3 =>
      let mine := slice' (j * ceilDiv ks.length g) (ceilDiv ks.length g) ks
      (mine, if mine.isEmpty then [] else unitList ps ns)
  | _ => (ks, unitList ps ns)
where
  /-- n elements from an index. -/
  slice' (i n : Nat) (l : List Nat) : List Nat := (l.drop i).take n

/-- The works of a group's tiles, in tile order, that report to `lead`; the top leader's is among them when `top`. -/
def groupWorks (w : Work) (split lead : Nat) (tiles : List Nat) (ks : List Nat) (reduce : Bool) (upper : Nat) (top : Bool)
    (used : Nat) (others : List Nat) : List (Nat × Work) :=
  let all := unitList (List.range (tPanels w.desc)) (List.range (tCols w.desc))
  tiles.mapIdx (fun j i =>
    let (k, us) := shareOf w.desc split j tiles.length ks
    let us := if i == lead || !k.isEmpty then us else []
    let t : TRun := { leader := if i == lead then (if top then i else upper) else lead, top := top && i == lead, reduce := reduce,
                      used := used, ks := k, share := us, units := if reduce && i == lead then all else us,
                      active := if top && i == lead then others else [] }
    (i, { w with sink := if top && i == lead then w.sink else .member (if top then lead else upper), t := t }))

/-- The works of every tile of a job (R158, R163, R164). `home` counts the operand bytes of a tile's home stack. -/
def gangWorks (s : State) (w : Work) (lead : Nat) (home : Nat → Nat) : List (Nat × Work) :=
  let d := w.desc
  let inService := fun (h : Half) => ((classEngines .tile h).filter (fun e => s.accepts e)).map (·.idx)
  let h := engHalf (tileEng lead)
  let ks := List.range (tStrips d)
  if tGang d == 1 then groupWorks w 0 lead [lead] ks false lead true 1 []
  else if tGang d == 16 then
    let a := (inService h)
    let b := (inService h.other)
    let split := if tSplit d == 0 then 3 else tSplit d
    let cut := if b.isEmpty then ks.length else ceilDiv ks.length 2
    let sub := b.foldl (fun (m : Option Nat) i => match m with
      | none => some i
      | some x => if home i > home x then some i else m) none
    let others := (a ++ b).filter (· ≠ lead)
    groupWorks w split lead a (ks.take cut) true lead true (a.length + b.length) others ++
      (match sub with
       | some x => groupWorks w split x b (ks.drop cut) true lead false (a.length + b.length) []
       | none => [])
  else
    let rest := (inService h).filter (· ≠ lead)
    let pick := pickMost home rest (tGang d - 1)
    let tiles := (lead :: pick).mergeSort (fun a b => a ≤ b)
    groupWorks w (tSplit d) lead tiles ks (tSplit d == 3) lead true tiles.length pick
where
  /-- The n tiles with the most bytes, the lower tile on a tie. -/
  pickMost (home : Nat → Nat) : List Nat → Nat → List Nat
    | _, 0 => []
    | l, n + 1 =>
        match l.foldl (fun (m : Option Nat) i => match m with
            | none => some i
            | some x => if home i > home x then some i else m) none with
        | none => []
        | some x => x :: pickMost home (l.filter (· ≠ x)) n

/-- A queued gang whose member has failed for good goes back to the front end, which forms it anew from the tiles that are
left (R161). DESIGN CHOICE (log entry 130). -/
def regang (s : State) (g : Gang) : State :=
  match g.works.find? (·.1 == g.leader) with
  | none => s
  | some (_, w) =>
      let mine := fun (q : Work) => q.sink == .gang g.leader
      let s := g.works.foldl (fun s x => s.modEng (tileEng x.1) (fun t => { t with queue := t.queue.filter (fun q => !mine q) })) s
      let id := s.eng.nextFront
      { s with eng.gangs := s.eng.gangs.filter (· ≠ g), eng.nextFront := id + 1,
               eng.fronts := tput id { cls := .tile, w := { w with t := {} }, h := engHalf (tileEng g.leader), forwarded := true } s.eng.fronts }.push (.post id)

/-- A gang starts when every member is free and its place in each queue has come (R162). -/
def gangStart (s : State) (lead : Nat) : State :=
  match s.eng.gangs.find? (·.leader == lead) with
  | none => s
  | some g =>
      let ready := g.works.all (fun x =>
        let t := s.engOf (tileEng x.1)
        t.run.isNone && t.state == 0 && (match t.queue with
          | q :: _ => q.sink == .gang lead
          | [] => false))
      if g.works.any (fun x => (s.engOf (tileEng x.1)).state == 3) then s.regang g
      else if !ready then s
      else
        let s := { s with eng.gangs := s.eng.gangs.filter (· ≠ g) }
        g.works.foldl (fun s x =>
          (s.modEng (tileEng x.1) (fun t => { t with run := some x.2, queue := t.queue.drop 1 })).push (.wake (tileEng x.1))) s

/-- The next job of a tile: a queued gang's place waits for GANG_START. -/
def tileNext (s : State) (e : Engine) : State :=
  match (s.engOf e).queue with
  | q :: _ => (match q.sink with
      | .gang _ => s
      | _ => s.nextWork e)
  | [] => s

/-! ### Stopping, moving, completing (R169 to R172) -/

/-- Count a completed tile job (R175). -/
def tileCount (s : State) (h : Half) (w : Work) : State :=
  let s := s.count h 0x4060 1
  let s := if w.t.used > 1 then s.count h 0x4060 2 else s
  let s := if tFed w.desc then s.count h 0x4060 3 else s
  if w.status.good then s else s.count h 0x4060 7

/-- A tile's own part is done: a member reports its counts to the leader; the leader, when nobody is left, completes. -/
def tileFinish (s : State) (e : Engine) (w : Work) : State :=
  match w.sink with
  | .member lead =>
      let s := s.modRun (tileEng lead) (fun v =>
        let v := { v with t.active := v.t.active.filter (· ≠ e.idx), t.written := v.t.written + w.t.written,
                          t.remote := v.t.remote + w.t.remote, t.nonfinite := v.t.nonfinite + w.t.nonfinite,
                          t.saturated := v.t.saturated + w.t.saturated, t.dropped := v.t.dropped + w.t.dropped,
                          t.resumed := v.t.resumed + w.t.resumed }
        if v.status.first w.status = v.status then v else { v with status := w.status, fault := w.fault, detail := w.detail })
      (s.push (.wake (tileEng lead))).retire e
  | _ => ((s.tileCount (engHalf e) w).sendCompletion w .tile (tRecord w s.now)).retire e

/-- The completion record is written at cmpl once every output write has landed or been dropped, then the job completes
(R171). -/
def tileClose (s : State) (e : Engine) (w : Work) : State :=
  if tCmpl w.desc != 0 && w.t.top && !w.recorded then
    ((s.modRun e (fun w => { w with recorded := true, lastWrite := some s.now })).putRecord e (tCmpl w.desc) (tRecord w s.now)).push (.wake e)
  else s.tileFinish e w

/-- Start a tile's work: the pages of g and cmpl are translated (R157). -/
def tileStart (s : State) (e : Engine) (w : Work) : State :=
  let s := s.modRun e (fun w => { w with started := true })
  let s := if tFed w.desc && w.t.top then s.askRange e (tG w.desc) 64 else s
  if tCmpl w.desc != 0 && w.t.top then s.issue e .write (tCmpl w.desc) 0 [] cmplKey else s

/-- Start the gather of a gather-fed job (R165, R166). -/
def fedStart (s : State) (e : Engine) (w : Work) : State :=
  let g := gotBytes w (tG w.desc) 64
  let t := s.tableOf (yTable g)
  let s := s.modRun e (fun w => { w with t.fedAsked := true })
  let s := s.consume e (tG w.desc) 64 (List.range 256) false
  match s.runOf e with
  | none => s
  | some w =>
      if !w.status.good then s
      else if fedBad w.desc g ((t.map (·.dim)).getD 0) (yRed g) (yFmt g) (yOp g) (yOuts g) (yCmpl g) (yOut g) (yFed g) then
        s.note e .translationFault 0 7
      else match yRefusal g w.ctx t true with
        | some (st, f, n) => s.note e st f n
        | none =>
            let y := ((List.range 2).map (fun i => (⟨.yealm, 2 * e.idx + i⟩ : Engine))).filter s.accepts
            let pick := match s.shortest y with
              | some y => some y
              | none => s.shortest ((classEngines .yealm (engHalf e)).filter s.accepts)
            match pick with
            | some y => s.enqueue y { desc := g, ctx := w.ctx, job := w.job, tag := w.tag, issuer := w.issuer, sink := .panel e.idx 0 }
            | none => s.modRun e (fun w => { w with t.fedAsked := false })   -- no yealm engine of the half is in service now

/-- Whether the part of a gather-fed panel a unit needs is here. -/
def panelHere (w : Work) (p n : Nat) : Bool := !tFed w.desc || !w.t.share.contains (p, n) || thas p w.t.slots

/-- Ask for the pages of the blocks a unit is written to, as far as their translation is not known (R157, R220). -/
def askPlaces (s : State) (e : Engine) (w : Work) (p n : Nat) : State :=
  if !writes w then s
  else (s.unplaced (engHalf e) w.ctx [] [outRange w p n]).foldl (fun s va =>
    if ((s.runOf e).map (fun w => w.await.contains (pageKey + va / 65536))).getD true then s
    else s.issue e .write va 0 [] (pageKey + va / 65536)) s

/-- Whether everything a unit needs is here. -/
def unitReady (s : State) (e : Engine) (w : Work) (p n : Nat) : Bool :=
  (unitRanges w p n).all (fun r => blocksHere w r.1 r.2.1) &&
  (!writes w || (s.unplaced (engHalf e) w.ctx [] [outRange w p n]).isEmpty)

/-- A job that fails: no new unit begins, units not yet written are dropped, and once nothing is outstanding it completes
(R169). -/
def tileStop (s : State) (e : Engine) (w : Work) : State :=
  if !w.await.isEmpty then s
  else
    let n := w.t.owed.length + (match w.t.unit with
      | some u => ofBool u.pends
      | none => 0)
    let s := if n == 0 then s else ((List.range n).foldl (fun s _ => s.addPending w.ctx w.job false) s).checkJobGroup w.ctx w.job
    let s := s.modRun e (fun w => { w with t.unit := none, t.units := [], t.owed := [] })
    let s := w.t.active.foldl (fun s i => (s.note (tileEng i) w.status w.fault w.detail).push (.wake (tileEng i))) s
    if w.t.active.isEmpty then s.tileClose e { w with t.unit := none, t.units := [], t.owed := [] } else s

/-- Take a tile in service as far as it can go with its next unit (R158). -/
def tileUnit (s : State) (e : Engine) (w : Work) : State :=
  match w.t.units with
  | [] => if w.t.active.isEmpty && w.await.isEmpty then s.tileClose e w else s
  | (p, n) :: _ =>
      if !panelHere w p n then s
      else
        let s := ((unitRanges w p n).foldl (fun (s : State) r => s.askRange e r.1 r.2.1) s).askPlaces e w p n
        match s.runOf e with
        | some v => if v.status.good && s.unitReady e v p n then s.formUnit e p n else s
        | none => s

/-- A gather-fed panel is delivered to a tile's slot (R166), in the order its units need it: the gather has completed the
panel, and a slot is free or holds a panel the array has finished with. -/
def panelDeliver (s : State) (i p : Nat) : State :=
  let e := tileEng i
  match s.runOf e with
  | none => s
  | some w =>
      let made := fun (w : Work) => tget p w.t.fedOut
      let src := if w.t.top then made w else (s.runOf (tileEng w.t.leader)).bind (fun v =>
        if v.t.top then made v else (s.runOf (tileEng v.t.leader)).bind made)
      match src with
      | none => s
      | some out =>
          let live := w.t.slots.filter (fun x => w.t.units.any (fun u => u.1 == x.1))
          if !tFed w.desc || 2 ≤ live.length || ((w.t.units.filter w.t.share.contains).find? (fun u => !thas u.1 live)).map (·.1) != some p then s
          else (s.modRun e (fun w => { w with t.slots := live ++ [(p, out)] })).push (.wake e)

/-- A sum of partials is whole: a leader drains it (R220); without checks it is final at once (R232). -/
def sumReady (s : State) (e : Engine) (u : OutUnit) : State :=
  match s.runOf e with
  | none => s
  | some w =>
      if w.t.top then (if s.checksOn e then s.drainUnit e u else s.acceptUnit e u u.acc)
      else if s.checksOn e then s
      else s.modRun e (fun w => { w with t.unit := some { u with summed := true } })

/-- A partial of a gang member arrives at its leader or sub-leader (R163, R164, R219), after both tiles' own checks. -/
def partialArrive (s : State) (lead i p n : Nat) : State :=
  match s.runOf (tileEng lead), s.runOf (tileEng i) with
  | some l, some m =>
      match l.t.unit, m.t.unit with
      | some u, some v =>
          if l.t.reduce && m.t.reduce && m.t.leader == lead && i != lead && u.p == p && u.n == n && v.p == p && v.n == n &&
            u.checked && v.checked && v.waiting == 0 && (!v.sums || v.summed) then
            let u := { u with acc := addUnits u.acc v.acc, parts := u.parts ++ [v.acc], chk := addChk u.chk v.chk, waiting := u.waiting - 1 }
            let s := s.modRun (tileEng lead) (fun l => { l with t.unit := some u })
            let s := if u.waiting == 0 then s.sumReady (tileEng lead) u else s
            (s.modRun (tileEng i) nextUnit).push (.wake (tileEng i))
          else s
      | _, _ => s
  | _, _ => s

/-! ### Leaving service (R170, R221) -/

/-- Tolerance of a unit's array mode (R233). -/
def tolerance (s : State) (e : Engine) (d : Bytes) : Nat :=
  max 1 (s.cfg (engHalf e) 0x20A0 (2 + tMode d))

/-- A tile is taken out of service pending test (R221, R373): its test is due at once. -/
def tilePending (s : State) (i : Nat) : State :=
  let e := tileEng i
  let c := s.courseOf (engHalf e)
  (s.modEng e (fun g => { g with state := 2, due := true, dueAt := s.now, outs := g.outs ++ [c] })).gutter (engHalf e) 0x0A 0x05 i 0x04

/-- Queued work of an engine that leaves service goes to the other engines of its class on the half, if there are any
(R370); a queued gang's place stays. -/
def moveQueue (s : State) (e : Engine) : State :=
  let stays := fun (w : Work) => match w.sink with
    | .gang _ => true
    | _ => false
  let go := (s.engOf e).queue.filter (fun w => !stays w)
  if ((classEngines e.cls (engHalf e)).filter (fun x => x != e && s.accepts x)).isEmpty then s
  else
    let s := s.modEng e (fun g => { g with queue := g.queue.filter stays })
    go.foldl (fun s w =>
      match s.shortest ((classEngines e.cls (engHalf e)).filter (fun x => x != e && s.accepts x)) with
      | some x => s.enqueue x w
      | none => s) s

/-- Operand bytes of a tile job for R97 (R161): A, B and their scales, and C when it is read. -/
def tileLocs (s : State) (h : Half) (c : Nat) (d : Bytes) : List (Nat × Nat × Nat) := s.rangeLocs h c [] (tIn d)

/-- The engine of a half that R97 would choose for work that leaves another one. -/
def chooseOn (s : State) (cls : EngClass) (h : Half) (locs : List (Nat × Nat × Nat)) (ok : Engine → Bool) : Option Engine :=
  s.chooseEngine cls (locs.filter (fun x => s.isSelf x.1 && offHalf x.2.1 = h)) (fun x => engHalf x = h && ok x)

/-- The works of a gang on the tiles other than i that still run, in tile order. -/
def gangTiles (s : State) (i : Nat) (w : Work) : List (Nat × Work) :=
  (List.range 16).filterMap (fun k => match s.runOf (tileEng k) with
    | some v => if k != i && v.ctx == w.ctx && v.job == w.job && v.tag == w.tag && v.issuer == w.issuer && v.desc == w.desc &&
        1 < v.t.used then some (k, v) else none
    | none => none)

/-- Part j of a list divided among n in order (R163). -/
def partOf {α : Type} (l : List α) (j n : Nat) : List α := (l.drop (j * ceilDiv l.length n)).take (ceilDiv l.length n)

/-- Member j's units of some that are divided among n as R163 gives: by N contiguous strips of C, by M every n-th panel. -/
def dealUnits (split : Nat) (us : List (Nat × Nat)) (j n : Nat) : List (Nat × Nat) :=
  let ps := us.foldl (fun l u => addOnce u.1 l) []
  let ns := us.foldl (fun l u => addOnce u.2 l) []
  if split == 1 then us.filter (fun u => (partOf ns j n).contains u.2) else us.filter (fun u => ps.findIdx (· == u.1) % n == j)

/-- A unit in a tile's hands that is in the group's pending count. -/
def owedUnit (w : Work) : List (Nat × Nat) :=
  w.t.owed ++ (match w.t.unit with
    | some u => if u.pends then [(u.p, u.n)] else []
    | none => [])

/-- Panels of a gather that are to go to tile i go to another tile. -/
def fedTo (s : State) (i k : Nat) : State :=
  let fix := fun (m : Work) => if m.sink == Sink.panel i 0 then { m with sink := .panel k 0 } else m
  { s with eng.yealms := s.eng.yealms.map (fun (y : Nat × Eng) => (y.1, { y.2 with run := y.2.run.map fix, queue := y.2.queue.map fix })) }

/-- A gang goes on without tile i (R163, R170): what no other tile covers of it, in strips of K or in units, is divided
among the members of its half as R163 gives from the first unwritten unit onward, and a leader's place goes to the member that
R97's counts favour. Partials of the unit in hand are formed again. -/
def gangGoOn (s : State) (i : Nat) (w : Work) (left : List (Nat × Work)) : State :=
  let d := w.desc
  let byK := tSplit d == 3 || tSplit d == 0
  let locs := s.tileLocs (engHalf (tileEng i)) w.ctx d
  let home := fun (k : Nat) => bytesOf locs (fun x => s.isSelf x.1 && stackOf x.2.1 == k)
  let near := left.filter (fun v => engHalf (tileEng v.1) = engHalf (tileEng i))
  let mine := (if near.isEmpty then left else near).map (·.1)
  let heir := (gangWorks.pickMost home mine 1).headD i
  let all := if w.t.top then w.t.units else ((left.find? (·.2.t.top)).map (·.2.t.units)).getD []
  let strips := (List.range (tStrips d)).filter (fun k => !left.any (fun v => v.2.t.ks.contains k))
  let units := if !w.t.reduce then w.t.units else if byK || near.isEmpty then []
    else all.filter (fun x => !near.any (fun v => v.2.t.share.contains x))
  let led := w.t.top || left.any (fun v => v.2.t.leader == i)
  let s := left.foldl (fun s x =>
    let (k, v) := x
    let j := mine.findIdx (· == k)
    let inPart := mine.contains k
    let ks := (if !inPart then [] else if byK then partOf strips j mine.length else strips).foldl (fun l x => insNat x l) v.t.ks
    let more := if inPart then dealUnits (tSplit d) units j mine.length else []
    let share := if byK && w.t.reduce && !ks.isEmpty then unitList (List.range (tPanels d)) (List.range (tCols d)) else v.t.share ++ more
    let top := v.t.top || (w.t.top && k == heir)
    let leads := top || (led && k == heir) || left.any (fun y => y.1 != k && y.2.t.leader == k)
    let upper := if k == heir && led then (if w.t.top then heir else w.t.leader) else if v.t.leader == i then heir else v.t.leader
    let t : TRun := { v.t with
      ks := ks, share := share, top := top, leader := upper,
      units := if !w.t.reduce then v.t.units ++ more else if leads then all else all.filter share.contains,
      unit := if w.t.reduce then none else v.t.unit,
      owed := (if w.t.reduce then owedUnit v else v.t.owed) ++ (owedUnit w).filter (fun x => more.contains x || (w.t.reduce && k == heir)),
      active := if w.t.top && k == heir then (left.map (·.1)).filter (· ≠ k) else v.t.active.filter (· ≠ i),
      resumed := v.t.resumed + (if !w.t.reduce then more.length else if w.t.top && k == heir then all.length else 0) }
    -- the counts of the lost tile go to the leader
    let t := if top then { t with written := t.written + w.t.written, remote := t.remote + w.t.remote, nonfinite := t.nonfinite + w.t.nonfinite,
                                  saturated := t.saturated + w.t.saturated, dropped := t.dropped + w.t.dropped, resumed := t.resumed + w.t.resumed } else t
    let t := if w.t.top && k == heir then { t with fedAsked := w.t.fedAsked, fedOut := w.t.fedOut, start := w.t.start, gidx := w.t.gidx,
                                                   gdef := w.t.gdef, gfall := w.t.gfall, gempty := w.t.gempty } else t
    let sink := if w.t.top && k == heir then w.sink else if v.sink == .member i then .member heir else v.sink
    s.modRun (tileEng k) (fun _ => { v with t := t, sink := sink })) s
  let n := if !w.t.reduce then units.length else if w.t.top then all.length else 0
  let s := if n == 0 then s else s.count (engHalf (tileEng i)) 0x4060 5 n
  let s := if w.t.top then s.fedTo i heir else s
  (s.modEng (tileEng i) (fun g => { g with run := none })).pushAll ((List.range 16).map (fun k => .wake (tileEng k)))

/-- Move the job of a tile that leaves service, once its accesses have returned (R170): a gang goes on on its other members, any
other job goes to the tile of the same half that R97 would choose, from the first unit not written. With no such tile it stays
(R370). -/
def tileMove (s : State) (i : Nat) : State :=
  let e := tileEng i
  let s := s.moveQueue e
  match s.runOf e with
  | none => s
  | some w =>
      let left := if w.t.used > 1 then s.gangTiles i w else []
      if !w.await.isEmpty then s
      else if !left.isEmpty then s.gangGoOn i w left
      else match s.chooseOn .tile (engHalf e) (s.tileLocs (engHalf e) w.ctx w.desc) (fun x => x.idx != i) with
        | none => s
        | some x =>
            let n := w.t.units.length
            -- the panel slots of a gather-fed job are copied over the crossbar
            let s := ((s.count (engHalf e) 0x4060 5 n).modEng e (fun g => { g with run := none })).fedTo i x.idx
            s.enqueueFirst x { w with got := [], want := [], t.unit := none, t.owed := owedUnit w, t.resumed := w.t.resumed + n, t.leader := x.idx }

/-- Whether a tile is out of service, so that what it runs leaves it (R170). -/
def leaving (g : Eng) : Bool := g.state == 2 || g.state == 3 || (g.state == 1 && g.forced)

/-- Take a tile's running job as far as it can go; a unit whose results are formed waits for its verdict. -/
def tileStep (s : State) (e : Engine) : State :=
  let s := (s.tileNext e).noteEnded e
  let s := if ((s.runOf e).map (·.status.good)).getD true then s else s.askNoMore e
  let s := s.pump e
  match s.runOf e with
  | none => s
  | some w =>
      if !w.status.good then s.tileStop e w
      else if (s.engOf e).state != 0 then (if leaving (s.engOf e) then s.tileMove e.idx else s)
      else if !w.started then (s.tileStart e w).push (.wake e)
      else if w.await.contains cmplKey then s
      else if tFed w.desc && w.t.top && !w.t.fedAsked then
        (if blocksHere w (tG w.desc) 64 then
          let s := s.fedStart e w
          if ((s.runOf e).map (·.t.fedAsked)).getD false then s.push (.wake e) else s
         else s)
      else if w.t.unit.isSome then s
      else s.tileUnit e w

/-! ### Verdicts (R217 to R221) -/

/-- A unit failed its check: another tile recomputes it, from operands read again (R221). -/
def disputeUnit (s : State) (e : Engine) (w : Work) (u : OutUnit) : State :=
  let ok := fun (x : Engine) => x.idx != e.idx && !(s.engOf x).checkerFirst
  let locs := s.tileLocs (engHalf e) w.ctx w.desc
  let pick := match s.chooseOn .tile (engHalf e) locs ok with
    | some x => some x
    | none => s.chooseOn .tile (engHalf e).other locs ok
  let s := (s.count (engHalf e) 0x4080 8).gutter (engHalf e) 0x0A 0x05 e.idx 0x09 (c := w.ctx) (job := w.job)
  let other := match pick with
    | some x => x.idx
    | none => e.idx
  let rs := operandRanges w u.p u.n
  let s := (s.modEng (tileEng other) (fun g => listJob g w.ctx w.job)).modRun e (fun w =>
    { w with t.unit := some { u with recompute := some other }, got := w.got.filter (fun b => !inRangesOf rs b.1) })
  rs.foldl (fun (s : State) r => s.askRange e r.1 r.2.1) s

/-- Whether accumulators of a unit fail the checker's tests: a tile's own over its own K range, a sum of partials by its sums
alone, with K' = K (R218, R219). -/
def unitBad (s : State) (e : Engine) (w : Work) (u : OutUnit) (acc : List (List (BitVec 32))) : Bool :=
  unitFails u.chk acc (if u.checked then tK w.desc else kLen w.desc w.t.ks) (s.tolerance e w.desc) (!u.checked)

/-- A check of a unit has passed (R219, R220): a tile's own partial may be summed or sent on, a whole unit is written. -/
def unitPassed (s : State) (e : Engine) (u : OutUnit) (again : Bool := false) : State :=
  match s.runOf e with
  | none => s
  | some w =>
      if writes w && (!u.sums || u.checked) then s.acceptUnit e u u.acc again
      else (s.modRun e (fun w => { w with t.unit := some { u with summed := u.checked, checked := true } })).pushAll
        ((List.range 16).map (fun k => .wake (tileEng k)))

/-- Whether a check of the unit in hand is due: a tile's own partial first, then a whole sum of partials (R219). -/
def checkDue (u : OutUnit) : Bool := u.recompute.isNone && (!u.checked || (u.sums && u.waiting == 0 && !u.summed))

/-- The verdict on a unit is ready (R218 to R220): on a tile's own partial, or on a sum. -/
def verdict (s : State) (i : Nat) (upset : List (Nat × Nat × BitVec 32)) : State :=
  let e := tileEng i
  match s.runOf e with
  | none => s
  | some w =>
      match w.t.unit with
      | none => s
      | some u =>
          if !checkDue u then s
          else
            let u := { u with acc := upsetUnit u.acc upset }
            if s.checksOn e && s.unitBad e w u u.acc then s.disputeUnit e w u else s.unitPassed e u

/-- End a job whose unit was wrong (R221): its open group is retracted. -/
def endWrong (s : State) (w : Work) : State :=
  (match s.openGroupOf w.ctx w.job with
    | some (_, g) => s.push (.retract (s.idOf g))
    | none => s).push (.endJob w.ctx w.job 2 (some [w.issuer]))

/-- The outcome of a recomputation: r its accumulators (R221). -/
def resolved (s : State) (i : Nat) (w : Work) (u : OutUnit) (other : Nat) (r : List (List (BitVec 32))) : State :=
  let e := tileEng i
  let h := engHalf e
  if r = u.acc then
    let again := (s.engOf e).checkerFirst
    let s := (((s.modEng e (fun g => { g with checkerFirst := true, due := true })).count h 0x4080 9)).unitPassed e u
    if again then (s.tilePending i).tileMove i else s
  else if !s.unitBad e w u r then
    let s := s.count h 0x4080 0xA
    let s := if u.drained == 0 then s.unitPassed e { u with acc := r } else (s.unitPassed e { u with acc := r } true).endWrong w
    (s.tilePending i).tileMove i
  else
    let s := ((s.count h 0x4080 0xB).modRun e (fun w => { w with t.unit := none, t.units := [] })).endWrong w
    let s := (s.tilePending i).moveQueue e
    (if other == i then s else (s.tilePending other).tileMove other).push (.wake e)

/-- The recomputation of a disputed unit is complete (R221): once its operands are here again. -/
def resolve (s : State) (i : Nat) (upset : List (Nat × Nat × BitVec 32)) : State :=
  let e := tileEng i
  match (s.runOf e).bind (fun w => w.t.unit.bind (fun u => u.recompute.map (fun o => (w, u, o)))) with
  | none => s
  | some (w, u, other) =>
      let rs := operandRanges w u.p u.n
      if !rs.all (fun r => blocksHere w r.1 r.2.1) then s
      else
        let s := rs.foldl (fun (s : State) r => s.consume e r.1 r.2.1 r.2.2) s
        match s.runOf e with
        | none => s
        | some w =>
            if !w.status.good then s.push (.wake e)
            else
              let own := (computeUnit w u.p u.n).1
              let r := if u.checked then u.parts.foldl addUnits (upsetUnit own upset) else upsetUnit own upset
              s.resolved i w { u with recompute := none } other r

/-! ### Answers -/

/-- An answer to a request of a tile. A cmpl whose page faults has no record written. -/
def tileDeliver (s : State) (e : Engine) (key : Nat) (r : Reply) : State :=
  let s := s.arrived e key
  let s :=
    if recordKey ≤ key then s
    else if putKey ≤ key then
      (if r.status.good then s
       else (s.note e r.status r.fault).modRun e (fun w => { w with t.dropped := w.t.dropped + 1 }))
    else if pageKey ≤ key then
      (if r.status.good then s
       else (s.note e r.status r.fault).modRun e (fun w => { w with recorded := w.recorded || key == cmplKey }))
    else s.takeBlock e key r true
  s.push (.wake e)

end Sys2Proof.Machine.State
end

