-- ==== Sys2Proof/Machine/Update.lean ====
section
/-! DEFINITION. Update units (R177 to R196): descriptors, validation, the fixed operations, reductions, conversion on
store, windows and completion records. -/

namespace Sys2Proof.Machine

/-! ### The descriptor (R177, R178, R180) -/

def uOp (d : Bytes) : Nat := bits 3 0 d
def uNstr (d : Bytes) : Nat := bits 7 4 d
def uNops (d : Bytes) : Nat := bits 12 8 d
def uSeq (d : Bytes) : Nat := bits 63 32 d
def uN (d : Bytes) : Nat := bits 95 64 d
def uSeed (d : Bytes) : Nat := bits 127 96 d
def uCmpl (d : Bytes) : Nat := bits 191 128 d
def uK (d : Bytes) (m : Nat) : BitVec 32 := BitVec.ofNat 32 (bits (287 + 32 * m) (256 + 32 * m) d)

/-- A stream entry (R178). -/
structure UStream where
  va : Nat
  fmt : Nat
  dir : Nat
  sr : Bool
  soff : Nat
  zero : Bool
deriving DecidableEq, Repr

def uStream (d : Bytes) (j : Nat) : UStream :=
  let o := 512 + 128 * j
  { va := bits (o + 63) o d, fmt := bits (o + 71) (o + 64) d, dir := bits (o + 73) (o + 72) d,
    sr := bits (o + 74) (o + 74) d == 1, soff := bits (o + 127) (o + 96) d, zero := bits (o + 127) o d == 0 }

/-- Streams in use. -/
def uStreams (d : Bytes) : List (Nat × UStream) := (List.range (uNstr d)).map (fun j => (j, uStream d j))

/-- An operation word (R180). -/
structure UWord where
  opc : Nat
  d : Nat
  a : Nat
  b : Nat
  c : Nat
deriving DecidableEq, Repr

def uWord (d : Bytes) (q : Nat) : UWord :=
  let o := 1536 + 32 * q
  { opc := bits (o + 7) o d, d := bits (o + 13) (o + 8) d, a := bits (o + 19) (o + 14) d, b := bits (o + 25) (o + 20) d,
    c := bits (o + 31) (o + 26) d }

def uWords (d : Bytes) : List UWord := (List.range (uNops d)).map (uWord d)

/-- Sources an operation reads (R181). -/
def UWord.sources (w : UWord) : List Nat :=
  if [0x04, 0x0B, 0x0C, 0x0D].contains w.opc then [w.a, w.b, w.c]
  else if [0x01, 0x02, 0x03, 0x05, 0x06, 0x07].contains w.opc then [w.a, w.b]
  else [w.a]

def UWord.known (w : UWord) : Bool := (0x01 ≤ w.opc && w.opc ≤ 0x0E) || (0x10 ≤ w.opc && w.opc ≤ 0x13)

/-- RSUM, RSQ and RMAXABS. -/
def UWord.reduces (w : UWord) : Bool := 0x10 ≤ w.opc && w.opc ≤ 0x12

/-- Slots of an operation (R181). -/
def UWord.slots (w : UWord) : Nat := if [0x05, 0x09, 0x0A, 0x0C].contains w.opc then 4 else 1

/-! ### Validation (R182, R186, R188, R189) -/

def inDir (d : Bytes) (j : Nat) (dirs : List Nat) : Bool := j < uNstr d && dirs.contains (uStream d j).dir

/-- Whether one operation is refused after the operand codes already written (R182): the codes written after it. -/
def wordStep (d : Bytes) (w : UWord) (written : List Nat) : Option (List Nat) :=
  let srcOk := fun (x : Nat) =>
    if x < 8 then inDir d x [0, 2] || (inDir d x [1] && written.contains x)
    else if x < 0x10 then true
    else if x < 0x18 then written.contains x
    else x ≤ 0x19
  if !w.known then none
  else if w.opc == 0x13 then (if w.a < 8 && inDir d w.a [0, 2] then some written else none)
  else if !(w.sources.all srcOk) then none
  else if w.reduces then (if w.d ≤ 1 then some written else none)
  else if w.d < 8 then (if inDir d w.d [1, 2] then some (addOnce w.d written) else none)
  else if 0x10 ≤ w.d && w.d < 0x18 then some (addOnce w.d written)
  else none

/-- Whether the program breaks R182 or R186. -/
def programBad (d : Bytes) : Bool :=
  let ws := uWords d
  let run := ws.foldl (fun (st : Option (List Nat)) w => st.bind (wordStep d w)) (some [])
  match run with
  | none => true
  | some written =>
      (uStreams d).any (fun x => x.2.dir != 0 && !written.contains x.1) ||
      1 < (ws.filter (fun w => w.opc == 0x13)).length ||
      [0, 1].any (fun k => 1 < (ws.filter (fun w => w.reduces && w.d == k)).length)

/-- Packed bytes of a stream's elements, and of its scales (R179). -/
def uPacked (d : Bytes) (fmt : Nat) : Nat := (uN d * fmtBits fmt + 7) / 8
def uScales (d : Bytes) : Nat := (uN d + 31) / 32

/-- Block ranges of a stream and its scale array, with its direction. -/
def uRanges (d : Bytes) (x : UStream) : List (Nat × Nat × Nat) :=
  (x.va / 4096, (x.va + uPacked d x.fmt + 4095) / 4096, x.dir) ::
  (if fmtScaled x.fmt then
    [((x.va + x.soff * 4096) / 4096, (x.va + x.soff * 4096 + uScales d + 4095) / 4096, x.dir)] else [])

/-- Whether two ranges of a program overlap where they may not (R188). -/
def overlapBad (d : Bytes) : Bool :=
  let rs := ((uStreams d).map (fun x => uRanges d x.2)).flatten
  (rs.mapIdx (fun i r => (rs.drop (i + 1)).any (fun q =>
    !(r.2.2 == 0 && q.2.2 == 0) && r.1 < q.2.1 && q.1 < r.2.1))).any id

/-- Ranges of VA of some streams and their scale arrays (R190). -/
def uSpans (d : Bytes) (p : UStream → Bool) : List (Nat × Nat) :=
  (((uStreams d).filter (fun x => p x.2)).map (fun x => (x.2.va, uPacked d x.2.fmt) ::
    (if fmtScaled x.2.fmt then [(x.2.va + x.2.soff * 4096, uScales d)] else []))).flatten

/-- Validation of an update program (R189); a stream count out of range names no streams. -/
def uRefusal (d : Bytes) : Option (Status × Nat) :=
  let bad := fun n => some (Status.translationFault, n)
  let ss := if 8 < uNstr d then (List.range 8).map (uStream d) else (uStreams d).map (·.2)
  if uOp d != 1 then bad 1
  else if ss.any (fun x => x.dir == 3 || (x.dir == 0 && (x.sr || !(1 ≤ x.fmt && x.fmt ≤ 10))) ||
    (x.dir != 0 && !(1 ≤ x.fmt && x.fmt ≤ 9))) then bad 3
  else if uNstr d == 0 || 8 < uNstr d || uNops d == 0 || 16 < uNops d || uN d == 0 ||
    ss.any (fun x => fmtScaled x.fmt && x.soff * 4096 < uPacked d x.fmt && x.soff != 0) then bad 4
  else if ss.any (fun x => x.va % 4096 != 0 || (fmtScaled x.fmt == (x.soff == 0))) || uCmpl d % 64 != 0 ||
    ((List.range 8).any (fun j => uNstr d ≤ j && !(uStream d j).zero)) then bad 6
  else if programBad d then bad 9
  else if overlapBad d then bad 0xA
  else none

/-! ### Executing an element (R181 to R183) -/

/-- The value of an operand: the registers s0 to s7 and t0 to t7, a constant, +0.0 or +1.0. -/
def operand (d : Bytes) (regs : Tbl Nat (BitVec 32)) (x : Nat) : BitVec 32 :=
  if 8 ≤ x && x < 0x10 then uK d (x - 8)
  else if x == 0x18 then 0
  else if x == 0x19 then 0x3F800000#32
  else tgetD x 0 regs

/-- The result of an operation on its sources (R181). -/
def aluOp (opc : Nat) (a b c : BitVec 32) : BitVec 32 :=
  match opc with
  | 0x01 => fadd a b
  | 0x02 => fsub a b
  | 0x03 => fmul a b
  | 0x04 => ffma a b c
  | 0x05 => fdiv a b
  | 0x06 => fmin a b
  | 0x07 => fmax a b
  | 0x08 => fabs a
  | 0x09 => fsqrt a
  | 0x0A => frsqrt a
  | 0x0B => flerp a b c
  | 0x0C => fadamdiv a b c
  | 0x0D => fmin (fmax a b) c
  | _ => a

/-- A slot's lane after one more value (R181, R186). -/
def reduceOp (opc : Nat) (lane a : BitVec 32) : BitVec 32 :=
  match opc with
  | 0x10 => fadd lane a
  | 0x11 => ffma a a lane
  | _ => fmax lane (fabs a)

/-- One element through the program: registers and reduction lanes after it. -/
def elemStep (d : Bytes) (i : Nat) (regs : Tbl Nat (BitVec 32)) (slots : List (List (BitVec 32))) :
    Tbl Nat (BitVec 32) × List (List (BitVec 32)) :=
  (uWords d).foldl (fun (st : Tbl Nat (BitVec 32) × List (List (BitVec 32))) w =>
    let a := operand d st.1 w.a
    if w.opc == 0x13 then st
    else if w.reduces then
      (st.1, st.2.mapIdx (fun k l => if k == w.d then l.mapIdx (fun q v => if q == i % 512 then reduceOp w.opc v a else v) else l))
    else (tput w.d (aluOp w.opc a (operand d st.1 w.b) (operand d st.1 w.c)) st.1, st.2)) (regs, slots)

/-- The fixed tree over the 512 lanes (R186). -/
def treeReduce (maxabs : Bool) : Nat → List (BitVec 32) → BitVec 32
  | 0, l => l.headD 0
  | n + 1, l =>
      let h := 2 ^ n
      treeReduce maxabs n (List.zipWith (if maxabs then fmax else fadd) (l.take h) (l.drop h))

def slotResult (d : Bytes) (k : Nat) (slots : List (List (BitVec 32))) : BitVec 32 :=
  let isMax := (uWords d).any (fun w => w.opc == 0x12 && w.d == k)
  treeReduce isMax 9 (slots.getD k [])

/-! ### Windows (R191) -/

/-- First element and elements of a window. -/
def windowLo (w : Nat) : Nat := w * 32768
def windowLen (d : Bytes) (w : Nat) : Nat := min 32768 (uN d - windowLo w)
def uWindows (d : Bytes) : Nat := ceilDiv (uN d) 32768

/-- Bytes of VA of a window's elements of a stream, and of its scales. -/
def elemRange (d : Bytes) (x : UStream) (w : Nat) : Nat × Nat :=
  (x.va + windowLo w * fmtBits x.fmt / 8, (windowLen d w * fmtBits x.fmt + 7) / 8)
def scaleRange (d : Bytes) (x : UStream) (w : Nat) : Nat × Nat :=
  (x.va + x.soff * 4096 + windowLo w / 32, (windowLen d w + 31) / 32)

/-- Ranges a window reads, each with its stream and the tags its consumer accepts: elements and scales of inputs, and of in-place
streams the whole blocks that are written again (R188, R191). -/
def windowReads (d : Bytes) (w : Nat) : List (Nat × Nat × Nat × List Nat) :=
  ((uStreams d).map (fun x =>
    let whole := fun (r : Nat × Nat) => if x.2.dir == 2 then (r.1 / 4096 * 4096, (r.1 + r.2 + 4095) / 4096 * 4096 - r.1 / 4096 * 4096) else r
    let e := whole (elemRange d x.2 w)
    let q := whole (scaleRange d x.2 w)
    if x.2.dir == 1 then []
    else (x.1, e.1, e.2, [0, x.2.fmt]) :: (if fmtScaled x.2.fmt then [(x.1, q.1, q.2, [0, 0x10])] else []))).flatten

/-- Ranges of a window that may be read before the last one's writes have landed: all but an in-place stream's scale block that
it shares with it (R191). -/
def aheadReads (d : Bytes) (w : Nat) : List (Nat × Nat × Nat × List Nat) :=
  (windowReads d w).filter (fun r => !(w % 4 != 0 && r.2.2.2.contains 0x10 && (uStream d r.1).dir == 2))

/-- Pack 32 elements of `w` bits. -/
def packGroup (w : Nat) (xs : List Nat) : Bytes :=
  le (4 * w) ((xs.mapIdx (fun i x => x * 2 ^ (w * i))).foldl (· + ·) 0)

/-- Raw element i of a window in a byte range that holds its elements. -/
def rawElem (fmt : Nat) (b : Bytes) (i : Nat) : Nat := bits (i * fmtBits fmt + fmtBits fmt - 1) (i * fmtBits fmt) b

/-- What storing one stream of a window gives: element bytes, scale bytes, elements saturated, elements stored NaN or
infinite (R183 to R185, R188). -/
def storeStream (d : Bytes) (j : Nat) (x : UStream) (w : Nat) (vals : List (BitVec 32)) (old : Bytes) : Bytes × Bytes × Nat × Nat :=
  let len := vals.length
  let groups := (len + 31) / 32
  (List.range groups).foldl (fun (o : Bytes × Bytes × Nat × Nat) g =>
    let mine := (vals.drop (32 * g)).take 32
    let scale := if fmtScaled x.fmt then mxScale x.fmt mine else 127
    let cs := mine.mapIdx (fun i v =>
      let draw := if x.sr then some (srDraw (uSeed d) (windowLo w + 32 * g + i) j) else none
      if fmtScaled x.fmt then convMx x.fmt scale v draw else convF32 x.fmt v draw)
    let raw := (List.range 32).map (fun i => match cs[i]? with
      | some c => c.bits
      | none => if x.dir == 2 then rawElem x.fmt old (32 * g + i) else 0)
    (o.1 ++ packGroup (fmtBits x.fmt) raw, o.2.1 ++ le 1 scale, o.2.2.1 + (cs.filter (·.sat)).length,
     o.2.2.2 + (cs.filter (·.nonfin)).length)) ([], [], 0, 0)

/-- Slots 0 and 1 before the first element. -/
def freshSlots : List (List (BitVec 32)) := [List.replicate 512 0, List.replicate 512 0]

/-- The values of a stream's elements in a window (R110, R182): an element of a fallback block has its own format and no scale. -/
def streamVals (d : Bytes) (x : UStream) (w : Nat) (got : Work) : List (BitVec 32) :=
  let e := elemRange d x w
  let q := scaleRange d x w
  let scales := if fmtScaled x.fmt then State.gotBytes got q.1 q.2 else []
  (State.gotElems got x.fmt e.1 (windowLen d w)).mapIdx (fun i c => dequant c.1 c.2 (scales.getD (i / 32) 127).toNat none)

/-- The registers of every element before the first operation: the values of the streams that are read (R182). -/
def streamRegs (d : Bytes) (w : Nat) (got : Work) : List (Tbl Nat (BitVec 32)) :=
  ((uStreams d).filter (fun x => x.2.dir != 1)).foldl
    (fun rs x => List.zipWith (fun (r : Tbl Nat (BitVec 32)) v => r ++ [(x.1, v)]) rs (streamVals d x.2 w got)) (List.replicate (windowLen d w) [])

/-- A window computed: the values of every output and in-place stream, and the slots after it. -/
def computeWindow (d : Bytes) (w : Nat) (got : Work) (slots : List (List (BitVec 32))) :
    List (Tbl Nat (BitVec 32)) × List (List (BitVec 32)) :=
  let (_, out, slots) := (streamRegs d w got).foldl (fun (st : Nat × List (Tbl Nat (BitVec 32)) × List (List (BitVec 32))) regs =>
    let (regs, slots) := elemStep d st.1 regs st.2.2
    (st.1 + 1, regs :: st.2.1, slots)) (windowLo w, [], slots)
  (out.reverse, slots)

/-- The completion record (R195). -/
def uRecord (w : Work) (unit now : Nat) : Bytes :=
  let ok := w.status.good
  let cyc := match w.u.start with
    | some t => (w.lastWrite.getD now - t) * 3 / 4
    | none => 0
  let done := min (uN w.desc) (w.u.window * 32768)
  let has := fun (k : Nat) => (uWords w.desc).any (fun x => x.reduces && x.d == k)
  let rcrc := (uWords w.desc).any (fun x => x.opc == 0x13)
  fitTo 64 (le 1 w.status.code ++ le 1 w.fault ++ le 1 w.detail ++ le 1 w.u.stream ++ le 4 (uSeq w.desc) ++ le 2 w.job ++
    le 2 w.ctx ++ le 4 done ++ le 4 w.u.nonfinite ++ le 4 w.u.saturated ++ le 4 w.u.dropped ++
    le 4 (if ok && has 0 then (slotResult w.desc 0 w.u.slots).toNat else 0) ++
    le 4 (if ok && has 1 then (slotResult w.desc 1 w.u.slots).toNat else 0) ++
    le 4 (if ok && rcrc then (w.u.crc ^^^ 0xFFFFFFFF#32).toNat else 0) ++ le 8 cyc ++ le 1 unit)

namespace State

/-- Change the state; where that changes the program's status to a failure, its stream is the one a VA lies in (R195). -/
def noteStream (s : State) (e : Engine) (va : Nat) (f : State → State) : State :=
  let old := (s.runOf e).map (·.status)
  (f s).modRun e (fun w =>
    if w.status.good || some w.status = old then w
    else
      let hit := (uStreams w.desc).find? (fun x => (uRanges w.desc x.2).any (fun r => r.1 ≤ va / 4096 && va / 4096 < r.2.1))
      { w with u.stream := (hit.map (·.1)).getD 0xFF })

/-- Check what a window read (R204): the first status of R5 over all of it, and its stream. -/
def consumeWindow (s : State) (e : Engine) (w : Nat) : State :=
  match s.runOf e with
  | none => s
  | some v =>
      let worst := (windowReads v.desc w).foldl (fun (b : Option (Nat × Status)) r =>
        match gotStatus v r.2.1 r.2.2.1 r.2.2.2 true, b with
        | none, _ => b
        | some st, none => some (r.1, st)
        | some st, some (j, x) => if x.first st = x then some (j, x) else some (r.1, st)) none
      match worst with
      | none => s
      | some (j, st) => (s.consumed e st).modRun e (fun v => { v with u.stream := j })

/-- Write the blocks of a computed window (R191, R202). An output stream's scale block holds what its windows have put into
it so far, and zeros (R188). -/
def writeWindow (s : State) (e : Engine) (v : Work) (w : Nat) (regs : List (Tbl Nat (BitVec 32))) : State :=
  let d := v.desc
  ((uStreams d).filter (fun x => x.2.dir != 0)).foldl (fun s x =>
    let er := elemRange d x.2 w
    let qr := scaleRange d x.2 w
    let n := (er.2 + 4095) / 4096
    let old := if x.2.dir == 2 then gotBytes v er.1 (n * 4096) else []
    let (elems, scales, sat, nonfin) := storeStream d x.1 x.2 w (regs.map (fun r => tgetD x.1 0 r)) old
    let all := elems ++ old.drop elems.length
    let s := s.modRun e (fun v => { v with u.saturated := v.u.saturated + sat, u.nonfinite := v.u.nonfinite + nonfin })
    let s := s.count (engHalf e) 0x4070 3 sat
    let s := (List.range n).foldl (fun s i => s.putBlock e (er.1 + i * 4096) (slice (i * 4096) 4096 all) x.2.fmt) s
    if fmtScaled x.2.fmt then
      let base := qr.1 / 4096 * 4096
      let stored := gotBytes v base 4096
      let before := if x.2.dir == 2 then stored.take (qr.1 - base) else if w % 4 == 0 then [] else tgetD x.1 [] v.u.scales
      let after := if x.2.dir == 2 then stored.drop (qr.1 - base + scales.length) else []
      (s.modRun e (fun v => { v with u.scales := tput x.1 (before ++ scales) v.u.scales })).putBlock e base (before ++ scales ++ after) 0x10
    else s) s

/-- Compute and write the window whose blocks are all here (R182, R191). -/
def runWindow (s : State) (e : Engine) : State :=
  match s.runOf e with
  | none => s
  | some v =>
      let w := v.u.window
      let s := s.consumeWindow e w
      match s.runOf e with
      | none => s
      | some v =>
          if !v.status.good then s.push (.wake e)
          else
            let d := v.desc
            let slots := if v.u.slots.isEmpty then freshSlots else v.u.slots
            let (regs, slots) := computeWindow d w v slots
            let crc := match (uWords d).find? (fun x => x.opc == 0x13) with
              | some x => let r := elemRange d (uStream d x.a) w; crcRaw v.u.crc (gotBytes v r.1 r.2)
              | none => v.u.crc
            let s := s.modRun e (fun v => { v with u.writing := true, u.next := slots, u.nextCrc := crc })
            (s.writeWindow e v w regs).push (.wake e)

/-- Operand bytes of an update program for R97 and R190. -/
def updateLocs (s : State) (h : Half) (c : Nat) (d : Bytes) : List (Nat × Nat × Nat) := s.rangeLocs h c [] (uSpans d (fun _ => true))

/-- Whether a program stands between two windows with nothing of the next one begun. -/
def betweenWindows (w : Work) : Bool := w.got.isEmpty && w.want.isEmpty && w.await.isEmpty && !w.u.writing

/-- A unit under forced test gives its program up after its window (R194): it resumes on the unit of the same
half that R97 chooses. -/
def updateMove (s : State) (e : Engine) : State :=
  let s := s.moveQueue e
  match s.runOf e with
  | none => s
  | some w =>
      if !betweenWindows w then s
      else match s.chooseOn .update (engHalf e) (s.updateLocs (engHalf e) w.ctx w.desc) (· != e) with
      | none => s
      | some x => ((s.modEng e (fun g => { g with run := none })).count (engHalf e) 0x4070 5).enqueueFirst x w

/-- Count a completed program (R198). -/
def updateCount (s : State) (h : Half) (w : Work) : State :=
  let s := s.count h 0x4070 1
  if w.status.good then s else s.count h 0x4070 4

/-- A program ends: its record is written at cmpl, then it completes (R195). -/
def updateClose (s : State) (e : Engine) (w : Work) : State :=
  if uCmpl w.desc != 0 && !w.recorded then
    ((s.modRun e (fun w => { w with recorded := true, lastWrite := some s.now })).putRecord e (uCmpl w.desc) (uRecord w e.idx s.now)).push (.wake e)
  else ((s.updateCount (engHalf e) w).sendCompletion w .update (uRecord w e.idx s.now)).retire e

/-- Ask for some ranges of a window. -/
def askReads (s : State) (e : Engine) (rs : List (Nat × Nat × Nat × List Nat)) : State :=
  rs.foldl (fun (s : State) (r : Nat × Nat × Nat × List Nat) => s.askRange e r.2.1 r.2.2.1) s

/-- Take an update unit's running program as far as it can go; a written window waits for WINDOW_COMPLETE, and meanwhile the
next one is read (R191). -/
def updateStep (s : State) (e : Engine) : State :=
  let s := (s.nextWork e).noteEnded e
  let s := if ((s.runOf e).map (·.status.good)).getD true then s else s.askNoMore e
  let s := s.pump e
  match s.runOf e with
  | none => s
  | some w =>
      let d := w.desc
      if !w.status.good then (if w.await.isEmpty then s.updateClose e w else s)
      else if (s.engOf e).state != 0 && betweenWindows w then
        -- out of service between two windows: moved, or resumed here after the test (R194, R370)
        (if leaving (s.engOf e) then s.updateMove e else s)
      else if !w.started then
        let s := s.modRun e (fun w => { w with started := true })
        (if uCmpl d != 0 then s.issue e .write (uCmpl d) 0 [] cmplKey else s).push (.wake e)
      else if w.await.contains cmplKey then s
      else if w.u.writing then
        (if w.u.window + 1 < uWindows d && !leaving (s.engOf e) then s.askReads e (aheadReads d (w.u.window + 1)) else s)
      else if uWindows d ≤ w.u.window then (if w.await.isEmpty then s.updateClose e w else s)
      else
        let s := s.modRun e (fun w => { w with u.start := some (w.u.start.getD s.now) })
        let rs := windowReads d w.u.window
        let s := s.askReads e rs
        match s.runOf e with
        | some v => if rs.all (fun r => blocksHere v r.2.1 r.2.2.1) then s.runWindow e else s
        | none => s

/-- Every write of a window has landed (R191, R195). A unit that leaves service gives the program up here, once what it had
asked for the next window has come (R194). -/
def windowDone (s : State) (unit : Nat) : State :=
  let e : Engine := ⟨.update, unit⟩
  match s.runOf e with
  | none => s
  | some w =>
      let go := leaving (s.engOf e)
      if !w.u.writing || !w.status.good || w.await.any (fun k => putKey ≤ k) || (go && !w.await.isEmpty) then s
      else
        let n := windowLen w.desc w.u.window
        let slots := (uWords w.desc).foldl (fun k x => k + x.slots) 0
        let s := s.count (engHalf e) 0x4070 2 (n * slots)
        let ahead := if go then [] else aheadReads w.desc (w.u.window + 1)
        let kept := fun (b : Nat) => ahead.any (fun r => r.2.1 < b * 4096 + 4096 && b * 4096 < r.2.1 + r.2.2.1)
        (s.modRun e (fun w => { w with
          u.window := w.u.window + 1, u.writing := false, u.slots := w.u.next, u.crc := w.u.nextCrc,
          got := w.got.filter (fun b => kept b.1), want := if go then [] else w.want })).push (.wake e)

/-- An answer to a request of an update unit. A cmpl whose page faults has no record written. -/
def updateDeliver (s : State) (e : Engine) (key : Nat) (r : Reply) : State :=
  let s := s.arrived e key
  let s :=
    if recordKey ≤ key then s
    else if putKey ≤ key then
      (if r.status.good then s
       else (s.noteStream e ((key - putKey) * 4096) (fun s => s.note e r.status r.fault)).modRun e
         (fun w => { w with u.dropped := w.u.dropped + 1 }))
    else if pageKey ≤ key then
      (if r.status.good then s
       else (s.note e r.status r.fault).modRun e (fun w => { w with recorded := w.recorded || key == cmplKey }))
    else s.noteStream e (key * 4096) (fun s => s.takeBlock e key r true)
  s.push (.wake e)

end State
end Sys2Proof.Machine
end

