-- ==== Sys2Proof/Machine/Front.lean ====
section
/-! DEFINITION. The front ends (R97, R98, R121): a descriptor from its submission until an engine has it or it is refused. -/

namespace Sys2Proof.Machine
namespace State

/-! ### Records and counts of the three classes -/

/-- A completion record of a class (R133, R171, R195). -/
def recordOf (s : State) (cls : EngClass) (w : Work) : Bytes :=
  match cls with
  | .yealm => yRecord w
  | .tile => tRecord w s.now
  | .update => uRecord w 0 s.now

/-- Where a descriptor's completion record is also written. -/
def cmplOf (cls : EngClass) (d : Bytes) : Nat :=
  match cls with
  | .yealm => yCmpl d
  | .tile => tCmpl d
  | .update => uCmpl d

/-- Count a completed descriptor (R146, R175, R198). -/
def countDone (s : State) (cls : EngClass) (h : Half) (w : Work) : State :=
  match cls with
  | .yealm => s.yealmCount h w
  | .tile => s.tileCount h w
  | .update => s.updateCount h w

/-- A descriptor completes that no engine has had: counted, and its record sent to the issuing host. -/
def completeJob (s : State) (cls : EngClass) (h : Half) (w : Work) : State :=
  (s.countDone cls h w).sendCompletion w cls (s.recordOf cls w)

/-- Validation of a descriptor (R120, R168, R189): status, fault code and detail. -/
def refusalOf (s : State) (cls : EngClass) (h : Half) (c : Nat) (d : Bytes) : Option (Status × Nat × Nat) :=
  match cls with
  | .yealm => yRefusal d c (s.tableOf (yTable d)) false
  | .tile => (tRefusal d (s.cfg h 0x2090 1)).map (fun r => (r.1, 0, r.2))
  | .update => (uRefusal d).map (fun r => (r.1, 0, r.2))

/-! ### Requests of a front end -/

def modFront (s : State) (id : Nat) (f : Front → Front) : State :=
  { s with eng.fronts := s.eng.fronts.map (fun (x : Nat × Front) => if x.1 == id then (x.1, f x.2) else x) }

def dropFront (s : State) (id : Nat) : State := { s with eng.fronts := tdel id s.eng.fronts }

/-- Issue a request of a front end. DESIGN CHOICE (log entry 125): R313 gives a front end no source code; it uses that of the first
engine of its class on its half. -/
def frontIssue (s : State) (id : Nat) (op : MemOp) (addr size : Nat) (data : Bytes) (key : Nat) : State :=
  match tget id s.eng.fronts with
  | none => s
  | some f =>
      let e := (classEngines f.cls f.h).headD ⟨f.cls, 0⟩
      let (tag, s) := s.newTag
      let s := s.modFront id (fun f => { f with await := f.await ++ [key] })
      s.stage2 { s.engAcc e f.w op addr size data key tag with org := .front id key }

/-- A descriptor is refused or its job has ended: its record is written at cmpl, if it names a place for one, then it completes
(R133, R171, R195, R212). -/
def frontRefuse (s : State) (id : Nat) (st : Status) (fault detail : Nat) : State :=
  match tget id s.eng.fronts with
  | none => s
  | some f =>
      let w := { f.w with status := st, fault := fault, detail := detail }
      let at' := cmplOf f.cls w.desc
      if at' != 0 && at' % 64 == 0 then
        (s.modFront id (fun f => { f with w := w, refused := true })).frontIssue id .write at' 64 (s.recordOf f.cls w) recordKey
      else (s.dropFront id).completeJob f.cls f.h w

/-! ### What must be known before dispatch (R97, R121) -/

/-- Ranges whose bytes count for the dispatch of a descriptor. -/
def countedRanges (s : State) (cls : EngClass) (d : Bytes) : List (Nat × Nat) :=
  match cls with
  | .tile => tIn d
  | .update => uSpans d (fun _ => true)
  | .yealm =>
      let dim := ((s.tableOf (yTable d)).map (·.dim)).getD 0
      let size := ((s.tableOf (yTable d)).map rowSize).getD 0
      if yOp d == 2 then [(yList d, yCount d * yIndexSize d), (yAux d, yCount d * (dim * (fmtBits (yFmt d) / 8)))]
      else if yOp d == 3 then [(yList d, yCount d * yIndexSize d), (yAux d, yCount d * size)]
      else []

/-- Blocks of the index list of a gather or a prefetch, whose rows are counted. -/
def listBlocks (cls : EngClass) (d : Bytes) : List Nat :=
  if cls == .yealm && (yOp d == 1 || yOp d == 4) then
    let n := yCount d * yIndexSize d
    (List.range ((yList d + n + 4095) / 4096 - yList d / 4096)).map (yList d / 4096 + ·)
  else []

/-- Ask for the index list, and for where the operand pages are. -/
def frontAsk (s : State) (id : Nat) : State :=
  match tget id s.eng.fronts with
  | none => s
  | some f =>
      let d := f.w.desc
      let s := (listBlocks f.cls d).foldl (fun s b => s.frontIssue id .bget (b * 4096) 1 [] b) s
      (s.unplaced f.h f.w.ctx f.known (s.countedRanges f.cls d)).foldl (fun s va => s.frontIssue id .read va 0 [] (pageKey + va / 65536)) s

/-- An answer to a front end. -/
def frontAnswer (s : State) (id key : Nat) (r : Reply) : State :=
  let s := s.modFront id (fun f =>
    let f := { f with await := f.await.erase key }
    if recordKey ≤ key then f
    else if pageKey ≤ key then { f with known := tput (key - pageKey) (if r.status.good then r.version else none) f.known }
    else if !r.status.good then
      { f with w := if f.w.status.first r.status = f.w.status then f.w else { f.w with status := r.status, fault := r.fault } }
    else
      let st := if r.status == .tierFallback then f.w.status.first .tierFallback else f.w.status
      { f with w := { f.w with got := f.w.got ++ [(key, blkOfReply r)], status := st } })
  s.push (.post id)

/-! ### Operations of one job (R173, R196) -/

/-- Ranges an operation writes; none for a scatter, whose rows have no VA. -/
def writesOf (s : State) (cls : EngClass) (w : Work) : Option (List (Nat × Nat)) :=
  match cls, w.sink with
  | .tile, _ => some (tOut w.desc)
  | .update, _ => some (uSpans w.desc (fun x => x.dir != 0))
  | .yealm, .host =>
      if yOp w.desc == 1 then
        some [(yOut w.desc, yOuts w.desc * (((s.tableOf (yTable w.desc)).map (·.dim)).getD 0) * (fmtBits (yFmt w.desc) / 8))]
      else if yOp w.desc == 4 then some []
      else none
  | .yealm, _ => some []

/-- Ranges a tile job or an update program reads, which no operation of its job may change once it has begun. -/
def readsOf (cls : EngClass) (w : Work) : List (Nat × Nat) :=
  match cls with
  | .tile => tIn w.desc
  | .update => uSpans w.desc (fun x => x.dir != 1)
  | .yealm => []

/-- Whether what an operation writes touches what another one reads. -/
def touches (ws : Option (List (Nat × Nat))) (rs : List (Nat × Nat)) : Bool :=
  match ws with
  | none => !rs.isEmpty
  | some ws => ws.any (fun x => rs.any (fun y => x.1 < y.1 + y.2 && y.1 < x.1 + x.2))

/-- Whether a descriptor must wait for another one of its job, which an engine already has: one of them writes what the other, a
tile job or an update program, reads (R173, R196). DEDUCED (log entry 131). -/
def mustWait (s : State) (f : Front) : Bool :=
  let held := fun (cls : EngClass) (l : Tbl Nat Eng) => l.any (fun g => (g.2.run.toList ++ g.2.queue).any (fun w =>
    w.ctx == f.w.ctx && w.job == f.w.job &&
      (touches (s.writesOf f.cls f.w) (readsOf cls w) || touches (s.writesOf cls w) (readsOf f.cls f.w))))
  held .tile s.eng.tiles || held .yealm s.eng.yealms || held .update s.eng.updates

/-! ### Dispatch (R97, R121, R127, R161) -/

/-- The bytes that count for the dispatch of a descriptor: of a gather or a prefetch, the rows of this device's own part. -/
def frontLocs (s : State) (f : Front) : List (Nat × Nat × Nat) :=
  if (listBlocks f.cls f.w.desc).isEmpty then s.rangeLocs f.h f.w.ctx f.known (s.countedRanges f.cls f.w.desc)
  else match s.tableOf (yTable f.w.desc) with
    | some t => s.rowLocs f.h t (listRows f.w t)
    | none => []

/-- A tile job goes to its tile, or its gang is queued (R161, R162). -/
def tileQueue (s : State) (w : Work) (lead : Nat) (locs : List (Nat × Nat × Nat)) : State :=
  match s.gangWorks w lead (fun i => bytesOf locs (fun x => s.isSelf x.1 && stackOf x.2.1 == i)) with
  | [(i, x)] => s.enqueue (tileEng i) x
  | ws =>
      ws.foldl (fun s x => s.enqueue (tileEng x.1) { x.2 with sink := .gang lead }) { s with eng.gangs := s.eng.gangs ++ [⟨lead, ws⟩] }

/-- Give a descriptor to an engine or to the device that holds its operands (R97). Where no engine of its class is in service
it waits: no completion carries RETRY (R134, R169, R193). -/
def frontPlace (s : State) (id : Nat) (f : Front) : State :=
  let locs := s.frontLocs f
  let away := if f.cls == .yealm then none else s.awayNode f.w.ctx locs f.forwarded
  match away.filter (fun n => !s.mayLeave f.h n), away.bind (fun n => s.forwardJob n f.cls f.w) with
  | some _, _ => s
  | none, some s => s.dropFront id
  | none, none =>
      match s.chooseEngine f.cls locs (fun _ => true) with
      | none => s
      | some e => if f.cls == .tile then (s.dropFront id).tileQueue f.w e.idx locs else (s.dropFront id).enqueue e f.w

/-- A front end goes on with a descriptor, once what it asked for has come. -/
def frontGo (s : State) (id : Nat) : State :=
  match tget id s.eng.fronts with
  | none => s
  | some f =>
      if !f.await.isEmpty then s
      else if f.refused then (s.dropFront id).completeJob f.cls f.h f.w
      else if s.jobEnded f.w.ctx f.w.job then s.frontRefuse id .jobEnded 0 0
      else if s.mustWait f then s
      else s.frontPlace id f

/-- Take a descriptor that passed stage 1 (R97, R120, R168, R189). -/
def postJob (s : State) (cls : EngClass) (h : Half) (w : Work) (forwarded : Bool) : State :=
  let id := s.eng.nextFront
  let s := { s with eng.nextFront := id + 1, eng.fronts := tput id { cls := cls, w := w, h := h, forwarded := forwarded } s.eng.fronts }
  match s.refusalOf cls h w.ctx w.desc with
  | some (st, f, d) => s.frontRefuse id st f d
  | none => (s.frontAsk id).push (.post id)

end State
end Sys2Proof.Machine
end

