-- ==== Sys2Proof/Machine/Waest.lean ====
section
/-! DEFINITION. Answers of the dictionary (R436 to R439): the outcome of a request, its reply on the path it came by,
and the replies kept for each source. -/

namespace Sys2Proof.Machine

/-- What a dictionary request comes to; `later` when its reply is still to come. -/
structure Result where
  status : Status := .ok
  detail : Nat := 0
  fault : Nat := 0
  data : Bytes := []
  later : Bool := false
deriving DecidableEq, Repr

/-- Detail codes (R439). -/
def dNoObject : Nat := 0x20
def dLength : Nat := 0x21
def dMalformed : Nat := 0x22
def dReadOnly : Nat := 0x23
def dPath : Nat := 0x24
def dFenced : Nat := 0x25
def dBusy : Nat := 0x26
def dNoTrailer : Nat := 0x27
def dValue : Nat := 0x28

/-- An outcome with a status and a detail alone. -/
def outcome (st : Status) (detail : Nat := 0) : Result := { status := st, detail := detail }

/-- RETRY with detail BUSY. -/
def busy : Result := outcome .retry dBusy

/-- The source of a request for reassembly and the reply cache (R437): an address and port, an endpoint, or the
mailbox. -/
def srcOf (p : Pdu) : Path × Nat :=
  match p.path with
  | .mgmt _ => (.mgmt 0, p.src)
  | .i3c => (.i3c, p.src)
  | .mailbox _ _ _ => (.mailbox .west false 0, 0)

/-- Data bytes a PDU of a path may carry (R436). -/
def pduLimit (p : Pdu) : Nat :=
  match p.path with
  | .mgmt _ => 1160
  | _ => 4016

/-- Index whose counts belong to a management port (R434). -/
def mgmtIndex (p : Pdu) : Option Nat :=
  match p.path with
  | .mgmt i => some (0x1100 + i % 2)
  | _ => none

/-- The half a management port is in (R10). -/
def mgmtHalf (i : Nat) : Half := if i % 2 == 0 then .west else .east

/-- Whether a kept request is this one (R438). -/
def sameKept (k : Kept) (p : Pdu) (kind index sub : Nat) : Bool :=
  k.src = srcOf p && k.kind == kind && k.tag == p.tag && k.index == index && k.sub == sub && k.offset == p.offset &&
    k.data = p.data

namespace State

/-- Count something of the management port a request came by. -/
def countPort (s : State) (p : Pdu) (sub : Nat) : State :=
  match p.path with
  | .mgmt i => s.count (mgmtHalf i) (0x1100 + i % 2) sub
  | _ => s

/-- Send a reply where the request came from (R298, R435). -/
def sendWaest (s : State) (p : Pdu) (r : WReply) : State :=
  match p.path with
  | .mailbox e hv _ =>
      { s with mgm.mailbox := s.mgm.mailbox.erase p.src }.toCompanion e hv (.mailbox p.src r)
  | _ => (s.countPort p 6).emit (.waest p.path p.src r)

/-- Keep the replies to a source's last 64 tags; a reply of class T is not kept (R438). -/
def keepReply (s : State) (p : Pdu) (kind index sub : Nat) (r : Option WReply) : State :=
  let rest : List Kept := s.mgm.kept.filter (fun (k : Kept) => !sameKept k p kind index sub)
  let transient := match r with
    | some (w : WReply) => w.status == Status.retry
    | none => false
  if transient then { s with mgm.kept := rest }
  else
    let tags := (rest.filter (fun (k : Kept) => k.src = srcOf p)).foldl (fun (l : List Nat) k => addOnce k.tag l) []
    let rest := if !tags.contains p.tag && 64 ≤ tags.length
      then rest.filter (fun (k : Kept) => !(k.src = srcOf p && k.tag == tags.headD 0)) else rest
    { s with mgm.kept := rest ++ [⟨srcOf p, kind, p.tag, index, sub, p.offset, p.data, r⟩] }

/-- The reply PDU of an outcome. -/
def replyPdu (p : Pdu) (index sub : Nat) (x : Result) (offset total : Nat) : WReply :=
  { tag := p.tag, index := index, sub := sub, status := x.status, detail := x.detail, fault := x.fault,
    offset := offset, total := total, data := x.data }

/-- Answer a write or command, now or when its effect has come. -/
def answerWrite (s : State) (p : Pdu) (index sub : Nat) (x : Result) : State :=
  if x.later then s.keepReply p 2 index sub none
  else
    let r := replyPdu p index sub x 0 x.data.length
    (s.keepReply p 2 index sub (some r)).sendWaest p r

end State
end Sys2Proof.Machine
end

