-- ==== Sys2Proof/WellFormed.lean ====
section
/-! DEFINITION. What a sender can put on the pins: every field fits its place in the packet, message, PDU or event
(R294, R312, R436), and every unit named exists on the part (R10). A packet whose length does not match its type, or
whose access leaves its page, is well formed here: the device answers it by R57, R296 and R314. -/

namespace Sys2Proof

def portOk (p : Nat) : Bool := p < 32
def nodeOk (n : Nat) : Bool := n < 2 ^ 14
def ctxOk (c : Nat) : Bool := c < 2 ^ 10
def jobOk (j : Nat) : Bool := j < 2 ^ 16
def courseOk (c : Nat) : Bool := c < 2 ^ 48
def ckOk (c : CheckId) : Bool := nodeOk c.node && c.serial < 2 ^ 32

def Transit.wf (t : Transit) : Bool := nodeOk t.dst && t.hop < 16

def viaOk : Via → Bool
  | .port p => portOk p
  | .batch p => portOk p
  | .geled _ _ => true
  | .onward p t => portOk p && t.wf

/-- The header fields of a request (R294, R312). -/
def Req.wf (q : Req) : Bool :=
  viaOk q.via && ctxOk q.ctx && jobOk q.job && q.tag < 2 ^ 20 && nodeOk q.src && q.sid < 256 && nodeOk q.dst &&
  q.addr < 2 ^ 62 && q.size < 512 && q.len < 4096 && q.rc < 16 && ckOk q.ck && q.hop < 16 && q.aop < 256 &&
  q.data.length ≤ 256 && q.pz < 4 && q.st < 4 && q.seg < 65536 && q.agentTag < 2 ^ 16

/-- The operation field of an atomic request names this row's operation (R283, R284). -/
def Req.isAop (q : Req) (n : Nat) : Bool := q.aop % 16 == n

def Rsp.wf (r : Rsp) : Bool :=
  nodeOk r.src && r.sid < 256 && r.tag < 2 ^ 20 && portOk r.port && r.status < 256 && r.fault < 256 && r.stall < 8 &&
  r.ld < 16 && r.data.length ≤ 256 && r.tg < 256 && r.pz < 2 ^ 16 && ckOk r.ck && (r.loc.all nodeOk) && r.seg < 65536 && r.st < 4 && r.grant < 4 && r.on.all Transit.wf

def Trailer.wf (t : Trailer) : Bool := t.slot < 256 && t.counter < 2 ^ 64 && t.tag.length == 32

def Path.wf : Path → Bool
  | .mgmt p => p < 2
  | .i3c => true
  | .mailbox _ _ c => ctxOk c

/-- The fields of a PDU (R436). -/
def Pdu.wf (p : Pdu) : Bool :=
  p.path.wf && p.magic < 2 ^ 16 && p.version < 256 && p.tag < 2 ^ 16 && p.flags < 256 && p.offset < 2 ^ 32 &&
  p.total < 2 ^ 32 && p.data.length < 2 ^ 16 && p.trailer.all Trailer.wf

/-- A descriptor with its header (R119, R155, R177), of any length a packet or message has: the device refuses a wrong one (R296,
R314). -/
def Submit.wf (j : Submit) : Bool :=
  viaOk j.via && ctxOk j.ctx && jobOk j.job && j.tag < 2 ^ 20 && j.desc.length ≤ 32760

/-- Operation of a yealm descriptor (R119). -/
def Submit.yealmOp (j : Submit) : Nat := (j.desc.headD 0).toNat % 16

def EngClass.size : EngClass → Nat
  | .yealm => 64
  | .tile => 128
  | .update => 256

/-- Number of engines of a class (R10). -/
def EngClass.count : EngClass → Nat
  | .tile => 16
  | .yealm => 32
  | .update => 32

def Engine.wf (e : Engine) : Bool := e.idx < e.cls.count

def IntegrityMsg.wf (m : IntegrityMsg) : Bool :=
  viaOk m.via && nodeOk m.src && m.sid < 256 && m.reason < 16 && ctxOk m.ctx && jobOk m.job && nodeOk m.node &&
  m.serial < 2 ^ 32 && courseOk m.course

def Link.wf : Link → Bool
  | .port p => portOk p
  | .geled _ => true

def Codeword.wf (c : Codeword) : Bool := c.lane < 18 && c.bytes.length == 272

def TrainRec.wf (r : TrainRec) : Bool := nodeOk r.node && r.port < 256 && r.role < 256 && r.stepping < 256 && r.good < 2 ^ 16

/-- Lines of one stack (R17). -/
def stackLines : Nat := 0x1800000000 / 128

/-- An error met in stack s: its line or byte is in that stack. -/
def StackError.wf (s : Nat) : StackError → Bool
  | .corrected l => s * stackLines ≤ l && l < (s + 1) * stackLines
  | .uncorrectable l => s * stackLines ≤ l && l < (s + 1) * stackLines
  | .altered off _ => s * 0x1800000000 ≤ off && off < (s + 1) * 0x1800000000

/-- Whether a near line exists. -/
def lineOk (l : Nat) : Bool := l < 16 * stackLines

def PartEntry.wf (x : PartEntry) : Bool := x.row < 2 ^ 64 && x.bag < 2 ^ 24

def DebugAccess.wf : DebugAccess → Bool
  | .read _ a => a < 2 ^ 32
  | .write _ a v => a < 2 ^ 32 && v < 2 ^ 32
  | _ => true

def Part.wf (x : Part) : Bool :=
  viaOk x.via &&
  nodeOk x.src && x.sid < 256 && x.tag < 2 ^ 20 && ctxOk x.ctx && jobOk x.job && x.desc.length == 64 &&
  x.tableTag < 2 ^ 32 && x.partNo < 2 ^ 16 && x.entries.all PartEntry.wf

def PartAnswer.wf (x : PartAnswer) : Bool :=
  viaOk x.via && x.ld < 16 && x.stall < 8 &&
  nodeOk x.src && x.tag < 2 ^ 20 && x.partNo < 2 ^ 16 && x.status < 256 && x.loc.all nodeOk

def RowUpdate.wf (x : RowUpdate) : Bool :=
  viaOk x.via &&
  nodeOk x.src && x.sid < 256 && x.tag < 2 ^ 20 && ctxOk x.ctx && jobOk x.job && x.table < 128 && x.row < 2 ^ 48 &&
  x.vfmt < 256 && x.seq < 2 ^ 32 && x.pos < 2 ^ 20 && ckOk x.ck && x.rc < 16 && x.data.length ≤ 4096

/-- An atomic row holds its own operation. -/
def Req.wfAtomic (q : Req) (n : Nat) : Bool := q.wf && q.isAop n

/-- ADD also stands for the reserved operations 0 and 13 to 15, which R285 refuses. -/
def Req.wfAdd (q : Req) : Bool := q.wf && (q.isAop 1 || q.isAop 0 || 13 ≤ q.aop % 16)

/-- The fields of a packet. -/
def Inner.wf : Inner → Bool
  | .mem op q => (match op with
    | .read | .write | .atomic | .bget | .bput | .rds | .rdo | .upg | .wbd | .evc => q.wf
    | .caprel | .pub | .rowAdd | .rowSet => false)
  | .caprel src sid job tag status => nodeOk src && sid < 256 && jobOk job && tag < 2 ^ 20 && status < 256
  | .rsp r => r.wf
  | .bdata r => r.wf
  | .bdone r => r.wf
  | .srsp r => viaOk r.via && r.agentTag < 2 ^ 16 && r.line < 2 ^ 55 && r.data.length ≤ 128 && ctxOk r.ctx && jobOk r.job && ckOk r.ck
  | .submit _ j => j.wf
  | .forwarded src sid _ j => nodeOk src && sid < 256 && j.wf
  | .part x => x.wf
  | .partAnswer x => x.wf
  | .rowUpdate x => x.wf
  | .integrity op m => op < 16 && m.wf
  | .invalidation src op ctx seq addr pages => nodeOk src && op < 16 && ctxOk ctx && seq < 2 ^ 32 && addr < 2 ^ 64 && pages < 2 ^ 32
  | .invalidationAck src seq => nodeOk src && seq < 2 ^ 32
  | .hint src payload => nodeOk src && payload.length == 24
  | .spaceRequest src ctx ga => nodeOk src && ctxOk ctx && ga < 2 ^ 62
  | .pub q region version node => q.wf && region < 2 ^ 16 && version < 2 ^ 32 && nodeOk node
  | .spaceAnswer src ga _ => nodeOk src && ga < 2 ^ 62
  | .frameRequest src t n ga => nodeOk src && t < 128 && n < 2 ^ 40 && ga < 2 ^ 62
  | .frameAnswer src t n ga _ => nodeOk src && t < 128 && n < 2 ^ 40 && ga < 2 ^ 62
  | .fencePlaced src ga pages => nodeOk src && ga < 2 ^ 62 && pages < 2 ^ 32
  | .fenceDone src ga pages drops => nodeOk src && ga < 2 ^ 62 && pages < 2 ^ 32 && drops.all (fun d => jobOk d.1 && d.2 < 2 ^ 32)
  | .portState src node _ rcvd => nodeOk src && nodeOk node && rcvd < 2 ^ 32
  | .course n => courseOk n
  | .onward t x => t.wf && x.wf

/-- Commands a sender can form, by the fields each row carries. -/
def Instr.wf : Instr → Bool
  | .courseBeaconEdge _ => true
  | .courseMessage _ via c => viaOk via && courseOk c
  | .beaconSilenceTimeout _ => true
  | .contextDescriptorWrite _ c sub p => 1 ≤ c && ctxOk c && sub < 256 && p.wf
  | .read _ q => q.wf
  | .write _ q => q.wf
  | .walkReadResponse _ r => r.wf
  | .mismatchRecordExpiry _ _ src sid tag block => nodeOk src && sid < 256 && tag < 2 ^ 20 && block < 2 ^ 50
  | .add _ q => q.wfAdd
  | .smin _ q => q.wfAtomic 2
  | .smax _ q => q.wfAtomic 3
  | .umin _ q => q.wfAtomic 4
  | .umax _ q => q.wfAtomic 5
  | .and _ q => q.wfAtomic 6
  | .or _ q => q.wfAtomic 7
  | .xor _ q => q.wfAtomic 8
  | .swap _ q => q.wfAtomic 9
  | .cas _ q => q.wfAtomic 10
  | .fadd _ q => q.wfAtomic 11
  | .vadd _ q => q.wfAtomic 12
  | .bget _ q => q.wf
  | .bputSegment _ q => q.wf
  | .bdataSegment _ r => r.wf
  | .bdone _ r => r.wf
  | .caprel _ via src sid job tag status => viaOk via && nodeOk src && sid < 256 && jobOk job && tag < 2 ^ 20 && status < 256
  | .rsp _ r => r.wf
  | .homeBlockCheck _ ga errs => ga < 2 ^ 62 && errs.all (StackError.wf (ga % 2 ^ 48 / 0x1800000000))
  | .stallThreshold _ sid tag _ => sid < 256 && tag < 2 ^ 20
  | .fallbackThreshold _ sid tag => sid < 256 && tag < 2 ^ 20
  | .invalidation _ via src tag op ctx seq addr pages => viaOk via && nodeOk src && tag < 2 ^ 20 && op < 16 && ctxOk ctx && seq < 2 ^ 32 && addr < 2 ^ 64 && pages < 2 ^ 32
  | .invalidationAck _ via src seq => viaOk via && nodeOk src && seq < 2 ^ 32
  | .grant _ p => p.wf
  | .zeroingComplete _ n => n < 1024
  | .revoke _ p => p.wf
  | .revocationDrainEnd _ n => n < 1024
  | .revocationDrainLimit _ n => n < 1024
  | .acknowledge _ p => p.wf
  | .regionCommand _ p => p.wf
  | .shelfGrant _ p => p.wf
  | .fallbackRecordCommand _ p => p.wf
  | .placementHint _ h payload => (match h with
      | .msg via src => viaOk via && nodeOk src
      | .object p => p.wf) && payload.length == 24
  | .spaceRequest _ src ctx ga => viaOk src.via && nodeOk src.node && ctxOk ctx && ga < 2 ^ 62
  | .spaceAnswer _ src ga _ => viaOk src.via && nodeOk src.node && ga < 2 ^ 62
  | .pageCopyComplete _ ga => ga < 2 ^ 62
  | .fencePlacedCopies _ src ga pages => viaOk src.via && nodeOk src.node && ga < 2 ^ 62 && pages < 2 ^ 32
  | .fenceDone _ src ga pages drops => viaOk src.via && nodeOk src.node && ga < 2 ^ 62 && pages < 2 ^ 32 && drops.all (fun d => jobOk d.1 && d.2 < 2 ^ 32)
  | .frameRequest _ src t n ga => viaOk src.via && nodeOk src.node && t < 128 && n < 2 ^ 40 && ga < 2 ^ 62
  | .frameAnswer _ src t n ga _ => viaOk src.via && nodeOk src.node && t < 128 && n < 2 ^ 40 && ga < 2 ^ 62
  | .forwardedJob _ src sid _ j => nodeOk src && sid < 256 && j.wf
  | .tableDefinition _ p => p.wf
  | .tableFree _ p => p.wf
  | .gather _ j => j.wf && (j.yealmOp == 1 || j.yealmOp == 0 || 5 ≤ j.yealmOp)
  | .scatterAdd _ j => j.wf && j.yealmOp == 2
  | .scatterSet _ j => j.wf && j.yealmOp == 3
  | .prefetch _ j => j.wf && j.yealmOp == 4
  | .partRequest _ x => x.wf
  | .partAnswer _ x => x.wf
  | .rowUpdate _ x => x.wf
  | .rowBlockCopyComplete _ t b => t < 128 && b < 2 ^ 48
  | .tileJob _ j => j.wf
  | .gangStart _ leader => leader < 16
  | .partialAccumulator _ leader member p n => leader < 16 && member < 16 && p < 2 ^ 32 && n < 2 ^ 32
  | .panelDelivery _ tile panel => tile < 16 && panel < 2 ^ 32
  | .checkVerdict _ tile upset => tile < 16 && upset.all (fun x => x.1 < 4096 && x.2.1 < 256)
  | .recomputationComplete _ tile upset => tile < 16 && upset.all (fun x => x.1 < 4096 && x.2.1 < 256)
  | .updateProgram _ j => j.wf
  | .windowComplete _ unit => unit < 32
  | .confirm _ m => m.wf
  | .confirmSend _ serial => serial < 2 ^ 32
  | .retract _ m => m.wf
  | .jobEnd _ m => m.wf
  | .courseCommit _ m => m.wf
  | .holdWaitResume _ _ => true
  | .reopen _ p => p.wf
  | .courseCommitCommand _ p => p.wf
  | .jobRecordQuery _ p => p.wf
  | .register _ p => p.wf
  | .deregister _ p => p.wf
  | .deregistrationWalkEnd _ a => a < 64
  | .domainModeCommand _ p => p.wf
  | .domainRebuild _ p => p.wf
  | .rebuildProceed _ => true
  | .publicationRegionDefine _ p => p.wf
  | .publicationRegionFree _ p => p.wf
  | .rds _ q => q.wf
  | .rdo _ q => q.wf
  | .upg _ q => q.wf
  | .wbd _ q => q.wf
  | .evc _ q => q.wf
  | .srsp _ r => viaOk r.via && r.agentTag < 2 ^ 16 && r.line < 2 ^ 55 && r.data.length ≤ 128 && ctxOk r.ctx && jobOk r.job && ckOk r.ck
  | .pub _ q region version node => q.wf && region < 2 ^ 16 && version < 2 ^ 32 && nodeOk node
  | .publishReady _ src sid job tag => nodeOk src && sid < 256 && jobOk job && tag < 2 ^ 20
  | .pq _ _ fseq tag _ line _ => fseq < 2 ^ 16 && tag < 2 ^ 16 && line < 2 ^ 55
  | .snoopTimeout _ _ line => lineOk line
  | .reclaimWalkEnd _ a => a < 64
  | .agedHeadTimeout _ _ line => lineOk line
  | .geledFrame _ _ fseq creq crsp ccoh cctl _ query units => fseq < 2 ^ 16 && creq < 4096 && crsp < 4096 && ccoh < 4096 && cctl < 4096 && query < 2 ^ 64 &&
      units.length ≤ 98 && units.all (fun u => u < 2 ^ 64)
  | .endWidthChange _ _ good => good ≤ 18
  | .endLost _ _ => true
  | .endLostMessage _ _ _ fseq => fseq < 2 ^ 16
  | .linkLossTimeout _ => true
  | .registerWrite _ _ _ tag _ off _ => tag < 2 ^ 16 && off < 2 ^ 24 && off % 4 == 0
  | .snapshot _ _ _ tag _ => tag < 2 ^ 16
  | .snapshotBoth _ _ _ tag _ => tag < 2 ^ 16
  | .evtStatClear _ _ _ tag _ _ => tag < 2 ^ 16
  | .mailboxRequest _ _ _ ctx tag pdu => ctxOk ctx && tag < 2 ^ 16 && 24 ≤ pdu.length && pdu.length ≤ 4088
  | .linkWord _ p a b c d => portOk p && a < 65536 && b < 65536 && c < 65536 && d < 65536
  | .batch _ p near bseq vc units inner => portOk p && nodeOk near && bseq < 2 ^ 32 && vc < 4 && units ≤ 8192 && inner.all Inner.wf
  | .batchAck _ p bseq => portOk p && bseq < 2 ^ 32
  | .batchCloseTime _ p vc => portOk p && vc < 4
  | .portState _ src node _ rcvd => viaOk src.via && nodeOk src.node && nodeOk node && rcvd < 2 ^ 32
  | .portDown _ p => portOk p
  | .portUp _ p => portOk p
  | .loadLevelRecompute _ => true
  | .flashReceived _ l cws => l.wf && cws.length ≤ 18 && cws.all Codeword.wf
  | .replayTimeout _ l => l.wf
  | .spareRequest _ l log phy sw => l.wf && log < 16 && phy < 18 && sw < 2 ^ 16
  | .spareAnswer _ l log phy sw => l.wf && log < 16 && phy < 18 && sw < 2 ^ 16
  | .widthRequest _ l width sw => l.wf && width < 32 && sw < 2 ^ 16
  | .widthAnswer _ l width sw => l.wf && width < 32 && sw < 2 ^ 16
  | .retrainRequest _ l phy => l.wf && phy < 18
  | .plannedDown _ l => l.wf
  | .plannedDownAnswer _ l => l.wf
  | .powerReport _ l txp oma => l.wf && txp.length ≤ 18 && oma.length ≤ 18
  | .powerReportSend _ l txp => l.wf && txp.length ≤ 18
  | .laneMessageResend _ l => l.wf
  | .linkTrainingStart _ l => l.wf
  | .trainingStepDone _ lane step _ _ r => lane < 324 && step < 16 && r.wf
  | .trainingRepeat _ l => l.wf
  | .laneDeclaredBad _ lane => lane < 324
  | .badLaneRetry _ lane => lane < 324
  | .laserModuleFlag _ m laser ratio _ => m < 9 && laser < 18 && ratio < 65536
  | .laserModuleDrain _ p => p.wf
  | .laserDrainCancel _ p => p.wf
  | .laserDrainComplete _ m => m < 9
  | .moduleRemoved _ m => m < 9
  | .modulePresent _ m bol hours => m < 9 && bol.length ≤ 18 && hours < 2 ^ 32
  | .moduleWarm _ m bias temp => m < 9 && bias.length ≤ 18 && temp < 2 ^ 16
  | .scrub _ s errs => s < 16 && errs.all (StackError.wf s)
  | .directoryScrub _ _ bad => bad.all lineOk
  | .channelFailure _ s ch unreadable => s < 16 && ch < 32 && unreadable.all lineOk
  | .spareCopyComplete _ s unreadable => s < 16 && unreadable.all lineOk
  | .fieldTestDue _ e => e.wf
  | .fieldTestForced _ e => e.wf
  | .dormerSlot _ e => e.wf
  | .fieldTestComplete _ e _ step sig => e.wf && step < 65536 && sig < 2 ^ 32
  | .fieldTestRequest _ p => p.wf
  | .peerProbe _ _ => true
  | .probeTimeout _ _ node => nodeOk node
  | .requestUnanswered _ sid tag => sid < 256 && tag < 2 ^ 20
  | .peerSilence _ node => nodeOk node
  | .expelNow _ p => p.wf
  | .readmitNow _ p => p.wf
  | .clearSuspect _ p => p.wf
  | .returnEngine _ p => p.wf
  | .leaseRecord _ _ _ seq course => seq < 2 ^ 32 && courseOk course
  | .lockstepMismatch _ _ => true
  | .halfControllerRestarted _ _ => true
  | .purlinHeartbeat _ _ => true
  | .purlinLost _ => true
  | .purlinRetrain _ => true
  | .purlinRejoin _ => true
  | .admission _ p => p.wf
  | .admissionTestingDone _ _ => true
  | .admissionLoadingDone _ _ => true
  | .announceAck _ sub tag idx => sub < 4 && tag < 65536 && idx < 65536
  | .announceResend _ sub seq => sub < 4 && seq < 2 ^ 32
  | .monitorSample _ rails junctions power => rails.length == 7 && rails.all (fun r => r.1 < 2 ^ 32 && r.2 < 2 ^ 32) && junctions.length ≤ 64 && power < 65536
  | .referenceClockLost _ _ _ => true
  | .referenceClockReturn _ => true
  | .enclaveLockstepMismatch _ => true
  | .enclaveRestarted _ _ => true
  | .segment _ p => p.wf
  | .verify _ p => p.wf
  | .activate _ p => p.wf
  | .commitSvn _ p => p.wf
  | .liveUpdateStageDone _ => true
  | .liveUpdateRevert _ => true
  | .getVersion _ eid => eid < 256
  | .getCapabilities _ eid => eid < 256
  | .negotiateAlgorithms _ eid => eid < 256
  | .getDigests _ eid => eid < 256
  | .getCertificate _ eid slot offset length => eid < 256 && slot < 16 && offset < 65536 && length < 65536
  | .challenge _ eid slot nonce => eid < 256 && slot < 16 && nonce.length == 32
  | .getMeasurements _ eid op _ nonce => eid < 256 && op < 256 && (nonce.length == 32 || nonce.isEmpty)
  | .install _ p => p.wf
  | .keyRevoke _ p => p.wf
  | .releaseOwnership _ p => p.wf
  | .debugUnlock _ p _ => p.wf
  | .selfTestRun _ p _ => p.wf
  | .waestRead _ p index sub => p.wf && index < 65536 && sub < 256
  | .waestDescribe _ p index sub => p.wf && index < 65536 && sub < 256
  | .objectWrite _ p index sub => p.wf && index < 65536 && sub < 256
  | .slateActivate _ p => p.wf
  | .slateDiscard _ p => p.wf
  | .pendingRead _ p => p.wf
  | .slateHeaderWritten _ => true
  | .setEndpointId _ src eid => src < 256 && eid < 256
  | .getEndpointId _ src => src < 256
  | .getMctpVersionSupport _ src typ => src < 256 && typ < 256
  | .getMessageTypeSupport _ src => src < 256
  | .i3cDynamicAddress _ addr => addr < 128
  | .resetRelease _ addr _ => addr < 128
  | .reset _ => true
  | .clockLock _ => true
  | .enclaveBootDone _ _ => true
  | .slateSelection _ => true
  | .stackInitialisationDone _ failed => failed.all (fun x => x.1 < 16 && x.2 < 32)
  | .opticalTrainingDone _ => true
  | .purlinBringupRetry _ _ => true
  | .ridgeInitialisation _ => true
  | .firstFieldTestsDone _ failed => failed.all Engine.wf
  | .joinComplete _ => true
  | .powerLoss _ => true
  | .streamUnfollowable _ p => portOk p
  | .entropyHealthTestFailure _ => true
  | .managementPortLinkChange _ p _ _ => p < 2
  | .debugPortAccess _ a _ _ => a.wf

end Sys2Proof
end

