-- ==== Sys2Proof/Machine/Settle.lean ====
section
/-! DEFINITION. What follows inside one command: requests resent after RETRY, endings of jobs, confirmation and
retraction of groups (R211 to R230), and the engines' work, until nothing is left to do. -/

namespace Sys2Proof.Machine
namespace State

/-! ### Endings (R211, R212, R229) -/

/-- A waiting course commit is answered (R229). -/
def commitDone (s : State) (w : CommitWait) (st : Status) : State :=
  match w.reply with
  | some p => s.answerWrite p 0x3FC0 2 (outcome st)
  | none => s

/-- Record a committed course, if it is greater than the recorded one (R229). -/
def recordCourse (s : State) (c j course : Nat) : State :=
  let s := s.ensureJob c j
  match tget (c, j) s.itg.jobs with
  | some r =>
      if r.course == noCourse || r.course < course then
        { s with itg.jobs := tput (c, j) { r with course := course } s.itg.jobs }
      else s
  | none => s

/-- Answer every commit of a job that waits. -/
def answerCommits (s : State) (c j : Nat) (st : Status) : State :=
  let mine := s.itg.commits.filter (fun w => w.ctx == c && w.job == j)
  let s := { s with itg.commits := s.itg.commits.filter (fun w => !(w.ctx == c && w.job == j)) }
  mine.foldl (fun s w => s.commitDone w st) s

/-- Commits of jobs that no longer have an open group complete OK (R229). -/
def settleCommits (s : State) : State :=
  let go := s.itg.commits.filter (fun w => !s.tainted w.ctx w.job && !s.jobEnded w.ctx w.job)
  let s := { s with itg.commits := s.itg.commits.filter (fun w => !go.contains w) }
  go.foldl (fun s w => (s.recordCourse w.ctx w.job w.course).commitDone w .ok) s

/-- Mark a job's record ended (R211, R216). -/
def markEnded (s : State) (c j reason : Nat) : State :=
  let s := s.ensureJob c j
  match tget (c, j) s.itg.jobs with
  | some r =>
      { s with itg.jobs := tput (c, j) { r with ended := true, reason := reason, endedAt := s.itg.clock } s.itg.jobs,
               itg.clock := s.itg.clock + 1 }
  | none => s

/-- End a job at this device (R211, R212, R214, R281). `tell` holds the hosts to inform, for the first two causes. -/
def endJobNow (s : State) (c j reason : Nat) (tell : Option (List Party)) : State :=
  if j == 0xFFFF || s.jobEnded c j then s
  else
    let s := (s.markEnded c j reason).count s.holder 0x4080 6
    let s := s.answerCommits c j .jobEnded
    let s := match s.openGroupOf c j with
      | some (_, g) => s.push (.retract (s.idOf g))
      | none => s
    let s := s.dropCaps (fun a => a.q.ctx == c && a.q.job == j) true
    let s := s.pushAll ((s.jobEngines c j).map (fun e => Task.wake e) ++ s.eng.fronts.map (fun (f : Nat × Front) => Task.post f.1))
    match tell with
    | some hosts => s.tellJobEnd c j reason hosts
    | none => s

/-! ### Retraction and confirmation (R227, R228) -/

/-- Drop the writes and publishes held under a check ID (R226, R228, R229). -/
def dropHeld (s : State) (id : CheckId) : State :=
  [Half.west, Half.east].foldl (fun s h =>
    let mine := fun (w : Held) => w.acc.q.u && w.acc.q.ck = id
    let gone := (s.half h).held.filter mine
    let s := s.modHalf h (fun x => { x with held := x.held.filter (fun w => !mine w) })
    gone.foldl (fun s w =>
      let s := if w.acc.op == .pub then s else s.count h 0x4080 0xF
      (s.answer h w.acc { status := .unconfirmedRetracted }).push (.behind w.acc.q.src w.acc.q.sid)) s) s

/-- Send an integrity message of a group to each receiver (R215, R227). -/
def tellReceivers (s : State) (op c j : Nat) (id : CheckId) (receivers : List Nat) : State :=
  receivers.foldl (fun s n => s.sendIntegrity (.node n 0xF0) op 0 c j id.node id.serial 0) s

/-- A write under a check ID that this device has still to send to a node: in the switch, to be sent again, or waiting for the
credits of a port. -/
def unsentUnder (s : State) (id : CheckId) (n : Nat) : Bool :=
  let mine := fun (q : Req) => q.u && q.ck = id
  let pkt := fun (x : Pkt) => x.dst == n && (match x.m with
    | .request _ q | .publish q _ _ => mine q
    | .rowUpdate x => x.u && x.ck = id
    | _ => false)
  s.eng.outs.any (fun o => !o.sent && o.node == n && mine o.acc.q) || s.eng.retries.any (fun a => mine a.q) ||
  s.fab.ports.any (fun p => p.2.queue.any pkt || p.2.batches.any (fun b => b.inner.any pkt))

/-- Send the retract messages that no earlier write of their group to the same receiver is behind (R228). -/
def sendRetracts (s : State) : State :=
  let go := s.itg.retracts.filter (fun x => !s.unsentUnder x.1 x.2.2.2)
  go.foldl (fun s x => s.sendIntegrity (.node x.2.2.2 0xF0) 2 0 x.2.1 x.2.2.1 x.1.node x.1.serial 0)
    { s with itg.retracts := s.itg.retracts.filter (fun x => s.unsentUnder x.1 x.2.2.2) }

/-- Retract a check ID: the group of this device that has it, the groups and held writes that depend on it (R228). -/
def retractNow (s : State) (id : CheckId) : State :=
  let s := { s with itg.retracted := addOnce id s.itg.retracted }
  let s := match s.itg.groups.find? (fun g => g.2.phase == 0 && s.idOf g.2 = id) with
    | none => s
    | some (i, g) =>
        let hosts := s.jobHosts g.ctx g.job
        let s := s.sweep g.blocks 2
        let s := { s with itg.groups := tdel i s.itg.groups }.count s.holder 0x4080 0xD
        let s := { s with itg.retracts := s.itg.retracts ++ g.receivers.map (fun n => (id, g.ctx, g.job, n)) }.sendRetracts
        (s.answerCommits g.ctx g.job .unconfirmedRetracted).push (.endJob g.ctx g.job 3 (some hosts))
  let deps := s.itg.groups.filter (fun g => g.2.phase == 0 && g.2.deps.contains id)
  (s.dropHeld id).pushAll (deps.map (fun g => Task.retract (s.idOf g.2)))

/-- A check ID is confirmed, here or by a confirm message: it leaves every set, its held writes are applied in arrival
order, and its publishes wait for it no longer (R227, R262). -/
def confirmNow (s : State) (id : CheckId) : State :=
  let hit := (s.itg.groups.filter (fun g => g.2.phase == 0 && g.2.deps.contains id)).map (·.1)
  let s := hit.foldl (fun s i =>
    match tget i s.itg.groups with
    | some g => ({ s with itg.groups := tput i { g with deps := g.deps.filter (· ≠ id) } s.itg.groups }).checkGroup i
    | none => s) s
  let (held, s) := s.takeHeld id
  let s := s.pushAll (held.map (fun w => Task.home { w.2.acc with hold := true }))
  let free := fun (w : Held) => if w.acc.op == .pub && w.acc.q.u && w.acc.q.ck = id then
    { w with bytes := 0, acc := { w.acc with q := { w.acc.q with u := false } } } else w
  (s.modBoth (fun x => { x with held := x.held.map free })).settleCommits

/-! ### The loop -/

/-- A request answered RETRY is sent again, with its retry count raised (R251). -/
def again (a : Acc) : Acc := { a with passed := false, waited := false, q := { a.q with rc := min 15 (a.q.rc + 1) } }

/-- A request that is to be performed here goes to its home half, or to where its page has gone meanwhile. -/
def goHome (s : State) (a : Acc) : State :=
  if a.q.job != 0xFFFF && s.switching a.ga then s.hold (.home a)
  else match s.locateHere a.ga with
  | .near off => s.homeGo a off
  | .at' n => s.forward a n
  | .moved n => s.finish a { status := .retry, sv := true, stall := 4, loc := some n }
  | .stale => s.finish a { status := .retry, sv := true, stall := 4 }

/-- An answer for an engine. -/
def engDeliver (s : State) (e : Engine) (key : Nat) (r : Reply) : State :=
  match e.cls with
  | .tile => s.tileDeliver e key r
  | .yealm => s.yealmDeliver e key r
  | .update => s.updateDeliver e key r

/-- Let an engine go on. -/
def engStep (s : State) (e : Engine) : State :=
  match e.cls with
  | .tile => s.tileStep e
  | .yealm => s.yealmStep e
  | .update => s.updateStep e

/-- One piece of work. -/
def task (s : State) (t : Task) : State :=
  match t with
  | .arrive a => s.toSwitch a
  | .home a => s.goHome a
  | .walk id => s.walkStep id
  | .endJob c j r tell => s.endJobNow c j r tell
  | .retract id => s.retractNow id
  | .confirm id => s.confirmNow id
  | .capFree src sid j tag st => s.capFree src sid j tag st
  | .deliver e k r => s.engDeliver e k r
  | .wake e => s.engStep e
  | .fronted id k r => s.frontAnswer id k r
  | .post id => s.frontGo id
  | .behind src sid => s.behindGo src sid
  | .copied page k st blks => s.copyStep page k st blks
  | .rowCopied t b k st blks => s.rowStep t b k st blks
  | .loaded i ga st blks => s.rangeLoaded i ga st blks

/-- Work until nothing is left, at most n pieces. -/
def work : Nat → State → State
  | 0, s => s
  | n + 1, s =>
      match s.todo with
      | [] => s
      | t :: r => work n ({ s with todo := r }.task t)

/-- The bound on the work of one command; what it leaves is done with the next command (log entry 22). -/
def workBound : Nat := 65536

/-- Send again what was answered RETRY at an earlier command (R56, R134, R169, R193), and look again at what a front end could not
give to an engine. -/
def resend (s : State) : State :=
  { s with eng.retries := [] }.pushAll (s.eng.retries.map (fun a => Task.arrive (again a)) ++ s.eng.fronts.map (fun (f : Nat × Front) => Task.post f.1))

/-- An effect with everything that follows from it; what a switchover or a fence has let go follows too. -/
def settle (s : State) : State := ((s.resend.work workBound).endFences.work workBound).sendRetracts

/-! ### What a half's registers show of a change (R463 to R465) -/

def portsOf (h : Half) : List Nat := (List.range 16).map (fun i => 16 * h.num + i)

def modulesOf (h : Half) : List Nat := (List.range 5).map (fun i => 4 * h.num + i)

/-- The events of R465 that show as a difference of two states; the others are raised where they happen. -/
def evtBits (a b : State) (h : Half) : BitVec 32 :=
  let bit := fun (n : Nat) (p : Bool) => if p then 1#32 <<< n else 0#32
  let lit := fun (s : State) (p : Nat) => (tgetD p {} s.fab.ports).link.up
  let out := fun (s : State) (e : Engine) => (s.engOf e).state != 0
  bit 4 ((a.half h).leaseHolder != (b.half h).leaseHolder) ||| bit 5 (a.avl.purlinUp && !b.avl.purlinUp) |||
  bit 6 (!a.avl.purlinUp && b.avl.purlinUp) ||| bit 7 (a.rdg.mode != b.rdg.mode) |||
  bit 8 ((a.geled h).st != (b.geled h).st || (a.geled h).half != (b.geled h).half) |||
  bit 9 ((portsOf h).any (fun p => lit a p != lit b p)) |||
  bit 10 ((classEngines .tile h ++ classEngines .yealm h ++ classEngines .update h).any (fun e => out a e != out b e)) |||
  bit 11 (a.mgm.update != b.mgm.update) |||
  bit 13 ((modulesOf h).any (fun m => (tgetD m {} a.opt.modules).st != (tgetD m {} b.opt.modules).st))

/-- A half's registers after a command: events noted, and the values that a restarting pair maintains, or that come
from the other half, kept while they cannot be renewed. -/
def noteRegs (a b : State) (h : Half) (x : HalfSt) : HalfSt :=
  let r := { x.regs with evtStat := x.regs.evtStat ||| evtBits a b h, farRst := if b.avl.purlinUp then !(b.half h.other).running else x.regs.farRst }
  { x with regs := if x.running then { r with shownPhase := b.phase, shownDomain := b.rdg.mode, shownHolder := x.leaseHolder } else r }

/-- Both windows after a command. -/
def noteEvents (a b : State) : State := { b with west := noteRegs a b .west b.west, east := noteRegs a b .east b.east }

end State

/-- A command's effect, with what follows from it (R4, R212, R227, R465). -/
def act (c : Instr) (dt : Nat) (s : State) (f : State → State) : Host.Outcome State Fault Refusal :=
  run c.wf dt s (fun s => State.noteEvents s (f s).settle)

end Sys2Proof.Machine
end

