-- ==== Sys2Proof/Machine/Transit.lean ====
section
/-! DEFINITION. Packets that this device routes onward to another node (R321, R322, R325). Requests for memory carry their
destination in their own fields, and Entry.lean forwards them. -/

namespace Sys2Proof.Machine

/-- Channel of a packet (R311, R314). -/
def innerVc : Inner → Nat
  | .mem op _ => if op == .wbd || op == .evc then 2 else 0
  | .caprel .. | .submit .. | .forwarded .. | .part _ | .rowUpdate _ | .pub .. => 0
  | .rsp _ | .bdata _ | .bdone _ | .partAnswer _ => 1
  | .srsp _ => 2
  | .onward _ x => innerVc x
  | _ => 3

/-- Source code of a packet (R313). -/
def innerSid : Inner → Nat
  | .mem _ q | .pub q _ _ _ => q.sid
  | .caprel _ sid _ _ _ | .forwarded _ sid _ _ => sid
  | .rsp r | .bdata r | .bdone r => r.sid
  | .part x => x.sid
  | .rowUpdate x => x.sid
  | .onward _ x => innerSid x
  | _ => 0xF0

/-- Length of a packet that is one segment (R314). -/
def innerUnits : Inner → Nat
  | .mem _ q | .pub q _ _ _ => q.len
  | .rsp r | .bdata r | .bdone r => 4 + State.unitsOf r.data.length + ofBool r.u + ofBool r.spar.isSome
  | .srsp r => 5 + ofBool r.u + (if r.dirty then 16 else 0)
  | .submit _ j | .forwarded _ _ _ j => 4 + State.unitsOf j.desc.length
  | .rowUpdate x => 6 + State.unitsOf x.data.length
  | .integrity _ _ | .invalidation .. | .hint _ _ => 7
  | .invalidationAck _ _ | .portState .. | .course _ => 5
  | .spaceRequest .. | .spaceAnswer .. | .frameRequest .. | .frameAnswer .. | .fencePlaced .. => 6
  | .fenceDone _ _ _ drops => 6 + drops.length
  | .onward _ x => innerUnits x
  | .caprel .. | .part _ | .partAnswer _ => 4

/-- A packet as the fabric carries it: its header, and number, last, units and data of each segment (R315). -/
def innerSegments (x : Inner) : Inner × List (Nat × Bool × Nat × Bytes) :=
  match x with
  | .part p => (.part { p with entries := [] }, State.partSegments p)
  | .partAnswer p => (.partAnswer { p with entries := [] }, State.answerSegments p)
  | x => (x, [(0, true, innerUnits x, [])])

/-- Source node, context and job of a request on channel 0, for its bucket (R331). A cap release has no answer that could turn it
away, and passes: DESIGN CHOICE (log entry 133). -/
def innerHost : Inner → Option (Nat × Nat × Nat)
  | .forwarded src _ _ j => some (src, j.ctx, j.job)
  | .part x => some (x.src, x.ctx, x.job)
  | .rowUpdate x => some (x.src, x.ctx, x.job)
  | .pub q _ _ _ => some (q.src, q.ctx, q.job)
  | _ => none

namespace State

/-- Answer a request that cannot go on (R322, R323, R331); any other packet is dropped. -/
def turnAway (s : State) (x : Inner) (st : Status) : State :=
  let sv := st = .retry
  let r : Reply := { status := st, sv := sv, stall := ofBool sv }
  match x with
  | .forwarded src sid cls j =>
      let w : Work := { desc := j.desc, ctx := j.ctx, job := j.job, tag := j.tag, issuer := .node src sid, status := st }
      s.sendCompletion w cls (s.recordOf cls w)
  | .part p => s.sendAnswer p.src p.sid { src := s.nodeNum, tag := p.tag, partNo := p.partNo, status := st.code, sv := sv, stall := ofBool sv, entries := [] }
  | .rowUpdate u => s.sendTo (.node u.src u.sid) 1 4 (.mem { r with tag := u.tag, ld := s.loadNow })
  | .pub q _ _ _ => s.sendTo (.node q.src q.sid) 1 4 (.mem { r with tag := q.tag, ld := s.loadNow })
  | _ => s

/-- Route a packet onward: it passes its bucket, its hop count rises, and the hop limit or the want of a route drops it (R322,
R323, R331). -/
def passOn (s : State) (p : Nat) (t : Transit) (x : Inner) : State :=
  let (hd, segs) := innerSegments x
  let h := portHalf p
  let cost := (segs.map (fun g => g.2.2.1)).foldl (· + ·) 0 * 8
  let (ok, s) := match innerHost x with
    | some (src, c, j) => s.chargeBucket (.onward p t) src c j cost
    | none => (true, s)
  if !ok then s.turnAway x .retry
  else if t.hop + 1 > max 1 (s.gcfg 0x20D0 5) then (s.count h 0x40C0 6).turnAway x .nodeUnreachable
  else if s.wayTo t.dst = .unreachable then s.turnAway x .nodeUnreachable
  else
    let t := { t with hop := t.hop + 1 }
    segs.foldl (fun s g =>
      (((s.route { dst := t.dst, sid := innerSid x, vc := innerVc x, units := g.2.2.1, rl := t.rl, hop := t.hop,
                   m := .onward t hd g.1 g.2.1 g.2.2.2 }).2).count h 0x40C0 2).count h 0x40C0 3 (ofBool t.rl)) s

/-- What arrives for this device is handled here; for another node it is counted on its port and routed onward (R319). -/
def orPass (s : State) (v : Via) (x : Inner) (here : Via → State → State) : State :=
  match v with
  | .onward p t =>
      if s.isSelf t.dst then here (.port p) s
      else ((innerSegments x).2.foldl (fun s g => s.portArrival p (innerVc x) g.2.2.1) s).passOn p t x
  | _ => here v s

/-- An answer for this device is handled here; for another node it is routed onward (R319). -/
def rspOrPass (s : State) (r : Rsp) (x : Inner) (here : State → State) : State :=
  s.orPass (match r.on with
    | some t => .onward r.port t
    | none => .port r.port) x (fun _ s => here s)

end State
end Sys2Proof.Machine
end

