-- ==== Sys2Proof/Machine/Access.lean ====
section
/-! DEFINITION. The meanings of memory requests and their answers (R20, R56, R93, R99 to R103, R205, R270 to R287, R312
to R330). -/

namespace Sys2Proof.Machine
namespace State

/-- A cap release from another node (R316); one that enters here is this device's own source (R319). -/
def caprelArrive (s : State) (via : Via) (src sid job tag status : Nat) : State :=
  let s := s.countArrival via 0 4
  if s.entersHere via then s.capFree s.nodeNum (entrySid { via := via, ctx := 0, job := job, tag := tag, addr := 0 }) job tag (Status.ofCode status)
  else s.capFree src sid job tag (Status.ofCode status)

/-- The answer to a table walk's read (R56). -/
def walkAnswer (s : State) (r : Rsp) : State :=
  match s.outOf r.sid r.tag with
  | none => s
  | some o => (match o.acc.org with
      | .walk _ => s.response r
      | _ => s)

/-- A mismatch record whose resend has not arrived is dropped (R205). -/
def dropMismatch (s : State) (h : Half) (src sid tag block : Nat) : State :=
  s.modHalf h (fun x => { x with mismatches := x.mismatches.filter (fun m => m ≠ ⟨src, sid, tag, block⟩) })

/-- An outstanding request whose stall threshold has passed (R99). -/
def stallAt (s : State) (sid tag : Nat) (retraining : Bool) : State :=
  match s.waitOf sid tag with
  | some o => s.stall o retraining
  | none => s

/-- An outstanding read whose fallback threshold has passed (R103). -/
def fallBackAt (s : State) (sid tag : Nat) : State :=
  match s.waitOf sid tag with
  | some o => s.fallBack o
  | none => s

end State

/-- READ (R20, R270). -/
def execRead (dt : Nat) (q : Req) (s : State) : Host.Outcome State Fault Refusal :=
  act (.read dt q) dt s (fun s => s.receive .read q)

/-- WRITE (R202, R270, R273, R279). -/
def execWrite (dt : Nat) (q : Req) (s : State) : Host.Outcome State Fault Refusal :=
  act (.write dt q) dt s (fun s => s.receive .write q)

/-- Integer add (R284). -/
def execAdd (dt : Nat) (q : Req) (s : State) : Host.Outcome State Fault Refusal :=
  act (.add dt q) dt s (fun s => s.receive .atomic q)

/-- Signed minimum (R284). -/
def execSmin (dt : Nat) (q : Req) (s : State) : Host.Outcome State Fault Refusal :=
  act (.smin dt q) dt s (fun s => s.receive .atomic q)

/-- Signed maximum (R284). -/
def execSmax (dt : Nat) (q : Req) (s : State) : Host.Outcome State Fault Refusal :=
  act (.smax dt q) dt s (fun s => s.receive .atomic q)

/-- Unsigned minimum (R284). -/
def execUmin (dt : Nat) (q : Req) (s : State) : Host.Outcome State Fault Refusal :=
  act (.umin dt q) dt s (fun s => s.receive .atomic q)

/-- Unsigned maximum (R284). -/
def execUmax (dt : Nat) (q : Req) (s : State) : Host.Outcome State Fault Refusal :=
  act (.umax dt q) dt s (fun s => s.receive .atomic q)

/-- Bitwise and (R284). -/
def execAnd (dt : Nat) (q : Req) (s : State) : Host.Outcome State Fault Refusal :=
  act (.and dt q) dt s (fun s => s.receive .atomic q)

/-- Bitwise or (R284). -/
def execOr (dt : Nat) (q : Req) (s : State) : Host.Outcome State Fault Refusal :=
  act (.or dt q) dt s (fun s => s.receive .atomic q)

/-- Bitwise exclusive or (R284). -/
def execXor (dt : Nat) (q : Req) (s : State) : Host.Outcome State Fault Refusal :=
  act (.xor dt q) dt s (fun s => s.receive .atomic q)

/-- Swap, fetching (R284). -/
def execSwap (dt : Nat) (q : Req) (s : State) : Host.Outcome State Fault Refusal :=
  act (.swap dt q) dt s (fun s => s.receive .atomic q)

/-- Compare and swap, fetching (R284). -/
def execCas (dt : Nat) (q : Req) (s : State) : Host.Outcome State Fault Refusal :=
  act (.cas dt q) dt s (fun s => s.receive .atomic q)

/-- FP32 add (R284). -/
def execFadd (dt : Nat) (q : Req) (s : State) : Host.Outcome State Fault Refusal :=
  act (.fadd dt q) dt s (fun s => s.receive .atomic q)

/-- BF16 vector add (R284). -/
def execVadd (dt : Nat) (q : Req) (s : State) : Host.Outcome State Fault Refusal :=
  act (.vadd dt q) dt s (fun s => s.receive .atomic q)

/-- Bulk read of whole blocks (R210, R317). -/
def execBget (dt : Nat) (q : Req) (s : State) : Host.Outcome State Fault Refusal :=
  act (.bget dt q) dt s (fun s => s.receive .bget q)

/-- A segment of a bulk write (R317). -/
def execBputSegment (dt : Nat) (q : Req) (s : State) : Host.Outcome State Fault Refusal :=
  act (.bputSegment dt q) dt s (fun s => s.bputSegment q)

/-- A segment of bulk data (R317). -/
def execBdataSegment (dt : Nat) (r : Rsp) (s : State) : Host.Outcome State Fault Refusal :=
  act (.bdataSegment dt r) dt s (fun s => s.rspOrPass r (.bdata r) (fun s => s.segment r))

/-- The answer to a bulk write (R205, R317). -/
def execBdone (dt : Nat) (r : Rsp) (s : State) : Host.Outcome State Fault Refusal :=
  act (.bdone dt r) dt s (fun s => s.rspOrPass r (.bdone r) (fun s => s.response r))

/-- A cap release (R279, R316). -/
def execCaprel (dt : Nat) (via : Via) (src sid job tag status : Nat) (s : State) : Host.Outcome State Fault Refusal :=
  act (.caprel dt via src sid job tag status) dt s (fun s => s.orPass via (.caprel src sid job tag status) (fun v s => s.caprelArrive v src sid job tag status))

/-- A memory response (R93, R206, R330, R334). -/
def execRsp (dt : Nat) (r : Rsp) (s : State) : Host.Outcome State Fault Refusal :=
  act (.rsp dt r) dt s (fun s => s.rspOrPass r (.rsp r) (fun s => s.response r))

/-- The answer to a walk's read (R56). -/
def execWalkReadResponse (dt : Nat) (r : Rsp) (s : State) : Host.Outcome State Fault Refusal :=
  act (.walkReadResponse dt r) dt s (fun s => s.rspOrPass r (.rsp r) (fun s => s.walkAnswer r))

/-- A mismatch record expires (R205). -/
def execMismatchRecordExpiry (dt : Nat) (h : Half) (src sid tag block : Nat) (s : State) :
    Host.Outcome State Fault Refusal :=
  act (.mismatchRecordExpiry dt h src sid tag block) dt s (fun s => s.dropMismatch h src sid tag block)

/-- An access has waited the stall threshold (R99). -/
def execStallThreshold (dt : Nat) (sid tag : Nat) (retraining : Bool) (s : State) : Host.Outcome State Fault Refusal :=
  act (.stallThreshold dt sid tag retraining) dt s (fun s => s.stallAt sid tag retraining)

/-- A read has waited the fallback threshold (R103). -/
def execFallbackThreshold (dt : Nat) (sid tag : Nat) (s : State) : Host.Outcome State Fault Refusal :=
  act (.fallbackThreshold dt sid tag) dt s (fun s => s.fallBackAt sid tag)

end Sys2Proof.Machine
end

