-- ==== Sys2Proof/Machine/Hash.lean ====
section
/-! DEFINITION. SHA-384 and HMAC-SHA-384 (R399), by FIPS 180-4 and FIPS 198-1: the digests of images, slates and
measurements, and the tags of commands and slates. -/

namespace Sys2Proof.Machine

/-- The initial hash value. -/
def shaInit : List (BitVec 64) :=
  [0xcbbb9d5dc1059ed8, 0x629a292a367cd507, 0x9159015a3070dd17, 0x152fecd8f70e5939,
   0x67332667ffc00b31, 0x8eb44a8768581511, 0xdb0c2e0d64f98fa7, 0x47b5481dbefa4fa4]

/-- Round constants 0 to 15. -/
def shaK0 : List (BitVec 64) :=
  [0x428a2f98d728ae22, 0x7137449123ef65cd, 0xb5c0fbcfec4d3b2f, 0xe9b5dba58189dbbc,
   0x3956c25bf348b538, 0x59f111f1b605d019, 0x923f82a4af194f9b, 0xab1c5ed5da6d8118,
   0xd807aa98a3030242, 0x12835b0145706fbe, 0x243185be4ee4b28c, 0x550c7dc3d5ffb4e2,
   0x72be5d74f27b896f, 0x80deb1fe3b1696b1, 0x9bdc06a725c71235, 0xc19bf174cf692694]

/-- Round constants 16 to 31. -/
def shaK1 : List (BitVec 64) :=
  [0xe49b69c19ef14ad2, 0xefbe4786384f25e3, 0x0fc19dc68b8cd5b5, 0x240ca1cc77ac9c65,
   0x2de92c6f592b0275, 0x4a7484aa6ea6e483, 0x5cb0a9dcbd41fbd4, 0x76f988da831153b5,
   0x983e5152ee66dfab, 0xa831c66d2db43210, 0xb00327c898fb213f, 0xbf597fc7beef0ee4,
   0xc6e00bf33da88fc2, 0xd5a79147930aa725, 0x06ca6351e003826f, 0x142929670a0e6e70]

/-- Round constants 32 to 47. -/
def shaK2 : List (BitVec 64) :=
  [0x27b70a8546d22ffc, 0x2e1b21385c26c926, 0x4d2c6dfc5ac42aed, 0x53380d139d95b3df,
   0x650a73548baf63de, 0x766a0abb3c77b2a8, 0x81c2c92e47edaee6, 0x92722c851482353b,
   0xa2bfe8a14cf10364, 0xa81a664bbc423001, 0xc24b8b70d0f89791, 0xc76c51a30654be30,
   0xd192e819d6ef5218, 0xd69906245565a910, 0xf40e35855771202a, 0x106aa07032bbd1b8]

/-- Round constants 48 to 63. -/
def shaK3 : List (BitVec 64) :=
  [0x19a4c116b8d2d0c8, 0x1e376c085141ab53, 0x2748774cdf8eeb99, 0x34b0bcb5e19b48a8,
   0x391c0cb3c5c95a63, 0x4ed8aa4ae3418acb, 0x5b9cca4f7763e373, 0x682e6ff3d6b2b8a3,
   0x748f82ee5defb2fc, 0x78a5636f43172f60, 0x84c87814a1f0ab72, 0x8cc702081a6439ec,
   0x90befffa23631e28, 0xa4506cebde82bde9, 0xbef9a3f7b2c67915, 0xc67178f2e372532b]

/-- Round constants 64 to 79. -/
def shaK4 : List (BitVec 64) :=
  [0xca273eceea26619c, 0xd186b8c721c0c207, 0xeada7dd6cde0eb1e, 0xf57d4f7fee6ed178,
   0x06f067aa72176fba, 0x0a637dc5a2c898a6, 0x113f9804bef90dae, 0x1b710b35131c471b,
   0x28db77f523047d84, 0x32caab7b40c72493, 0x3c9ebe0a15c9bebc, 0x431d67c49c100d4c,
   0x4cc5d4becb3e42b6, 0x597f299cfc657e2a, 0x5fcb6fab3ad6faec, 0x6c44198c4a475817]

def shaK : List (BitVec 64) := shaK0 ++ shaK1 ++ shaK2 ++ shaK3 ++ shaK4

/-- A big-endian number. -/
def ofBe (bs : Bytes) : Nat := bs.foldl (fun n b => n * 256 + b.toNat) 0

/-- The w bytes of n, most significant first. -/
def be (w n : Nat) : Bytes := (le w n).reverse

def shaSigma (a b c : Nat) (x : BitVec 64) : BitVec 64 := x.rotateRight a ^^^ x.rotateRight b ^^^ x.rotateRight c

/-- Message expansion: `w` holds the last 16 words. -/
def shaExpand : Nat → List (BitVec 64) → List (BitVec 64)
  | 0, _ => []
  | n + 1, w =>
      let at' := fun i => w.getD i 0
      let s0 := (at' 1).rotateRight 1 ^^^ (at' 1).rotateRight 8 ^^^ (at' 1 >>> 7)
      let s1 := (at' 14).rotateRight 19 ^^^ (at' 14).rotateRight 61 ^^^ (at' 14 >>> 6)
      at' 0 :: shaExpand n (w.drop 1 ++ [at' 0 + s0 + at' 9 + s1])

/-- One round on the eight working variables. -/
def shaRound (v : List (BitVec 64)) (x : BitVec 64 × BitVec 64) : List (BitVec 64) :=
  let at' := fun i => v.getD i 0
  let e := at' 4
  let a := at' 0
  let t1 := at' 7 + shaSigma 14 18 41 e + ((e &&& at' 5) ^^^ (~~~e &&& at' 6)) + x.1 + x.2
  let t2 := shaSigma 28 34 39 a + ((a &&& at' 1) ^^^ (a &&& at' 2) ^^^ (at' 1 &&& at' 2))
  [t1 + t2, a, at' 1, at' 2, at' 3 + t1, e, at' 5, at' 6]

/-- The compression of one 128-byte block. -/
def shaBlock (h : List (BitVec 64)) (b : Bytes) : List (BitVec 64) :=
  let w := (List.range 16).map (fun i => BitVec.ofNat 64 (ofBe (slice (8 * i) 8 b)))
  let v := (shaK.zip (shaExpand 80 w)).foldl shaRound h
  List.zipWith (· + ·) h v

/-- Padding to whole blocks. -/
def shaPad (m : Bytes) : Bytes :=
  m ++ 0x80#8 :: zeros ((239 - m.length % 128) % 128) ++ be 16 (8 * m.length)

def sha384 (m : Bytes) : Bytes :=
  let p := shaPad m
  let h := (List.range (p.length / 128)).foldl (fun h i => shaBlock h (slice (128 * i) 128 p)) shaInit
  ((h.take 6).map (fun x => be 8 x.toNat)).flatten

/-- HMAC-SHA-384 of a message under a key. -/
def hmac384 (key m : Bytes) : Bytes :=
  let k := fitTo 128 (if 128 < key.length then sha384 key else key)
  sha384 (xorBytes k (List.replicate 128 0x5C#8) ++ sha384 (xorBytes k (List.replicate 128 0x36#8) ++ m))

/-- The leftmost 256 bits of an HMAC, the tags of R414 and R444. -/
def tag256 (key m : Bytes) : Bytes := (hmac384 key m).take 32

end Sys2Proof.Machine
end

