-- ==== Sys2Proof/Machine/Command.lean ====
section
/-! DEFINITION. How a dictionary write or command is taken (R415 to R420, R427 to R439, R446, R447, R483): checks of the
PDU and its path, reassembly, the reply cache, verification in the enclave, and the answer. -/

namespace Sys2Proof.Machine

/-! ### Objects -/

/-- Class of a critical command (R413); none for an object without RWA access. -/
def cmdClass (index sub : Nat) (payload : Bytes) : Option Nat :=
  match findObj dictObjs index sub with
  | none => none
  | some o =>
      if o.acc ≠ .rwa then none
      else if index == 0x5200 then
        some (if sub == 1 then (if (payload.headD 1).toNat == 0 then 6 else 4) else if sub == 2 then 4
              else if sub == 3 then 6 else 5)
      else if index == 0x5300 then some 3
      else if index < 0x3000 then some 0
      else if index < 0x4000 then some 1
      else if index < 0x5000 then some 2
      else if index < 0x6000 then some 4
      else some 2

/-- Whether a payload has a length the command object accepts (R428). -/
def payloadLength (index sub : Nat) (d : Bytes) : Bool :=
  let n := d.length
  match index, sub with
  | 0x3F00, 1 => n == 17
  | 0x3F00, 2 => n == 2
  | 0x3F00, 3 => n == 6
  | 0x3F10, 1 => n == 19
  | 0x3F20, 1 => n == 17
  | 0x3F20, 2 => n == 23
  | 0x3F20, 3 => n == 24
  | 0x3F30, 1 => 40 ≤ n && n == 40 + 16 * field 24 2 d + 2 ^ field 1 1 d
  | 0x3F30, 2 => n == 1
  | 0x3FC0, 1 => n == 4
  | 0x3FC0, 2 => n == 12
  | 0x3FC0, 3 => n == 4
  | 0x3FF0, 1 => n == 5
  | 0x3FF0, 2 => n == 1
  | 0x3FF0, 3 => n == 1
  | 0x3FF0, 4 => n == 0
  | 0x3FF0, 5 => n == 19
  | 0x3FF0, 6 => n == 1
  | 0x2F01, 2 => n == 8
  | 0x2F01, 3 => n == 0
  | 0x2F01, 4 => n == 3
  | 0x5200, 1 => n == 156
  | 0x5200, 2 => n == 1
  | 0x5200, 3 => n == 0
  | 0x5200, 4 => n == 1
  | 0x5300, 1 => 5 ≤ n && n ≤ 4100
  | 0x5300, 2 => n == 0
  | 0x5300, 3 => n == 8
  | 0x5300, 4 => n == 0
  | 0x6F00, 1 => n == 3
  | 0x6F00, 2 => n == 4
  | 0x6F00, 3 => 11 ≤ n && n == 11 + 20 * field 10 1 d
  | 0x6F00, 4 => n == 2
  | _, _ => true

/-- Whether a value or payload has a length its object accepts (R428). -/
def lengthOk (o : Obj) (index sub : Nat) (d : Bytes) : Bool :=
  if o.ty.len != 0 then d.length == o.ty.len
  else if 0x2000 ≤ index && index ≤ 0x2EFF then d.length == 16
  else payloadLength index sub d

namespace State

/-! ### Verification of a critical command (R415 to R420) -/

def slot (s : State) (k : Nat) : Slot := tgetD k {} s.enc.slots

def modSlot (s : State) (k : Nat) (f : Slot → Slot) : State := { s with enc.slots := tmod k {} f s.enc.slots }

/-- The owner key is installed (R412). -/
def owned (s : State) : Bool := (s.slot 0).key.isSome

/-- Scope of a slot; slot 0 holds every class (R412). -/
def scopeOf (s : State) (k : Nat) : Nat := if k == 0 then 0x7F else (s.slot k).scope % 128

/-- A counter at its last value leaves its slot unusable (R415). -/
def lastCounter : Nat := 2 ^ 64 - 1

/-- The authenticated message of a command (R414). -/
def cmdMessage (index sub : Nat) (t : Trailer) (d : Bytes) : Bytes :=
  ascii "BGYX3CMD" ++ le 8 Config.uid ++ le 2 index ++ le 1 sub ++ le 1 t.slot ++ le 4 d.length ++ le 8 t.counter ++ d

/-- The first claim of ownership (R419): slot 0xFF, counter zero and a zero tag, over I3C, while unowned. -/
def firstClaim (s : State) (p : Pdu) (index sub : Nat) (t : Trailer) (d : Bytes) : Bool :=
  index == 0x5200 && sub == 1 && (d.headD 1).toNat == 0 && t.slot == 0xFF && t.counter == 0 && t.tag = zeros 32 &&
  p.path = .i3c && !s.owned

/-- A good tag: the slot's consecutive failures end and it leaves the throttle (R417). -/
def tagGood (s : State) (k : Nat) : State := s.modSlot k (fun x => { x with fails := 0, throttle := none })

/-- A bad tag counts toward the throttle (R417); the window of a throttled slot runs from this verification. -/
def tagBad (s : State) (k : Nat) : State :=
  s.modSlot k (fun x => { x with fails := min (x.fails + 1) (2 ^ 32 - 1),
                                 throttle := if x.fails + 1 ≥ 16 then some s.now else x.throttle })

/-- A counter is consumed; above the reservation a new one is stored first (R415, R416). -/
def useCounter (s : State) (k c : Nat) : State :=
  s.modSlot k (fun x => { x with last := c, reserved := if x.reserved < c then min (c + 4096) lastCounter else x.reserved })

/-- Steps 1 to 5 of R415: the refusal, if any, and the state they leave. -/
def verify (s : State) (p : Pdu) (index sub cls : Nat) (d : Bytes) : Option Result × State :=
  match p.trailer with
  | none => (some (outcome .authFailed dNoTrailer), s)
  | some t =>
      if s.enc.st == 2 then (some (outcome .authFailed), s)
      else if s.enc.st != 1 then (some (outcome .retry), s)
      else if s.firstClaim p index sub t d then (none, s)
      else
        let x := s.slot t.slot
        if 15 < t.slot || x.key.isNone || x.last == lastCounter then (some (outcome .authFailed), s)
        else if (match x.throttle with
            | some at' => decide (s.now < at' + 160000000)
            | none => false) then (some (outcome .retry), s)
        else if t.tag ≠ tag256 (x.key.getD []) (cmdMessage index sub t d) then
          (some (outcome .authFailed), s.tagBad t.slot)
        else
          let s := s.tagGood t.slot
          if t.counter ≤ x.last then (some (outcome .counterStale), s)
          else
            let s := s.useCounter t.slot t.counter
            if bitOf (s.scopeOf t.slot) cls then (none, s) else (some (outcome .rightsFault), s)

/-- Count what R425 counts of a completion. -/
def countAuth (s : State) (x : Result) : State :=
  if x.status == .authFailed then s.count .west 0x5000 0xC
  else if x.status == .counterStale then s.count .west 0x5000 0xD else s

/-! ### Before a request is performed -/

/-- What becomes of a request before its object is looked at. -/
inductive Gate where
  | silent
  | refuse (x : Result)
  | go
deriving DecidableEq, Repr

/-- Magic "WP", version, reserved flags and the path's limit (R436). -/
def pduGood (p : Pdu) : Bool :=
  p.magic == 0x5057 && p.version == 1 && p.flags / 4 == 0 && p.data.length ≤ pduLimit p && (bitOf p.flags 0 == p.trailer.isSome)

/-- Whether any path answers now (R386, R405, R431, R434, R483): start-up phases, recovery, a halted controller pair, and a
management port that is not enabled. -/
def phaseGate (s : State) (p : Pdu) (index sub : Nat) : Gate :=
  let running := match p.path with
    | .mgmt i => (s.half (mgmtHalf i)).running && s.cfgBit (mgmtHalf i) (0x2010 + i % 2) 1 0
    | .i3c => true
    | .mailbox e _ _ => (s.half e).running
  let image := index == 0x5300 && (sub == 1 || sub == 2)
  if s.phase == 0xF0 then (if p.path = .i3c then (if image then .go else .refuse busy) else .silent)
  else if s.phase < 3 || s.phase == 0xF1 || !running then .silent
  else if s.phase == 3 || (s.enc.st == 4 && decide (p.path = .i3c) != image) then .refuse busy
  else .go

/-- Writes that start-up does not yet perform (R483). -/
def startupBusy (s : State) (index sub : Nat) (d : Bytes) : Bool :=
  (s.phase < 5 && cmdClass index sub d == some 1) || (index == 0x3FF0 && s.phase < 8) ||
  (index == 0x5300 && sub == 3 && s.crs.first == noCourse)

/-- A slate is scheduled, or a header is being written (R446, R447). -/
def slateBusy (s : State) (index sub : Nat) : Bool :=
  if 0x2000 ≤ index && index ≤ 0x2EFF then s.slt.scheduled.isSome || s.slt.writing.isSome
  else index == 0x2F01 && sub == 2 && s.slt.scheduled.isSome

/-- What the mailbox with hv clear may read (R431). -/
def mayRead (p : Pdu) (index : Nat) : Bool :=
  match p.path with
  | .mailbox _ false c => (0x1000 ≤ index && index ≤ 0x1FFF) || (0x4000 ≤ index && index ≤ 0x4FFF) || index == 0x3000 + c
  | _ => true

/-- What the mailbox with hv clear may write (R234, R431). -/
def mayWrite (s : State) (p : Pdu) (index sub : Nat) (o : Obj) (d : Bytes) : Bool :=
  match p.path with
  | .mailbox _ false c =>
      o.acc = .rw && (index == 0x3000 + c || (index == 0x3F20 && sub == 3 && field 0 2 d % 1024 == c) ||
        (index == 0x3FC0 && 1 ≤ sub && sub ≤ 3 && field 0 2 d == c && bitOf (s.ctx c).mask 32))
  | _ => true

/-- The half whose agent takes a request: that of its port, of its end, or the enclave's for I3C. -/
def pathHalf (p : Pdu) : Half :=
  match p.path with
  | .mgmt i => mgmtHalf i
  | .i3c => .west
  | .mailbox e _ _ => e

/-- The purlin is lost and this half does not hold the lease (R420, R432). -/
def fencedOff (s : State) (p : Pdu) : Bool := !s.avl.purlinUp && pathHalf p != s.holder

/-- Why a write is not within its rights (R234, R431, R432): of several reasons the first. -/
def writeBarred (s : State) (p : Pdu) (index sub : Nat) (o : Obj) (d : Bytes) : Option Result :=
  if o.acc = .const || o.acc = .ro then some (outcome .rightsFault dReadOnly)
  else if !s.mayWrite p index sub o d then some (outcome .rightsFault dPath)
  else if s.fencedOff p then some (outcome .rightsFault dFenced)
  else none

/-- The whole of a write once its value is complete: its refusal or the effect, in the order of R5. The length of a critical command
is looked at only after its verification (R428). -/
def performWrite (s : State) (p : Pdu) (index sub : Nat) (d : Bytes) (eff : Bytes → State → Result × State) : Result × State :=
  match objAt index sub with
  | none => (outcome .translationFault dNoObject, s)
  | some o =>
      let whole := lengthOk o index sub d
      let short := outcome .translationFault dLength
      match cmdClass index sub d, s.writeBarred p index sub o d with
      | none, barred =>
          let s := if p.trailer.isSome then s.count .west 0x4110 4 else s
          if !whole then (short, s)
          else match barred with
            | some x => (x, s)
            | none => if s.startupBusy index sub d then (busy, s) else eff d s
      | some cls, barred =>
          if p.trailer.isNone then (outcome .authFailed dNoTrailer, s)
          else match barred with
            | some x => (x, s)
            | none =>
                if s.startupBusy index sub d || s.slateBusy index sub then (busy, s)
                else if !s.avl.purlinUp && s.holder == .east then (outcome .retry, s)
                else match s.verify p index sub cls d with
                  | (some x, s) => (x, s)
                  | (none, s) => if whole then eff d s else (short, s)

/-! ### Reassembly (R437) -/

def sameReasm (r : Reasm) (p : Pdu) (index sub : Nat) : Bool :=
  r.src = srcOf p && r.tag == p.tag && r.index == index && r.sub == sub

/-- Segments laid into one value; none when there is a gap. -/
def joinSegs (segs : List (Nat × Bytes)) : Option Bytes :=
  segs.foldl (fun (acc : Option Bytes) x =>
    match acc with
    | none => none
    | some v => if x.1 ≤ v.length then some (v.take x.1 ++ x.2 ++ v.drop (x.1 + x.2.length)) else none) (some [])

/-- Take a segment in: the complete value, or the answer at once. -/
def reassemble (s : State) (p : Pdu) (index sub : Nat) : (Bytes ⊕ Result) × State :=
  let more := bitOf p.flags 1
  let mine := s.mgm.reasm.find? (fun r => sameReasm r p index sub)
  let rest := s.mgm.reasm.filter (fun r => !sameReasm r p index sub)
  if s.mgm.evicted.any (fun r => sameReasm r p index sub) then
    (.inr busy, { s with mgm.evicted := s.mgm.evicted.filter (fun r => !sameReasm r p index sub) }.count .west 0x4110 2)
  else if p.offset + p.data.length > p.total || p.total > 131072 then
    (.inr (outcome .translationFault dLength), { s with mgm.reasm := rest })
  else
    let segs := (mine.map (·.segs)).getD [] ++ [(p.offset, p.data)]
    if more then
      let own := rest.filter (fun r => r.src = srcOf p)
      let (rest, gone) := if 4 ≤ own.length then
        (match takeFirst (fun (r : Reasm) => decide (r.src = srcOf p)) rest with
          | some (r, t) => (t, [r])
          | none => (rest, [])) else (rest, [])
      (.inr (outcome .ok), { s with mgm.reasm := rest ++ [⟨srcOf p, p.tag, index, sub, segs⟩], mgm.evicted := s.mgm.evicted ++ gone })
    else
      let s := { s with mgm.reasm := rest }
      match joinSegs segs with
      | some v => if v.length == p.total then (.inl v, s) else (.inr (outcome .translationFault dLength), s)
      | none => (.inr (outcome .translationFault dLength), s)

/-! ### The whole -/

/-- A kept reply, if this request is a repetition (R438). -/
def keptReply (s : State) (p : Pdu) (kind index sub : Nat) : Option Kept :=
  s.mgm.kept.find? (fun k => sameKept k p kind index sub)

/-- A request reaches the dictionary agent: what of it does not need its object. -/
def takePdu (s : State) (p : Pdu) : State :=
  match p.path with
  | .mgmt _ => s.countPort p 5
  | .i3c => s.count .west 0x1102 3
  | .mailbox _ _ _ => s

/-- Answer a request whose reply carries the value's length. -/
def answerSeg (s : State) (p : Pdu) (index sub : Nat) (x : Result) : State :=
  let r := replyPdu p index sub x 0 p.total
  (s.keepReply p 2 index sub (some r)).sendWaest p r

/-- A write or command PDU (R436 to R439): `eff` is the object's own effect on its value or payload. -/
def dictWrite (s : State) (p : Pdu) (index sub : Nat) (eff : Bytes → State → Result × State) : State :=
  match s.phaseGate p index sub with
  | .silent => s
  | .refuse x => (s.takePdu p).answerWrite p index sub x
  | .go =>
      let s := s.takePdu p
      if !pduGood p then ((s.countPort p 7).answerWrite p index sub (outcome .translationFault dMalformed))
      else match s.keptReply p 2 index sub with
        | some k =>
            (match k.reply with
            | some r => (s.count .west 0x4110 1).sendWaest p r
            | none => s)
        | none =>
            match s.reassemble p index sub with
            | (.inr x, s) => if x.status == Status.ok then s.answerSeg p index sub x else s.answerWrite p index sub x
            | (.inl d, s) =>
                let (x, s) := s.performWrite p index sub d eff
                (s.countAuth x).answerWrite p index sub x

end State
end Sys2Proof.Machine
end

