-- ==== Sys2Proof/Machine/Space.lean ====
section
/-! DEFINITION. Context descriptors, invalidations, and the life of an extent: grant, zeroing, revocation, drain, report
and acknowledgement (R49, R51, R62 to R74, R84, R95, R254). -/

namespace Sys2Proof.Machine
namespace State

/-! ### Context descriptors (R49, R51, R83, R336) -/

/-- Start the walks of some contexts again: what they have read is dropped, and an answer on its way is ignored. DESIGN
CHOICE (log entry 111): R51 speaks of requests that enter stage 1 after the write; one that is still being translated then
goes on under the new descriptor, as an invalidated one does. -/
def restartWalks (s : State) (p : Nat → Bool) : State :=
  let mine := s.spc.walks.filter (fun w => p w.2.acc.q.ctx)
  let s := { s with spc.walks := s.spc.walks.filter (fun w => !p w.2.acc.q.ctx) }
  mine.foldl (fun s w =>
    let id := s.spc.nextWalk
    { s with spc.nextWalk := id + 1, spc.walks := tput id { acc := w.2.acc } s.spc.walks }.push (.walk id)) s

/-- Drop every cached translation of a context, as a whole-context invalidation does (R51). -/
def dropContext (s : State) (c : Nat) : State := (s.tlbDrop (fun t => t.ctx == c) (· == c)).2.restartWalks (· == c)

/-- A write of one subindex of a context descriptor. -/
def ctxWrite (c sub : Nat) (d : Bytes) (s : State) : Result × State :=
  let v := ofLe d
  if sub == 1 then
    if v ≤ 1 then ({}, (s.modCtx c (fun x => { x with on := v == 1 })).dropContext c)
    else (outcome .translationFault dValue, s)
  else if sub == 2 then ({}, (s.modCtx c (fun x => { x with s1root := v })).dropContext c)
  else if sub == 3 then ({}, (s.modCtx c (fun x => { x with s1geo := v })).dropContext c)
  else if sub == 4 then ({}, (s.modCtx c (fun x => { x with s2root := v % 2 ^ 62 })).dropContext c)
  else if sub == 5 then ({}, (s.modCtx c (fun x => { x with s2geo := v })).dropContext c)
  else if sub == 6 then ({}, (s.modCtx c (fun x => { x with mask := v % 2 ^ 33 })).dropContext c)
  else if sub == 0x10 then ({}, s.modCtx c (fun x => { x with nearQuota := v }))
  else if sub == 0x14 then ({}, s.modCtx c (fun x => { x with bulkQuota := v }))
  else if sub == 0x16 then ({}, s.modCtx c (fun x => { x with flags := v % 4 }))
  else ({}, s.modCtx c (fun x => { x with bucketRate := v }))

/-! ### Invalidations (R62 to R66) -/

/-- Who an invalidation's acknowledgement goes to. -/
def invParty (s : State) (via : Via) (src : Nat) : Party :=
  match via with
  | .geled e hv => .companion e hv
  | .port p => if s.roleOf p == 2 then .host p else .node src 0
  | .batch _ | .onward _ _ => .node src 0

/-- Whether the source may ask for the operation (R64). -/
def invAllowed (s : State) (via : Via) (src op c : Nat) : Bool :=
  let tenant := op == 1 || op == 2
  match via with
  | .geled _ true => 1 ≤ op && op ≤ 5
  | .geled _ false => tenant && bitOf (s.ctx c).mask 32
  | .port p | .batch p | .onward p _ =>
      (tenant && bitOf (s.ctx c).mask p) ||
      (!s.entersHere via && 1 ≤ op && op ≤ 5 && src != 0x3FFF && (List.range 4).any (fun i => s.gcfg 0x2060 (i + 1) == src))

/-- The cached entries an operation names (R63). -/
def invNames (op c addr pages : Nat) (t : Tlb) : Bool :=
  if op == 5 then t.ctx != 0
  else if t.ctx != c then false
  else if op == 1 then
    let lo := addr % 2 ^ 48 / 65536 * 65536
    t.vpage * 2 ^ t.size < lo + max 1 pages * 65536 && lo < (t.vpage + 1) * 2 ^ t.size
  else true

/-- Translate again what an engine or a copy had translated and not yet issued (R65, condition 3). -/
def retranslate (s : State) (gens : List Nat) : State :=
  let mine := fun (a : Acc) => a.gens.any gens.contains
  let todo := s.eng.retries.filter mine
  let s := { s with eng.retries := s.eng.retries.filter (fun a => !mine a) }
  todo.foldl (fun s a =>
    let id := s.spc.nextWalk
    { s with spc.nextWalk := id + 1, spc.walks := tput id { acc := again { a with gens := [] } } s.spc.walks }.push (.walk id)) s

/-- An invalidation arrives: it drops what it names, and its acknowledgement waits (R62 to R65). -/
def invalidate (s : State) (via : Via) (src op c seq addr pages : Nat) : State :=
  let s := (s.countArrival via 3 7).count (viaHalf via) 0x4030 1
  let dest := s.invParty via src
  if !s.invAllowed via src op c then
    { s with spc.invs := s.spc.invs ++ [{ dest := dest, seq := seq, gens := [], reject := true : Inv }] }.count (viaHalf via) 0x4030 3
  else
    let h := viaHalf via
    -- a lost purlin carries no invalidation: the other half drops its entries when it is back (R13, R65, R387)
    let hs := if s.avl.purlinUp then [Half.west, Half.east] else [h]
    let far := if s.avl.purlinUp then none else some (h.other, op, c, addr, pages)
    let (gens, s) := s.tlbDropIn hs (invNames op c addr pages) (fun x => op == 5 || x == c)
    let s := s.restartWalks (fun x => x != 0 && (op == 5 || x == c))
    { s with spc.invs := s.spc.invs ++ [{ dest := dest, seq := seq, gens := gens, reject := false, far := far : Inv }] }.retranslate gens

/-- The purlin is back: what the other half has not dropped yet is dropped (R13, R65). -/
def farInvalidate (s : State) : State :=
  let due := s.spc.invs.filter (·.far.isSome)
  due.foldl (fun s i =>
    match i.far with
    | none => s
    | some (h, op, c, addr, pages) =>
        let (gens, s) := s.tlbDropIn [h] (invNames op c addr pages) (fun x => op == 5 || x == c)
        { s with spc.invs := s.spc.invs.map (fun j => if j = i then { i with gens := i.gens ++ gens, far := none } else j) }.retranslate gens) s

/-- The acknowledgement of a source's oldest invalidation, once its accesses have completed (R65, R66). -/
def invAcknowledge (s : State) (via : Via) (src seq : Nat) : State :=
  let dest := s.invParty via src
  match s.spc.invs.find? (fun i => i.dest = dest) with
  | none => s
  | some i =>
      if i.seq != seq || i.far.isSome || s.openAccs.any (fun a => a.gens.any i.gens.contains) then s
      else { s with spc.invs := s.spc.invs.erase i }.sendTo dest 3 5 (.invAck (if i.reject then .rightsFault else .ok) i.seq)

/-! ### Grants (R69, R70, R84) -/

/-- Pages in extents of a context, in any state but free (R83). -/
def nearUsed (s : State) (c : Nat) : Nat :=
  (s.spc.extents.filter (fun x => x.2.ctx == c && x.2.state != 0)).foldl (fun n x => n + x.2.pages) 0

/-- Whether two ranges of pages by base and count meet. -/
def rangesMeet (b1 p1 b2 p2 : Nat) : Bool := b1 < b2 + p2 * 65536 && b2 < b1 + p1 * 65536

/-- Grant (R69, R70, R509): the status, and the state with the extent in it. DESIGN CHOICE (log entry 112): an n from 1,024
to 0xFFFE names no extent and has no row of its own; it is answered as one that is not free. -/
def grantExtent (s : State) (n c base pages : Nat) (zero : Bool) : Result × State :=
  if 1023 < c then (outcome .translationFault, s)
  else if base % 65536 != 0 || pages == 0 || base + pages * 65536 > nearSize then (outcome .translationFault, s)
  else if (n != 0xFFFF && (1024 ≤ n || (s.extent n).state != 0)) || c == 0 ||
      s.spc.extents.any (fun x => x.2.ctx == c && x.2.state != 0 && rangesMeet x.2.base x.2.pages base pages) then
    (outcome .rightsFault, s)
  else
    let slot := if n == 0xFFFF then freeNum s.spc.extents 1024 0 else some n
    match slot with
    | none => (outcome .quotaExceeded, s)
    | some k =>
        if s.nearUsed c + pages > (s.ctx c).nearQuota then (outcome .quotaExceeded, s)
        else
          let x : Extent := { state := if zero then 1 else 2, ctx := c, base := base, pages := pages,
                              grantNode := s.nodeNum, zero := zero }
          ({ data := le 2 k }, { s with spc.extents := tput k x s.spc.extents })

/-- 0x3F00.01 (R69). -/
def grant (d : Bytes) (s : State) : Result × State :=
  s.grantExtent (field 0 2 d) (field 2 2 d) (field 4 8 d) (field 12 4 d) (bitOf (field 16 1 d) 0)

/-- 0x3F10.01 (R84, R509): charged to the bulk quota and passed to the shelf, which numbers the extent itself. -/
def shelfGrant (d : Bytes) (s : State) : Result × State :=
  let node := field 0 2 d
  let n := field 2 2 d
  let c := field 4 2 d
  let pages := field 14 4 d
  if 1023 < c then (outcome .translationFault, s)
  else if !s.ownsShelf node || c == 0 then (outcome .rightsFault, s)
  else if (s.ctx c).bulkUsed + pages > (s.ctx c).bulkQuota then (outcome .quotaExceeded, s)
  else
    let s := (s.modCtx c (fun x => { x with bulkUsed := x.bulkUsed + pages })).emit (.shelfGrant node (d.drop 2))
    let s := { s with spc.shelfGrants := s.spc.shelfGrants ++ [(⟨node, c, field 6 8 d % 2 ^ 48, pages⟩ : ShelfGrant)] }
    if n == 0xFFFF then
      let (v, s) := s.drawFree
      ({ data := le 2 v }, s)
    else ({ data := le 2 n }, s)

/-- The end of a zeroing (R70, R137, R222): every line zero, clean, with a valid spar. -/
def zeroingDone (s : State) (n : Nat) : State :=
  let x := s.extent n
  if x.state != 1 then s
  else
    let drop := fun (y : HalfSt) => { y with staged := y.staged.filter (fun r => !(r.off < x.base + x.pages * 65536 && x.base < r.off + r.size)) }
    let s := (List.range (x.pages * 16)).foldl (fun s i => (s.leaveGroup (x.base / 4096 + i)).zeroBlock (x.base / 4096 + i)) (s.modBoth drop)
    s.modExtent n (fun x => { x with state := 2 })

/-! ### Revocation (R71 to R74, R95, R254) -/

def inExtent (x : Extent) (off : Nat) : Bool := x.base ≤ off && off < x.base + x.pages * 65536

/-- Near ranges a fence of an extent covers, by offset and length: the extent, and the spill frames of this device that hold
row blocks of it (R41). -/
def fenceRanges (s : State) (x : Extent) : List (Nat × Nat) :=
  (x.base, x.pages * 65536) :: s.ylx.overs.filterMap (fun o => match tget o.1.1 s.ylx.tables with
    | some t => if t.ctx == x.ctx && !o.2.learned && o.2.live && s.isSelf o.2.node && s.isSelf (gaNode (blockGa t o.1.2)) &&
        inExtent x (gaOff (blockGa t o.1.2)) then some (o.2.off, blockBytes t o.1.2) else none
    | none => none)

def inFence (rs : List (Nat × Nat)) (off : Nat) : Bool := rs.any (fun r => r.1 ≤ off && off < r.1 + r.2)

/-- Lines of a fence that a directory tracks. -/
def trackedLines (s : State) (h : Half) (rs : List (Nat × Nat)) : List Nat :=
  ((s.half h).dir.filter (fun e => inFence rs (e.1 * 128))).map (·.1)

/-- Recall every tracked line of the extent; a recall already on its way drops its data too (R71, R254). -/
def fenceRecall (s : State) (n : Nat) (x : Extent) : State :=
  let rs := s.fenceRanges x
  [Half.west, Half.east].foldl (fun s h =>
    let own := fun (w : Why) => match w with
      | .overflow | .move | .deregister _ | .entryError | .fence _ => true
      | _ => false
    let s := s.modHalf h (fun y =>
      { y with pend := y.pend.map (fun p => if inFence rs (p.1 * 128) && own p.2.why then (p.1, { p.2 with why := .fence n, discard := true }) else p),
               recalls := y.recalls.map (fun r => if inFence rs (r.1 * 128) then (r.1, .fence n) else r) })
    (s.trackedLines h rs).foldl (fun s l => s.recallLine h l (.fence n) true) s) s

/-- Moves of pages and row blocks out of or into a fenced extent end (R41, R143): the destination's copy is dropped. What is
reserved here for another device's move into the extent is freed, and that device is told. -/
def fenceMoves (s : State) (x : Extent) : State :=
  let frameIn := fun (page : Nat) => (match tget page s.plc.here with
    | some f => f.ctx == x.ctx && inExtent x f.frame
    | none => false)
  let pageIn := fun (m : PMove) => (s.isSelf (m.page / 2 ^ 32) && m.ctx == x.ctx && inExtent x (m.page % 2 ^ 32 * 65536)) ||
    (!m.demote && s.isSelf m.dest && frameIn m.page)
  let s := (s.plc.moves.filter pageIn).foldl abandonMove s
  let asked := s.plc.here.filter (fun f => !f.2.live && f.2.ctx == x.ctx && inExtent x f.2.frame)
  let s := asked.foldl (fun s f => s.coordinate f.2.src 2 1 0 0 (f.1 * 65536))
    { s with plc.here := s.plc.here.filter (fun f => !asked.any (fun g => g.1 == f.1)) }
  let ofTable := fun (n : Nat) => match tget n s.ylx.tables with
    | some t => t.ctx == x.ctx
    | none => false
  let blockIn := fun (m : RMove) => match tget m.t s.ylx.tables with
    | none => false
    | some t => t.ctx == x.ctx && ((match s.blockHere t m.t m.b with
        | some off => inExtent x off
        | none => false) || (s.isSelf (gaNode (blockGa t m.b)) && inExtent x (gaOff (blockGa t m.b))) ||
        (s.isSelf m.dest && inExtent x m.frame))
  let s := (s.ylx.moves.filter blockIn).foldl abandonRows s
  let asked := s.ylx.overs.filter (fun o => !o.2.live && !o.2.learned && s.isSelf o.2.node && ofTable o.1.1 && inExtent x o.2.off)
  let s := { s with ylx.overs := s.ylx.overs.filter (fun o => !asked.any (fun g => g.1 == o.1)),
                    ylx.spills := s.ylx.spills.filter (fun f => !asked.any (fun g => g.1 == f.2)) }
  asked.foldl (fun s o => match tget o.1.1 s.ylx.tables with
    | some t => s.coordinate (gaNode (blockGa t o.1.2)) 4 1 o.1.1 o.1.2 (blockGa t o.1.2)
    | none => s) s

/-- Discard a placed copy whose SPACE extent is revoked: its home frame is poisoned, and this device forwards for one
course (R93, R95). -/
def discardCopy (s : State) (page : Nat) : State :=
  match tget page s.plc.here with
  | none => s
  | some f =>
      let home := page / 2 ^ 32
      let s := (s.plc.moves.filter (fun m => m.page == page)).foldl abandonMove s
      let s := { s with plc.here := tdel page s.plc.here, plc.forwards := tput page home s.plc.forwards,
                        plc.counters := if s.ownsShelf home then s.plc.counters else tdel page s.plc.counters }
      let s := (s.dropTranslations page).tellMoved (s.deciderOf page) page
      (List.range 16).foldl (fun s i => s.devPut (offHalf f.frame) home (page * 65536 + i * 4096) poisonBlk) s

/-- Row blocks of an extent that another node holds: the page each begins on, that node, and the pages it spans (R41). -/
def blocksAway (s : State) (x : Extent) : List ((Nat × Nat) × Nat) :=
  s.ylx.overs.filterMap (fun o => match tget o.1.1 s.ylx.tables with
    | some t =>
        let g := blockGa t o.1.2
        if t.ctx == x.ctx && !o.2.learned && !s.isSelf o.2.node && s.isSelf (gaNode g) && inExtent x (gaOff g) then
          some ((g / 65536, o.2.node), (g % 65536 + blockBytes t o.1.2 + 65535) / 65536)
        else none
    | none => none)

/-- Raise the fence of an extent (R71 steps 1 to 3, R41, R95). -/
def raiseFence (s : State) (n path : Nat) : State :=
  let x := { s.extent n with state := 3, stamp := s.now, course := s.course, revokeNode := s.nodeNum, path := path,
                             drops := [], ended := 0, dirty := 0, late := 0 }
  let s := { s with spc.extents := tput n x s.spc.extents }
  let s := s.fenceMoves x
  let placed := s.plc.away.filter (fun a => a.1 / 2 ^ 32 == s.nodeNum && inExtent x (a.1 % 2 ^ 32 * 65536) &&
    (s.regionAt x.ctx (a.1 * 65536)).isSome)
  -- pages taken over by an admitted device are fenced there too; those still being loaded are given up (R391)
  let taken := (s.avl.serving.filter (fun v => v.switched && inExtent x v.base)).map (fun v => (s.nodeNum * 2 ^ 32 + v.base / 65536, v.node))
  let held := (placed ++ taken).map (fun a => (a, 1)) ++ s.blocksAway x
  let s := s.modExtent n (fun x => { x with holders := held.map (·.1) })
  let s := held.foldl (fun s a => s.coordinate a.1.2 5 0 0 a.2 (a.1.1 * 65536)) s
  let s := { s with avl.serving := s.avl.serving.filter (fun v => !inExtent x v.base) }
  let mine := (s.plc.here.filter (fun f => f.2.ctx == x.ctx && inExtent x f.2.frame)).map (·.1)
  (mine.foldl discardCopy s).fenceRecall n x

/-- Path code of a revoke (R68). -/
def pathCode (p : Pdu) : Nat :=
  match p.path with
  | .mgmt i => i % 2 + 1
  | .i3c => 3
  | .mailbox _ _ _ => 4

/-- 0x3F00.02 (R71, R72). -/
def revoke (p : Pdu) (d : Bytes) (s : State) : Result × State :=
  let n := field 0 2 d
  let x := s.extent n
  if 1024 ≤ n || x.state ≤ 1 then (outcome .rightsFault, s)
  else if x.state == 2 then ({ data := le 8 s.now }, s.raiseFence n (pathCode p))
  else ({ data := le 8 x.stamp }, s)

/-- The near offset a request of this device's memory lies at. -/
def accOff (s : State) (a : Acc) : Option Nat :=
  match s.locateHere a.ga with
  | .near off => some off
  | _ => none

/-- Whether a request that waits past stage 5 is one of a fenced extent. -/
def ofExtent (s : State) (rs : List (Nat × Nat)) (x : Extent) (a : Acc) : Bool :=
  a.q.ctx == x.ctx && (match s.accOff a with
    | some off => inFence rs off
    | none => false)

/-- Requests admitted before the fence and not complete (R71 step 4). -/
def drainWaits (s : State) (x : Extent) : Bool :=
  let rs := s.fenceRanges x
  s.rdg.blocked.any (fun b => b.2.acc.q.ctx == x.ctx && inFence rs b.2.off) ||
  [Half.west, Half.east].any (fun h =>
    (s.half h).held.any (fun w => w.acc.passed && s.ofExtent rs x w.acc) ||
    (s.half h).pend.any (fun p => inFence rs (p.1 * 128) && (match p.2.why with
      | .coherent a _ => a.q.ctx == x.ctx
      | .version a _ _ => a.q.ctx == x.ctx
      | _ => false))) ||
  s.itg.waits.any (fun w => w.atHome && s.ofExtent rs x w.acc)

/-- Insert a job's count into a list rising by job. -/
def insJob (j n : Nat) : List (Nat × Nat) → List (Nat × Nat)
  | [] => [(j, n)]
  | (k, m) :: t => if j < k then (j, n) :: (k, m) :: t else (k, m) :: insJob j n t

/-- Entries of a report: by job, at most 1,024, with what is beyond the 1,023rd and the device's own in one for job
0xFFFF (R73). -/
def reportEntries (drops : Tbl Nat Nat) : List (Nat × Nat) :=
  let own := tgetD 0xFFFF 0 drops
  let jobs := (drops.filter (fun x => x.1 != 0xFFFF && x.2 != 0)).foldl (fun l x => insJob x.1 x.2 l) []
  let full := jobs.length + ofBool (own != 0) > 1024
  let rest := if full then (jobs.drop 1023).foldl (fun n x => n + x.2) own else own
  (if full then jobs.take 1023 else jobs) ++ (if rest != 0 then [(0xFFFF, rest)] else [])

/-- The revocation report (R73). -/
def reportBytes (n : Nat) (x : Extent) (seq : Nat) : Bytes :=
  let es := reportEntries x.drops
  let cap := fun (v : Nat) => le 4 (min v (2 ^ 32 - 1))
  le 2 n ++ le 2 x.ctx ++ le 4 es.length ++ le 8 x.course ++ le 8 x.stamp ++
    cap (es.foldl (fun n e => n + e.2) 0) ++ cap x.ended ++ cap x.dirty ++ le 4 seq ++
    (es.map (fun e => le 2 e.1 ++ zeros 2 ++ cap e.2)).flatten

/-- Discard the pending operation of a line that a drain's end finds Recall-pending (R71, R254): the line is Invalid, and
a request of another context that waited for it is sent back. -/
def discardPend (s : State) (h : Half) (line : Nat) (p : Pend) : State :=
  let s := (s.modHalf h (fun y => { y with pend := tdel line y.pend })).setEntry h line none
  match p.why with
  | .coherent a _ | .version a _ _ => (s.count h 0x4090 6).retry h a 5
  | .access id => (match tget id s.rdg.blocked with
      | some b => ({ s with rdg.blocked := tdel id s.rdg.blocked }.count h 0x4090 6).retry h b.acc 5
      | none => s)
  | .defineRegion r => s.writeVersion h r
  | _ => s

/-- The end of the drain: lines still Recall-pending become Invalid, and the report is built (R71 steps 4 and 5, R254). -/
def endDrain (s : State) (n : Nat) : State :=
  let x := s.extent n
  let rs := s.fenceRanges x
  let s := [Half.west, Half.east].foldl (fun s h =>
    let lines := (s.half h).pend.filter (fun p => inFence rs (p.1 * 128))
    lines.foldl (fun s l => (s.discardPend h l.1 l.2).drainRecalls h) s) s
  let seq := s.spc.reportSeq
  let rec' := reportBytes n x seq
  let s := { s with spc.reportSeq := (seq + 1) % 2 ^ 32, spc.reports := tput n rec' s.spc.reports }
  let s := s.modExtent n (fun x => { x with state := 4, reportSeq := seq, holders := [] })
  if x.path == 4 then s.toCompanion .west true (.report rec') else s

/-- The drain ends when the last request admitted before the fence has completed (R71 step 4, R95). -/
def drainEnd (s : State) (n : Nat) : State :=
  let x := s.extent n
  if x.state == 3 && x.holders.isEmpty && !s.drainWaits x then s.endDrain n else s

/-- A request ended at the drain limit (R71 step 4): ACCESS_REVOKED, its write dropped and counted. -/
def endAtLimit (s : State) (n : Nat) (a : Acc) : State :=
  let h := match s.accOff a with
    | some off => offHalf off
    | none => .west
  let s := s.modExtent n (fun x => { x with ended := x.ended + 1 })
  let s := if isDropped a then s.countDrop n a.q.job else s
  s.answer h a { status := .accessRevoked, fault := 0x21 }

/-- The drain limit: 64 µs after the fence (R71 step 4). -/
def drainLimit (s : State) (n : Nat) : State :=
  let x := s.extent n
  if x.state != 3 || s.now < x.stamp + 102400 then s
  else
    let rs := s.fenceRanges x
    let blocked := s.rdg.blocked.filter (fun b => b.2.acc.q.ctx == x.ctx && inFence rs b.2.off)
    let s := { s with rdg.blocked := s.rdg.blocked.filter (fun b => !blocked.any (fun c => c.1 == b.1)) }
    let s := blocked.foldl (fun s b => s.endAtLimit n b.2.acc) s
    let s := [Half.west, Half.east].foldl (fun s h =>
      let held := (s.half h).held.filter (fun w => w.acc.passed && s.ofExtent rs x w.acc)
      let s := s.modHalf h (fun y => { y with held := y.held.filter (fun w => !held.contains w) })
      let s := held.foldl (fun s w => (s.endAtLimit n w.acc).push (.behind w.acc.q.src w.acc.q.sid)) s
      let pends := (s.half h).pend.filter (fun p => inFence rs (p.1 * 128))
      pends.foldl (fun s p => match p.2.why with
        | .coherent a _ | .version a _ _ =>
            if a.q.ctx == x.ctx then
              (s.modHalf h (fun y => { y with pend := tput p.1 { p.2 with why := .fence n, discard := true } y.pend })).endAtLimit n a
            else s
        | _ => s) s) s
    let waits := s.itg.waits.filter (fun w => w.atHome && s.ofExtent rs x w.acc)
    let s := { s with itg.waits := s.itg.waits.filter (fun w => !waits.contains w) }
    (waits.foldl (fun s w => s.endAtLimit n w.acc) s).endDrain n

/-- 0x3F00.03 (R71 step 6, R72). -/
def acknowledge (d : Bytes) (s : State) : Result × State :=
  let n := field 0 2 d
  let x := s.extent n
  if 1024 ≤ n || x.state != 4 || field 2 4 d != x.reportSeq then (outcome .rightsFault, s)
  else ({ data := le 4 x.late }, { s with spc.extents := tdel n s.spc.extents })

end State

/-- A write of a context descriptor (R49, R51, R83, R336). -/
def execContextDescriptorWrite (dt : Nat) (c sub : Nat) (p : Pdu) (s : State) : Host.Outcome State Fault Refusal :=
  act (.contextDescriptorWrite dt c sub p) dt s (fun s => s.dictWrite p (0x3000 + c) sub (State.ctxWrite c sub))

/-- An invalidation (R62 to R66). -/
def execInvalidation (dt : Nat) (via : Via) (src tag op ctx seq addr pages : Nat) (s : State) :
    Host.Outcome State Fault Refusal :=
  act (.invalidation dt via src tag op ctx seq addr pages) dt s (fun s =>
    s.orPass via (.invalidation src op ctx seq addr pages) (fun v s => s.invalidate v src op ctx seq addr pages))

/-- The acknowledgement of an invalidation is sent (R65, R66). -/
def execInvalidationAck (dt : Nat) (via : Via) (src seq : Nat) (s : State) : Host.Outcome State Fault Refusal :=
  act (.invalidationAck dt via src seq) dt s (fun s =>
    s.orPass via (.invalidationAck src seq) (fun v s => s.invAcknowledge v src seq))

/-- Grant (R69, R70). -/
def execGrant (dt : Nat) (p : Pdu) (s : State) : Host.Outcome State Fault Refusal :=
  act (.grant dt p) dt s (fun s => s.dictWrite p 0x3F00 1 State.grant)

/-- Zeroing of a granted extent ends (R70). -/
def execZeroingComplete (dt : Nat) (n : Nat) (s : State) : Host.Outcome State Fault Refusal :=
  act (.zeroingComplete dt n) dt s (fun s => s.zeroingDone n)

/-- Revoke (R71, R72). -/
def execRevoke (dt : Nat) (p : Pdu) (s : State) : Host.Outcome State Fault Refusal :=
  act (.revoke dt p) dt s (fun s => s.dictWrite p 0x3F00 2 (State.revoke p))

/-- The drain ends (R71). -/
def execRevocationDrainEnd (dt : Nat) (n : Nat) (s : State) : Host.Outcome State Fault Refusal :=
  act (.revocationDrainEnd dt n) dt s (fun s => s.drainEnd n)

/-- The drain reaches its limit (R71). -/
def execRevocationDrainLimit (dt : Nat) (n : Nat) (s : State) : Host.Outcome State Fault Refusal :=
  act (.revocationDrainLimit dt n) dt s (fun s => s.drainLimit n)

/-- Acknowledge (R71, R72). -/
def execAcknowledge (dt : Nat) (p : Pdu) (s : State) : Host.Outcome State Fault Refusal :=
  act (.acknowledge dt p) dt s (fun s => s.dictWrite p 0x3F00 3 State.acknowledge)

/-- Shelf grant (R84). -/
def execShelfGrant (dt : Nat) (p : Pdu) (s : State) : Host.Outcome State Fault Refusal :=
  act (.shelfGrant dt p) dt s (fun s => s.dictWrite p 0x3F10 1 State.shelfGrant)

end Sys2Proof.Machine
end

