-- ==== Sys2Proof/Machine/Place.lean ====
section
/-! DEFINITION. Placement (R75 to R107): regions, fallback records, hints, space requests, copies, fences of placed
copies, and what a controller does with its pages at a boundary. -/

namespace Sys2Proof.Machine
namespace State

/-! ### Regions (R78 to R81) -/

/-- Whether a GA's node is this device or a shelf it owns. -/
def ownNode (s : State) (ga : Nat) : Bool := s.isSelf (gaNode ga) || s.ownsShelf (gaNode ga)

/-- Whether a page range is covered at its home: by granted extents, or on an owned shelf by what this device has granted
there (R79, R84, R508). -/
def regionCovered (s : State) (c base pages : Nat) : Bool :=
  if s.isSelf (gaNode base) then s.grantedRange c (gaOff base) pages
  else s.grantedOnShelf c (gaNode base) (gaOff base) pages

/-- Pages of a region that have a placed copy elsewhere, or copies held in it (R80 .05). -/
def regionCopies (s : State) (r : Region) : Nat :=
  if isSpace r then
    (s.plc.here.filter (fun f => f.2.ctx == r.ctx && s.isSelf (gaNode r.base) && inPages (gaOff r.base) r.pages (f.2.frame / 65536))).length
  else
    (s.plc.away.filter (fun a => inPages (s.homeGa r.base) r.pages a.1)).length +
      (s.plc.here.filter (fun f => f.2.live && inPages (s.homeGa r.base) r.pages f.1)).length

/-- The change of class of a record in use (R79, R81); the holders of a draining region's copies are told. -/
def reclass (s : State) (n : Nat) (r : Region) (cls : Nat) : State :=
  let drains := ((r.cls == 2 || r.cls == 3) && cls ≤ 1) || (r.cls == 4 && cls == 0)
  if drains then
    let s := { s with plc.regions := tput n { r with drain := some cls } s.plc.regions }
    if isSpace r then s
    else (s.plc.away.filter (fun a => inPages (s.homeGa r.base) r.pages a.1)).foldl (fun s a => s.tellHolder a.1 a.2) s
  else if cls == 0 then { s with plc.regions := tdel n s.plc.regions }
  else { s with plc.regions := tput n { r with cls := cls, drain := none } s.plc.regions }

/-- 0x3F20.01 (R79, R509). DESIGN CHOICE (log entry 117): an r from 512 to 0xFFFE has no row of its own and is answered
RIGHTS_FAULT; bits [63:62] of the base, reserved in a GA, are ignored. -/
def regionCmd (d : Bytes) (s : State) : Result × State :=
  let n := field 0 2 d
  let c := field 2 2 d
  let base := field 4 8 d % 2 ^ 62
  let pages := field 12 4 d
  let cls := field 16 1 d
  if 1023 < c || base % 65536 != 0 || pages == 0 || 4 < cls then (outcome .translationFault, s)
  else if !s.ownNode base || c == 0 || (n != 0xFFFF && 512 ≤ n) then (outcome .rightsFault, s)
  else match (if n == 0xFFFF then none else tget n s.plc.regions) with
    | some r =>
        if r.ctx != c || s.homeGa r.base != s.homeGa base || r.pages != pages then (outcome .rightsFault, s)
        else if !s.regionCovered c base pages then (outcome .rightsFault, s)
        else ({}, s.reclass n r cls)
    | none =>
        if cls == 0 || !s.regionCovered c base pages || s.plc.regions.any (fun r => r.2.ctx == c &&
            gaNode (s.homeGa r.2.base) == gaNode (s.homeGa base) && rangesMeet (s.homeGa r.2.base) r.2.pages (s.homeGa base) pages) then
          (outcome .rightsFault, s)
        else match (if n == 0xFFFF then freeNum s.plc.regions 512 0 else some n) with
          | none => (outcome .quotaExceeded, s)
          | some k => ({}, { s with plc.regions := tput k { cls := cls, ctx := c, base := base, pages := pages } s.plc.regions })

/-- Draining regions with no copies left take their new class (R81). -/
def endDraining (s : State) : State :=
  s.plc.regions.foldl (fun s x =>
    match x.2.drain with
    | none => s
    | some cls =>
        if s.regionCopies x.2 != 0 then s
        else if cls == 0 then { s with plc.regions := tdel x.1 s.plc.regions }
        else { s with plc.regions := tput x.1 { x.2 with cls := cls, drain := none } s.plc.regions }) s

/-! ### Fallback records and hints (R96, R102) -/

/-- 0x3F20.02 (R102, R509): the record of the same context and base, else a free one. DESIGN CHOICE (log entry 118): a
misaligned base or a reserved ratio completes TRANSLATION_FAULT and a full table QUOTA_EXCEEDED, for which the rule gives no
status, and the free record is the lowest-numbered one. -/
def fallbackCmd (d : Bytes) (s : State) : Result × State :=
  let c := field 0 2 d
  let base := field 2 8 d % 2 ^ 62
  let pages := field 10 4 d
  let copy := field 14 8 d
  let ratio := field 22 1 d
  let n := (pages * 65536 + ratio - 1) / max 1 ratio
  if 1023 < c || base % 65536 != 0 || !(ratio == 1 || ratio == 2 || ratio == 4) then (outcome .translationFault, s)
  else if !s.grantedRange c (copy / 65536 * 65536) ((copy % 65536 + n + 65535) / 65536) then (outcome .rightsFault, s)
  else
    let same := (s.plc.fallbacks.find? (fun f => f.2.ctx == c && f.2.base == base)).map (·.1)
    match (match same with
      | some k => some k
      | none => freeNum s.plc.fallbacks 256 0) with
    | none => (outcome .quotaExceeded, s)
    | some k => ({}, { s with plc.fallbacks := tput k ⟨c, base, pages, copy, ratio⟩ s.plc.fallbacks })

/-- Whether every page of a range lies in MANAGED or HINTED regions of a context. -/
def hintable (s : State) (c base pages : Nat) : Bool :=
  let rs := s.plc.regions.filter (fun r => r.2.ctx == c && (r.2.cls == 2 || r.2.cls == 3))
  let reach := fun (at' : Nat) => rs.foldl (fun m r =>
    let b := s.homeGa r.2.base
    if b ≤ at' && at' < b + r.2.pages * 65536 then max m (b + r.2.pages * 65536) else m) at'
  (List.range (rs.length + 1)).foldl (fun at' _ => reach at') base ≥ base + pages * 65536

/-- Add a hint: it replaces what it overlaps, and the oldest gives way in a full table (R96). -/
def addHint (s : State) (h : Half) (x : Hint) : State :=
  let keep := s.plc.hints.filter (fun y => !(y.page < x.page + x.pages && x.page < y.page + y.pages))
  let keep := if 4096 ≤ keep.length then keep.drop 1 else keep
  { s with plc.hints := keep ++ [x] }.count h 0x4042 9

/-- Record a hint at the home, or count it as dropped (R96, R326); it is passed on to the holders of placed pages. -/
def recordHint (s : State) (h : Half) (d : Bytes) (admitted : Bool) : State :=
  let c := bits 9 0 d
  let target := bits 29 16 d
  let pages := max 1 (field 4 4 d)
  let base := s.homeGa (field 8 8 d % 2 ^ 62 / 65536 * 65536)
  if !admitted || !s.hintable c base pages || (target != 0x3FFF && s.beyondGateway target) then s.count h 0x4042 0xA
  else
    let s := s.addHint h ⟨c, target, base / 65536, pages⟩
    (s.plc.away.filter (fun a => inPages base pages a.1)).foldl (fun s a => s.tellHolder a.1 a.2) s

/-- A hint that the home of a page placed here has passed on (R89, R96), or its word that the page's region drains (R81). -/
def holderHint (s : State) (h : Half) (d : Bytes) : State :=
  let page := s.homeGa (field 8 8 d % 2 ^ 62) / 65536
  let target := bits 29 16 d
  if target == 0x3FFF then
    { s with plc.here := s.plc.here.map (fun (f : Nat × Placed) => if f.1 == page then (f.1, { f.2 with drain := true }) else f) }
  else s.addHint h ⟨bits 9 0 d, target, page, 1⟩

/-- Send a hint on to the home of its pages; none crosses a gateway (R96, R326). -/
def sendHint (s : State) (h : Half) (n : Nat) (d : Bytes) : State :=
  if s.beyondGateway n then s.count h 0x4042 0xA else s.control n 3 (.hint d)

/-- A hint message (R96): recorded at the home, sent on to it from elsewhere. Before service it is refused (R483). -/
def hintMsg (s : State) (via : Via) (d : Bytes) : State :=
  let s := s.countArrival via 3 7
  let c := bits 9 0 d
  let base := s.homeGa (field 8 8 d % 2 ^ 62)
  let admitted := match via with
    | .geled _ hv => hv || bitOf (s.ctx c).mask 32
    | .port p => s.roleOf p != 2 || bitOf (s.ctx c).mask p
    | .batch _ | .onward _ _ => true
  if s.phase < 0xA && c != 0 then s
  else if !s.entersHere via && !s.ownNode base && thas (base / 65536) s.plc.here then s.holderHint (viaHalf via) d
  else if s.ownNode base || !s.entersHere via || !admitted then s.recordHint (viaHalf via) d admitted
  else s.sendHint (viaHalf via) (gaNode base) d

/-- 0x3F20.03 (R96). DEDUCED (log entry 119): a hint for a page of another home is sent on to it, as a hint message is. -/
def hintObject (p : Pdu) (d : Bytes) (s : State) : Result × State :=
  let base := s.homeGa (field 8 8 d % 2 ^ 62)
  ({}, if s.ownNode base then s.recordHint (pathHalf p) d true else s.sendHint (pathHalf p) (gaNode base) d)

/-! ### Space (R84, R90) -/

/-- Pages in SPACE regions of a context on this device (R83 .12). -/
def spacePages (s : State) (c : Nat) : Nat :=
  (s.plc.regions.filter (fun r => isSpace r.2 && r.2.ctx == c)).foldl (fun n r => n + r.2.pages) 0

/-- Placed copies of a context held here (R83 .13). -/
def copiesHeld (s : State) (c : Nat) : Nat := (s.plc.here.filter (fun f => f.2.ctx == c)).length

/-- Frames of a context's SPACE on one stack, used and in all; a draining region takes no new copy. -/
def spaceFrames (s : State) (c k : Nat) (draining : Bool) : List Nat :=
  (s.plc.regions.filter (fun r => isSpace r.2 && r.2.ctx == c && (draining || r.2.drain.isNone))).foldl (fun l r =>
    l ++ ((List.range r.2.pages).map (fun i => gaOff r.2.base + i * 65536)).filter (fun f => stackOf f == k)) []

def frameUsed (s : State) (f : Nat) : Bool := s.plc.here.any (fun x => x.2.frame == f)

/-- Whether an agent still holds a line of a frame: its last copy has gone, but not yet its directory entries (R253). -/
def frameTracked (s : State) (f : Nat) : Bool := (s.half (offHalf f)).dir.any (fun e => f ≤ e.1 * 128 && e.1 * 128 < f + 65536)

/-- The free frame a new copy takes: on the stack with the most free frames, the lower on a tie (R90). DESIGN CHOICE (log
entry 120): the rule names the stack alone; the frame is the lowest free one there. -/
def freeFrame (s : State) (c : Nat) : Option Nat :=
  let free := fun (k : Nat) => (s.spaceFrames c k false).filter (fun f => !s.frameUsed f && !s.frameTracked f)
  let best := (List.range 16).foldl (fun b k => if (free k).length > (free b).length then k else b) 0
  (free best).foldl (fun (b : Option Nat) f => match b with
    | none => some f
    | some x => some (min x f)) none

/-- Atomics are defined only within one device (R287): no page is placed away from its home (R288). -/
def islandMode (s : State) : Bool := s.gcfg 0x20C0 1 == 0

/-- A refusal of space is counted (R90). -/
def refuseSpace (s : State) (c : Nat) : State :=
  (s.modCtx c (fun x => { x with promRefused := min (x.promRefused + 1) (2 ^ 32 - 1) })).count s.holder 0x4042 5

/-- Accept or refuse a page of a context for a device that asks (R84, R90, R288). The class of its region is known here only
where this device is its home; else, of the two classes that allow a copy, it is open (log entry 116). -/
def takeSpace (s : State) (c page src : Nat) : Bool × State :=
  if s.islandMode then (false, s.refuseSpace c)
  else if thas page s.plc.here then (true, s)
  else match (if s.copiesHeld c < s.spacePages c then s.freeFrame c else none) with
    | some f =>
        let (v, s) := if s.ownNode (page * 65536) then (s.classOf c (page * 65536), s)
          else ((2 + Config.freeValue s.free % 2), { s with free := s.free + 1 })
        (true, { s with plc.here := tput page { ctx := c, frame := f, cls := v, src := src } s.plc.here })
    | none => (false, s.refuseSpace c)

/-- A space request arrives (R90). -/
def spaceRequested (s : State) (src c ga : Nat) : State :=
  let (ok, s) := if s.beyondGateway src then (false, s.refuseSpace c) else s.takeSpace c (ga / 65536) src
  s.coordinate src 2 (if ok then 0 else 1) 0 0 ga

/-- Start a move (R88): `some true` once it is under way; `none` while another device is asked for space. In island mode
nothing is placed (R288). -/
def startMove (s : State) (page c dest : Nat) (demote hinted : Bool) : Option Bool × State :=
  let m : PMove := { page := page, ctx := c, dest := dest, demote := demote, hinted := hinted }
  let start := fun (s : State) =>
    let s := if hinted then { s with plc.state := Nat.lor s.plc.state 8 } else s
    { s with plc.moves := s.plc.moves ++ [{ m with accepted := true }] }.startCopy page
  if demote then (some true, start s)
  else if s.islandMode then (some false, s.refuseSpace c)
  else if s.isSelf dest then
    let (ok, s) := s.takeSpace c page s.nodeNum
    if ok then (some true, start s) else (some false, s)
  else (none, { s with plc.moves := s.plc.moves ++ [m] }.coordinate dest 1 0 0 0 (page * 65536))

/-- A copy is complete when every line has been copied once (R91); what was written meanwhile is copied again, and the
source recalls what agents hold (R253). -/
def copyComplete (s : State) (ga : Nat) : State :=
  let page := ga / 65536
  match s.moveOf page with
  | none => s
  | some m =>
      if m.phase != 1 || m.left != 0 then s
      else
        let s := (s.modMove page (fun x => { x with phase := 2 })).copyDirty m
        match s.pageAt page with
        | none => s
        | some off =>
            let h := offHalf off
            (((s.half h).dir.filter (fun e => off ≤ e.1 * 128 && e.1 * 128 < off + 65536)).map (·.1)).foldl
              (fun s l => s.recallLine h l .move false) s

/-! ### Fences of placed copies (R95) -/

/-- A holder has fenced: its dropped writes are in the report, and its copies are gone (R95). -/
def fenceReported (s : State) (src ga pages : Nat) (drops : List (Nat × Nat)) : State :=
  let hit := fun (page : Nat) => inPages ga (max 1 pages) page
  let mine := fun (g : Nat × Nat) => hit g.1 && g.2 == src
  let gone := s.ylx.overs.filterMap (fun o => match tget o.1.1 s.ylx.tables with
    | some t => if !o.2.learned && o.2.node == src && hit (blockGa t o.1.2 / 65536) then some o.1 else none
    | none => none)
  let s := { s with plc.away := s.plc.away.filter (fun a => !mine a), plc.backs := s.plc.backs.filter (fun b => !hit b.1),
                    ylx.overs := s.ylx.overs.filter (fun o => !gone.contains o.1) }
  s.spc.extents.foldl (fun s x =>
    if x.2.holders.any mine then
      s.modExtent x.1 (fun y => { y with holders := y.holders.filter (fun g => !mine g), drops := drops.foldl (fun t d => tmod d.1 0 (· + d.2) t) y.drops })
    else s) s

/-! ### The boundary (R87 to R91, R93, R104) -/

/-- Whether a line of a page is Recall-pending at this device's ridge, or a recall of one still waits for room (R41, R253). -/
def pageRecalling (s : State) (page : Nat) : Bool :=
  match s.pageAt page with
  | none => false
  | some off =>
      let x := s.half (offHalf off)
      let inPage := fun (l : Nat) => off ≤ l * 128 && l * 128 < off + 65536
      x.dir.any (fun e => inPage e.1) || x.recalls.any (fun r => inPage r.1)

/-- Step 9: the commits of copied pages (R41, R91); no copy traffic runs while the domain is down (R258). -/
def commitPages (s : State) : State :=
  if s.rdg.mode == 0 then s
  else (s.plc.moves.filter (fun m => m.phase == 2)).foldl (fun s m =>
    if s.pageRecalling m.page then s.count s.holder 0x4020 9
    else if m.dirty.length ≤ 32 then ((s.modMove m.page (fun x => { x with phase := 3 })).copyDirty m).switchDone m.page
    else if m.deferrals ≥ 4 then s.abandonMove m
    else ((s.modMove m.page (fun x => { x with deferrals := m.deferrals + 1 })).copyDirty m).count s.holder 0x4042 6) s

/-- Marks of contexts to be trimmed on a stack (R90). -/
def markTrims (s : State) : State :=
  let cs := s.plc.regions.foldl (fun (l : List Nat) r => if isSpace r.2 then addOnce r.2.ctx l else l) []
  cs.foldl (fun s c => (List.range 16).foldl (fun s k =>
    let all := s.spaceFrames c k true
    let used := (all.filter s.frameUsed).length
    if used * 16 > all.length * 15 then { s with plc.trims := addOnce (c, k) s.plc.trims }
    else if used * 8 ≤ all.length * 7 then { s with plc.trims := s.plc.trims.filter (· ≠ (c, k)) }
    else s) s) s

/-- Controller of a page held here: of its frame's stack, or for a page of an owned shelf p mod 8 of the shelf's half
(R76). -/
def controllerOf (s : State) (page : Nat) : Nat :=
  match s.pageAt page with
  | some off => stackOf off
  | none => (s.shelfHalf (page / 2 ^ 32)).num * 8 + page % 8

/-- Steps 3 and 4 for page counters (R87): snapshot, and halving where the course of the controller's half is a
multiple of 16. -/
def snapCounters (s : State) (h : Half) (course : Nat) : State :=
  let step := fun (w : Counter) =>
    { w with snap := w.count, snapCand := w.cand, snapWeight := w.weight,
             count := if course % 16 == 0 then w.count / 2 else w.count, weight := if course % 16 == 0 then w.weight / 2 else w.weight }
  { s with plc.counters := s.plc.counters.map (fun (w : Nat × Counter) =>
      if stackHalf (s.controllerOf w.1) = h then (w.1, step w.2) else w) }

/-- A stable sort by a strict order. -/
def insBy {α : Type} (lt : α → α → Bool) (x : α) : List α → List α
  | [] => [x]
  | y :: t => if lt x y then x :: y :: t else y :: insBy lt x t

def sortBy {α : Type} (lt : α → α → Bool) (l : List α) : List α := l.foldr (fun x t => insBy lt x t) []

def snapOf (s : State) (page : Nat) : Counter := tgetD page {} s.plc.counters

/-- Whether the counters of a context are enabled (R85). -/
def countersOn (s : State) (h : Half) (c : Nat) : Bool := s.cfgBit h 0x2070 1 0 && !bitOf (s.ctx c).flags 1

/-- Whether a hint governs a page of a class (R78, R85, R96), and its target. -/
def hintFor (s : State) (h : Half) (c cls page promote : Nat) : Option Nat :=
  if !s.cfgBit h 0x2070 1 1 then none
  else match s.plc.hints.find? (fun x => x.ctx == c && x.page ≤ page && page < x.page + x.pages) with
    | none => none
    | some x =>
        let w := s.snapOf page
        let off := !s.countersOn h c
        let empty := w.snap == 0 || bitOf s.plc.state 0
        let used := if cls == 3 then off || decide (w.snap < promote) || empty else off || empty || w.snap == 255
        if used then some x.target else none

/-- Where a page should go (R89): the node, whether that is a demotion to its home, and whether a hint says so. A target is a
YX3 of this roof: no shelf, and nothing beyond a gateway. -/
def chooseTarget (s : State) (h : Half) (c cls page promote : Nat) : Option (Nat × Bool × Bool) :=
  let home := page / 2 ^ 32
  let held := thas page s.plc.here
  let w := s.snapOf page
  let minW := max 1 (min 15 (s.cfg h 0x2070 5))
  let ok := fun (n : Nat) => s.isSelf n || s.isRoofPeer n
  let go := fun (n : Nat) (hint : Bool) =>
    if held then
      (if n == s.nodeNum then none else if n == home then some (home, true, hint) else if ok n then some (n, false, hint) else none)
    else if n == home then none else if ok n then some (n, false, hint) else none
  match s.hintFor h c cls page promote with
  | some t => go (if t == 0x3FFF then home else t) true
  | none =>
      if !s.countersOn h c || bitOf s.plc.state 0 || w.snap < promote || w.snapWeight < minW then none else go w.snapCand false

/-- Whether a copy held here is in a draining region: its SPACE, or its page's own region (R81). -/
def drainingCopy (s : State) (page : Nat) (f : Placed) : Bool :=
  f.drain || s.plc.regions.any (fun r => r.2.drain.isSome && r.2.ctx == f.ctx &&
    (if isSpace r.2 then s.isSelf (gaNode r.2.base) && inPages (gaOff r.2.base) r.2.pages (f.frame / 65536)
     else inPages (s.homeGa r.2.base) r.2.pages page))

/-- Whether a page may not move now: it moves already, or a copy given up has requests on their way. -/
def pageBusy (s : State) (page : Nat) : Bool :=
  s.plc.moves.any (fun m => m.page == page) || s.openAccs.any (fun a => match a.org with
    | .copy p _ => p == page
    | _ => false)

/-- Region class and context of a page that this device may promote or re-place (R78, R81, R88): of its own, or held here. -/
def candOf (s : State) (page : Nat) : Option (Nat × Nat) :=
  if thas page s.plc.away || s.pageBusy page then none
  else
    let own := (s.plc.regions.find? (fun r => (r.2.cls == 2 || r.2.cls == 3) && r.2.drain.isNone &&
      inPages (s.homeGa r.2.base) r.2.pages page)).map (fun r => (r.2.cls, r.2.ctx))
    match tget page s.plc.here with
    | some f => if !f.live || s.drainingCopy page f then none else if s.ownNode (page * 65536) then own else some (f.cls, f.ctx)
    | none => if s.ownNode (page * 65536) then own else none

/-- Slate.promote (R88). -/
def promoteOf (s : State) (h : Half) : Nat := max (s.cfg h 0x2070 4) (s.cfg h 0x2070 6 + 1)

/-- Pages of a controller that are counted enough or that a hint names, hottest first (R88). -/
def candidates (s : State) (k : Nat) : List Nat :=
  let promote := s.promoteOf (stackHalf k)
  let hot := (s.plc.counters.filter (fun w => w.2.snap ≥ promote)).map (·.1)
  let hinted := (s.plc.hints.map (fun x => (List.range x.pages).map (· + x.page))).flatten
  let all := (hot ++ hinted).foldl (fun (l : List Nat) p => addOnce p l) []
  let known := all.filter (fun page => (s.candOf page).isSome && s.controllerOf page == k)
  sortBy (fun a b => (s.snapOf a).snap > (s.snapOf b).snap || ((s.snapOf a).snap == (s.snapOf b).snap && a < b)) known

/-- Step 2 of a controller's selection from some page on (R88): budget is spent on an ACCEPT alone, so the loop waits for each
answer of another device. -/
def pickPages (k : Nat) : Nat → List Nat → State → State
  | _, [], s => { s with plc.loops := tdel k s.plc.loops }
  | budget, page :: rest, s =>
      if budget == 0 then { s with plc.loops := tdel k s.plc.loops }
      else
        let h := stackHalf k
        match (s.candOf page).bind (fun x => (s.chooseTarget h x.2 x.1 page (s.promoteOf h)).map (fun t => (x.2, t))) with
        | none => pickPages k budget rest s
        | some (c, n, demote, hinted) =>
            match s.startMove page c n demote hinted with
            | (some true, s) => pickPages k (budget - 1) rest s
            | (some false, s) => pickPages k budget rest s
            | (none, s) => { s with plc.loops := tput k (budget, rest) s.plc.loops }

/-- The selection that waited for an answer about a page goes on (R88). -/
def pickOn (s : State) (page used : Nat) : State :=
  let k := s.controllerOf page
  match tget k s.plc.loops with
  | some (budget, rest) => pickPages k (budget - used) rest s
  | none => s

/-! ### The partner's side of an admission (R390) -/

/-- Send a page's logged lines once more, each with its poison and result state; one whose group has no receiver slot stays in
the log (R210, R230, R390). -/
def sendLogged (s : State) (v : Serving) : List Nat × State :=
  v.log.foldl (fun (acc : List Nat × State) l =>
    let (left, s) := acc
    let m := s.metaOf (l / 32)
    let send := fun (s : State) (ck : Option CheckId) =>
      s.devWrite (offHalf (l * 128)) v.node (mkGa s.nodeNum (l * 128)) (s.loadBytes (l * 128) 128) (ofBool (s.poisoned l)) m.st ck .device
    match (if m.st == 1 then tget m.hold s.itg.groups else none) with
    | none => (left, send s none)
    | some g => (match s.groupReceiver m.hold g v.node with
        | some s => (left, send s (some (s.idOf g)))
        | none => (left ++ [l], s))) ([], s)

/-- A page wholly copied, with few logged lines and no line held by an agent, switches; its requests wait meanwhile, which
takes no command. -/
def switchServed (s : State) (v : Serving) : State :=
  let put := fun (s : State) (w : Serving) => { s with avl.serving := s.avl.serving.map (fun x => if x.base == v.base then w else x) }
  if v.switched || v.copied.length < 512 * v.pages then s
  else if 32 < v.log.length then
    let (left, s) := s.sendLogged v
    put s { v with log := left }
  else
    let h := offHalf v.base
    let held := (s.half h).dir.filter (fun e => v.base ≤ e.1 * 128 && e.1 * 128 < v.base + v.pages * 65536)
    if held.any (fun e => isRp e.2) then s.count s.holder 0x4020 9
    else if !held.isEmpty then held.foldl (fun s e => s.recallLine h e.1 .move false) s
    else
      let (left, s) := s.sendLogged v
      put s { v with log := left, switched := left.isEmpty }

/-- The device being admitted is ready, and its course has come (log entry 123). -/
def servedDue (s : State) (src page : Nat) : State :=
  match s.avl.serving.find? (fun v => v.node == src && s.nodeNum * 2 ^ 32 + v.base / 65536 == page) with
  | some v => ({ s with avl.serving := s.avl.serving.map (fun x => if x.base == v.base then { x with due := true } else x) } : State).switchServed { v with due := true }
  | none => s

/-- A space answer that answers no request: the former location says that a page has switched (R92, R93, log entry 58). -/
def pageNotice (s : State) (src page : Nat) : State :=
  if thas page s.plc.here then
    let s := s.goLive page
    if src == s.deciderOf page then s else s.tellMoved (s.deciderOf page) page
  else match tget page s.plc.away with
    | none => s.servedDue src page
    | some n => if n == src then s.noteBack page 16
        else ({ s with plc.away := tput page src s.plc.away }.tellHolder page src).dropTranslations page

/-- A space answer arrives (R88, R90, R91): the copy starts, or the page is reconsidered at the next boundary; and the
controller's selection goes on. -/
def spaceAnswered (s : State) (src ga : Nat) (accept : Bool) : State :=
  let page := ga / 65536
  match s.moveOf page with
  | none => if accept then s.pageNotice src page else s
  | some m =>
      if m.dest != src || m.demote then (if accept then s.pageNotice src page else s)
      else if m.accepted then (if accept then s else s.forgetMove page)
      else if accept then
        let s := if m.hinted then { s with plc.state := Nat.lor s.plc.state 8 } else s
        ((s.modMove page (fun x => { x with accepted := true })).startCopy page).pickOn page 1
      else (s.forgetMove page).pickOn page 0

/-- One controller's selection (R88); in island mode every copy held here is demoted (R288). -/
def selectPages (s : State) (k : Nat) : State :=
  let h := stackHalf k
  let budget := min 1024 (s.cfg h 0x2070 3)
  let demote := s.cfg h 0x2070 6
  let held := s.plc.here.filter (fun f => f.2.live && stackOf f.2.frame == k && !s.pageBusy f.1)
  let key := fun (f : Nat × Placed) => (ofBool (!s.drainingCopy f.1 f.2), (s.snapOf f.1).snap, f.1)
  let lt := fun (a b : Nat × Placed) =>
    let x := key a
    let y := key b
    x.1 < y.1 || (x.1 == y.1 && (x.2.1 < y.2.1 || (x.2.1 == y.2.1 && x.2.2 < y.2.2)))
  let (s, budget) := (sortBy lt held).foldl (fun (acc : State × Nat) f =>
    let (s, b) := acc
    if b == 0 then (s, b)
    else
      let trim := s.plc.trims.contains (f.2.ctx, k)
      if s.islandMode || s.drainingCopy f.1 f.2 || (s.snapOf f.1).snap ≤ demote || trim then
        ((s.startMove f.1 f.2.ctx (f.1 / 2 ^ 32) true false).2, b - 1)
      else (s, b)) (s, budget)
  pickPages k budget (s.candidates k) s

/-- The selections of all controllers (R88, R90), none while the domain is down. A selection still waiting for an answer of
the course before is over. -/
def selectAll (s : State) : State :=
  let s := { s with plc.state := s.plc.state % 8, plc.loops := [] }.markTrims
  if s.rdg.mode == 0 then s else (List.range 16).foldl (fun s k => s.selectPages k) s.resumeCopies

/-- Step 11 (R104, R105): warm-up, prefetch prediction and skew detection, counted from course s. -/
def milestones (s : State) (course : Nat) : State :=
  let f := s.crs.first
  if f == noCourse then s
  else
    let v := (if course < f + 4 then 1 else 2) + (if course < f + 8 then 0 else 4)
    { s with plc.state := s.plc.state / 8 * 8 + v }

end State

/-- Region command (R79). -/
def execRegionCommand (dt : Nat) (p : Pdu) (s : State) : Host.Outcome State Fault Refusal :=
  act (.regionCommand dt p) dt s (fun s => s.dictWrite p 0x3F20 1 State.regionCmd)

/-- Fallback record (R102). -/
def execFallbackRecordCommand (dt : Nat) (p : Pdu) (s : State) : Host.Outcome State Fault Refusal :=
  act (.fallbackRecordCommand dt p) dt s (fun s => s.dictWrite p 0x3F20 2 State.fallbackCmd)

/-- Placement hint, as a message or through 0x3F20.03 (R96). -/
def execPlacementHint (dt : Nat) (h : HintSrc) (payload : Bytes) (s : State) : Host.Outcome State Fault Refusal :=
  act (.placementHint dt h payload) dt s (fun s => match h with
    | .msg via src => s.orPass via (.hint src payload) (fun v s => s.hintMsg v payload)
    | .object p => s.dictWrite { p with data := payload, total := payload.length } 0x3F20 3 (State.hintObject p))

/-- A space request (R90). -/
def execSpaceRequest (dt : Nat) (src : Sender) (ctx ga : Nat) (s : State) : Host.Outcome State Fault Refusal :=
  act (.spaceRequest dt src ctx ga) dt s (fun s => s.orPass src.via (.spaceRequest src.node ctx ga) (fun v s => (s.countArrival v 3 6).spaceRequested src.node ctx ga))

/-- A space answer (R90, R91). -/
def execSpaceAnswer (dt : Nat) (src : Sender) (ga : Nat) (accept : Bool) (s : State) : Host.Outcome State Fault Refusal :=
  act (.spaceAnswer dt src ga accept) dt s (fun s => s.orPass src.via (.spaceAnswer src.node ga accept) (fun v s => (s.countArrival v 3 6).spaceAnswered src.node ga accept))

/-- Every line of a page has been copied once (R91, R253). -/
def execPageCopyComplete (dt : Nat) (ga : Nat) (s : State) : Host.Outcome State Fault Refusal :=
  act (.pageCopyComplete dt ga) dt s (fun s => s.copyComplete ga)

/-- A home fences placed copies held here (R95). -/
def execFencePlacedCopies (dt : Nat) (src : Sender) (ga pages : Nat) (s : State) : Host.Outcome State Fault Refusal :=
  act (.fencePlacedCopies dt src ga pages) dt s (fun s => s.orPass src.via (.fencePlaced src.node ga pages) (fun v s => (s.countArrival v 3 6).fencePlaced src.node ga pages))

/-- A holder's fence is done (R95). -/
def execFenceDone (dt : Nat) (src : Sender) (ga pages : Nat) (drops : List (Nat × Nat)) (s : State) :
    Host.Outcome State Fault Refusal :=
  act (.fenceDone dt src ga pages drops) dt s (fun s => s.orPass src.via (.fenceDone src.node ga pages drops) (fun v s => (s.countArrival v 3 (6 + drops.length)).fenceReported src.node ga pages drops))

end Sys2Proof.Machine
end

