-- ==== Sys2Proof/Machine/Rows.lean ====
section
/-! DEFINITION. Embedding tables as a whole (R108 to R115) and the moves of row blocks (R136 to R145): definition and
freeing, spill frames, copies, switches, selection and prediction at a boundary. -/

namespace Sys2Proof.Machine

/-- A shard map entry of a definition (R111). -/
def shardOf (d : Bytes) (k : Nat) : Shard :=
  let e := slice (40 + 16 * k) 16 d
  { first := bits 47 0 e, node := bits 61 48 e, base := bits 111 64 e }

/-- The table a definition payload gives (R108). -/
def tableOfPayload (d : Bytes) : Table :=
  let n := field 24 2 d
  { ctx := field 2 2 d, tag := field 4 4 d, rows := field 8 8 d, rowlog := field 1 1 d, fmt := field 16 1 d,
    dim := field 18 2 d, flags := field 17 1 d, scale := BitVec.ofNat 32 (field 20 4 d),
    shards := (List.range n).map (shardOf d), spillBase := field 32 8 d, frames := field 28 4 d,
    defaultRow := slice (40 + 16 * n) (2 ^ field 1 1 d) d }

/-- Packed length of a row in bytes (R110). -/
def packedLength (t : Table) : Nat := (t.dim * fmtBits t.fmt + 7) / 8 + (if fmtScaled t.fmt then t.dim / 32 else 0)

/-- First rows of range entries: from 0, strictly increasing, each below N (R112, R113). -/
def firstsGood (n : Nat) : List Nat → Bool
  | [] => true
  | [a] => decide (a < n)
  | a :: b :: t => decide (a < b) && firstsGood n (b :: t)

def powerOfTwo (n : Nat) : Bool := n != 0 && 2 ^ Nat.log2 n == n

/-- The first row of R113's table, with R509: a definition no table can have. -/
def tableBad (n : Nat) (t : Table) : Bool :=
  t.rowlog < 5 || 12 < t.rowlog || !(1 ≤ t.fmt && t.fmt ≤ 10) || t.dim == 0 || 2 ^ t.rowlog < packedLength t ||
  (fmtScaled t.fmt && t.dim % 32 != 0) || t.shards.isEmpty || 4096 < t.shards.length ||
  (State.hashMode t && !powerOfTwo t.shards.length) ||
  (!State.hashMode t && ((t.shards.headD ⟨1, 0, 0⟩).first != 0 || !firstsGood t.rows (t.shards.map (·.first)))) ||
  (State.hashMode t && t.shards.any (fun e => e.first != 0)) || t.shards.any (fun e => e.base % 65536 != 0) ||
  t.spillBase % 65536 != 0 || t.shards.any (fun e => e.node == 0x3FFF) || 16 ≤ t.flags ||
  (bitOf t.flags 1 && !(t.fmt == 1 || t.fmt == 2)) || (128 ≤ n && n != 0xFF) || t.rows == 0 || 2 ^ 48 < t.rows || 1023 < t.ctx

/-- Pages a byte range from a page boundary takes. -/
def pagesOf (bytes : Nat) : Nat := (bytes + 65535) / 65536

/-- Bytes of a row block's frame. -/
def frameBytes (t : Table) : Nat := 256 * State.rowSize t

namespace State

/-- 0x3F30.01 (R108, R113). -/
def defineTable (d : Bytes) (s : State) : Result × State :=
  let n := field 0 1 d
  let t := tableOfPayload d
  if tableBad n t then (outcome .translationFault, s)
  else if n != 0xFF && thas n s.ylx.tables then (outcome .rightsFault, s)
  else if t.ctx == 0 || !((List.range t.shards.length).all (fun k =>
      let e := t.shards.getD k ⟨0, 0, 0⟩
      !s.isSelf e.node || s.grantedRange t.ctx e.base (pagesOf (shardRows t k * rowSize t)))) ||
      !(t.frames == 0 || s.grantedRange t.ctx t.spillBase (pagesOf (t.frames * frameBytes t))) then (outcome .rightsFault, s)
  else match (if n == 0xFF then freeNum s.ylx.tables 128 0 else some n) with
    | none => (outcome .quotaExceeded, s)
    | some k => ({ data := le 1 k }, { s with ylx.tables := tput k t s.ylx.tables })

/-- 0x3F30.02 (R114). -/
def freeTable (d : Bytes) (s : State) : Result × State :=
  let n := field 0 1 d
  if 127 < n then (outcome .translationFault, s)
  else match tget n s.ylx.tables with
    | none => (outcome .rightsFault, s)
    | some t =>
        if t.state != 1 then (outcome .rightsFault, s)
        else
          let s := (s.ylx.moves.filter (fun m => m.t == n)).foldl abandonRows s
          ({}, { s with ylx.tables := tput n { t with state := 2 } s.ylx.tables, ylx.loops := [],
                           ylx.spills := s.ylx.spills.filter (fun f => f.1.1 != n) }.sweepTables)

/-! ### Where blocks are (R141, R144) -/

/-- Blocks with a load word, with their table and place, on a stack. -/
def blocksOn (s : State) (k : Nat) : List (Nat × Nat × Nat × Load) :=
  s.ylx.loads.filterMap (fun w =>
    match tget w.1.1 s.ylx.tables with
    | none => none
    | some t => (match s.blockHere t w.1.1 w.1.2 with
        | some off => if stackOf off == k then some (w.1.1, w.1.2, off, w.2) else none
        | none => none))

/-- A stack's load: the snapshots of the blocks it holds (R141). -/
def stackLoad (s : State) (k : Nat) : Nat := (s.blocksOn k).foldl (fun n x => n + x.2.2.2.snap) 0

/-- Offset of a table's spill frame. -/
def frameOff (t : Table) (f : Nat) : Nat := t.spillBase + f * frameBytes t

/-- Free spill frames of a table on a stack, lowest first. -/
def freeFrames (s : State) (n : Nat) (t : Table) (k : Nat) : Option Nat :=
  (List.range t.frames).find? (fun f => stackOf (frameOff t f) == k && !thas (n, f) s.ylx.spills)

/-- The stack of lowest load with a free spill frame of a table (R142). -/
def spillStack (s : State) (n : Nat) (t : Table) : Option (Nat × Nat) :=
  (List.range 16).foldl (fun (b : Option (Nat × Nat)) k =>
    match s.freeFrames n t k with
    | none => b
    | some f => (match b with
        | none => some (k, f)
        | some x => if s.stackLoad k < s.stackLoad x.1 then some (k, f) else b)) none

/-! ### Copies (R143) -/

/-- A frame answer is due: its blocks carry the format tag of the table (R201, log entry 121). -/
def tagFrame (s : State) (t : Table) (off : Nat) : State :=
  (List.range ((frameBytes t + 4095) / 4096)).foldl (fun s i => s.setMeta (off / 4096 + i) (fun m => { m with tag := t.fmt })) s

/-- A frame request arrives (R142). -/
def frameRequested (s : State) (src n b ga : Nat) : State :=
  let refuse := s.coordinate src 4 1 n b ga
  match tget n s.ylx.tables with
  | none => refuse
  | some t =>
      if t.state != 1 || s.beyondGateway src then refuse
      else if s.ylx.spills.any (fun f => f.1.1 == n && f.2 = (n, b)) then s.coordinate src 4 0 n b ga
      else match s.spillStack n t with
        | none => refuse
        | some (_, f) =>
            ({ s with ylx.spills := tput (n, f) (n, b) s.ylx.spills,
                      ylx.overs := tput (n, b) { node := s.nodeNum, off := frameOff t f, learned := false, live := false } s.ylx.overs }.tagFrame
              t (frameOff t f)).coordinate src 4 0 n b ga

/-- The copy of a block is complete: the marked rows are copied again and their marks cleared (R143), and the source
recalls what agents hold (R253). -/
def rowCopyDone (s : State) (n b : Nat) : State :=
  match s.rowMoveOf n b, tget n s.ylx.tables with
  | some m, some t =>
      if m.phase != 1 || m.left != 0 then s
      else match s.blockHere t n b with
        | none => s
        | some off =>
            let s := (s.modRows n b (fun x => { x with phase := 2 })).replayRows m t
            let h := offHalf off
            (((s.half h).dir.filter (fun e => off ≤ e.1 * 128 && e.1 * 128 < off + blockBytes t b)).map (·.1)).foldl
              (fun s l => s.recallLine h l .move false) s
  | _, _ => s

/-! ### The boundary -/

/-- Step 3 for load words (R141). -/
def snapLoads (s : State) : State :=
  { s with ylx.loads := s.ylx.loads.map (fun (w : (Nat × Nat) × Load) =>
      (w.1, { w.2 with snap := w.2.count, heat := min (w.2.heat - w.2.heat / 8 + w.2.count) (2 ^ 24 - 1), count := 0 })) }

/-- Step 7 (R40, R93, R143): forwarding of the course before is retired. -/
def retireForwards (s : State) : State := { s with plc.forwards := [], ylx.forwards := [] }

/-- Whether a line of a block is Recall-pending at the ridge, or a recall of one waits for room (R41, R253). -/
def blockRecalling (s : State) (off n : Nat) : Bool :=
  let x := s.half (offHalf off)
  let inBlock := fun (l : Nat) => off ≤ l * 128 + 127 && l * 128 < off + n
  x.dir.any (fun e => inBlock e.1) || x.recalls.any (fun r => inBlock r.1)

/-- Step 8: the commits of blocks copied and replayed once (R41, R143); no copy traffic runs while the domain is down
(R258). -/
def commitRows (s : State) : State :=
  if s.rdg.mode == 0 then s
  else (s.ylx.moves.filter (fun m => m.phase == 2 && m.left == 0)).foldl (fun s m =>
    match (tget m.t s.ylx.tables).bind (fun t => (s.blockHere t m.t m.b).map (fun off => (t, off))) with
    | none => s.abandonRows m
    | some (t, off) =>
        if s.blockRecalling off (blockBytes t m.b) then s.count s.holder 0x4020 9
        else if m.marks.length ≤ 32 then ((s.modRows m.t m.b (fun x => { x with phase := 3 })).replayRows m t).rowsDone m.t m.b
        else if m.deferrals ≥ 4 then s.abandonRows m
        else ((s.modRows m.t m.b (fun x => { x with deferrals := m.deferrals + 1 })).replayRows m t).count (offHalf off) 0x4050 0xA) s

/-- Boundaries since staging go up, and the set stamps of the ended course are gone (R129, R138). -/
def ageStaged (s : State) : State :=
  { s.modBoth (fun x => { x with staged := x.staged.map (fun (r : Staged) => { r with boundaries := r.boundaries + 1 }) }) with ylx.stamps := [] }

/-- Whether a block may move (R142). -/
def movable (s : State) (n b : Nat) (t : Table) : Bool :=
  let ga := s.homeGa (blockGa t b)
  t.state == 1 && bitOf t.flags 3 && wholeBlock t b &&
  !s.plc.regions.any (fun r => (r.2.cls == 2 || r.2.cls == 3) &&
    rangesMeet (s.homeGa r.2.base) r.2.pages (ga / 65536 * 65536) (pagesOf (ga % 65536 + blockBytes t b))) &&
  !s.ylx.moves.any (fun m => m.t == n && m.b == b) && !s.openAccs.any (fun a => match a.org with
    | .rowCopy m c _ => m == n && c == b
    | _ => false) && (s.ylx.overs.filter (fun o => !o.2.learned)).length < 131072

/-- Where a hot block goes (R142): a local frame, or a shard node of the same roof. -/
def chooseDest (s : State) (h : Half) (n : Nat) (t : Table) (mean : Nat) : Option (Nat × Option Nat) :=
  match (match s.spillStack n t with
    | some (k, f) => if s.stackLoad k ≤ mean then some f else none
    | none => none) with
  | some f => some (s.nodeNum, some f)
  | none =>
      if s.fab.loadLevel < s.cfg h 0x2080 7 then none
      else
        let top := s.cfg h 0x2080 8
        let best := t.shards.foldl (fun (b : Option Nat) e =>
          if s.isSelf e.node || !s.isRoofPeer e.node || top < (s.node e.node).ld then b
          else match b with
            | none => some e.node
            | some x => if (s.node e.node).ld < (s.node x).ld || ((s.node e.node).ld == (s.node x).ld && e.node < x)
                then some e.node else b) none
        best.map (fun x => (x, none))

/-- Start a move (R142): at once within this device, which is `true`, or by a frame request. -/
def moveOut (s : State) (n b : Nat) (t : Table) (d : Nat × Option Nat) : Bool × State :=
  let m : RMove := { t := n, b := b, dest := d.1, frame := 0 }
  match d.2 with
  | some f =>
      let m := { m with frame := frameOff t f, accepted := true }
      (true, ({ s with ylx.moves := s.ylx.moves ++ [m], ylx.spills := tput (n, f) (n, b) s.ylx.spills }.tagFrame t m.frame).startRows n b)
  | none => (false, { s with ylx.moves := s.ylx.moves ++ [m] }.coordinate d.1 3 0 n b (blockGa t b))

/-- Start a return to the origin (R142). -/
def moveBack (s : State) (n b : Nat) (t : Table) : State :=
  let m : RMove := { t := n, b := b, dest := gaNode (blockGa t b), frame := gaOff (blockGa t b), back := true, accepted := true }
  { s with ylx.moves := s.ylx.moves ++ [m] }.startRows n b

/-- The selection of hot blocks from some block on (R142): budget and projected load change on an ACCEPT alone, so the loop
waits for each answer of another device. -/
def pickRows (k : Nat) : RLoop → List (Nat × Nat) → State → State
  | _, [], s => { s with ylx.loops := tdel k s.ylx.loops }
  | l, (n, b) :: rest, s =>
      let h := stackHalf k
      let w := tgetD (n, b) {} s.ylx.loads
      if l.budget == 0 || l.proj ≤ l.limit then { s with ylx.loops := tdel k s.ylx.loops }
      else if w.heat < s.cfg h 0x2080 2 then pickRows k l rest s
      else match tget n s.ylx.tables with
      | none => pickRows k l rest s
      | some t =>
          if !s.movable n b t then pickRows k l rest s
          else match s.chooseDest h n t l.mean with
          | none => pickRows k l rest s
          | some d =>
              match s.moveOut n b t d with
              | (true, s) => pickRows k { l with budget := l.budget - 1, proj := l.proj - w.snap } rest s
              | (false, s) => { s with ylx.loops := tput k { l with left := rest } s.ylx.loops }

/-- The selection that waited for an answer about a block goes on (R142). -/
def pickRowsOn (s : State) (n b : Nat) (accepted : Bool) : State :=
  match (tget n s.ylx.tables).bind (fun t => s.blockHere t n b) with
  | none => s
  | some off =>
      match tget (stackOf off) s.ylx.loops with
      | none => s
      | some l =>
          let l := if accepted then { l with budget := l.budget - 1, proj := l.proj - (tgetD (n, b) {} s.ylx.loads).snap } else l
          pickRows (stackOf off) l l.left s

/-- A frame answer that answers no request: the former location says that a block has switched (R144, log entry 58). -/
def blockNotice (s : State) (src n b : Nat) : State :=
  match tget (n, b) s.ylx.overs with
  | none => s
  | some o =>
      if o.learned then s
      else if s.isSelf o.node then s.blockLive n b
      else if o.node == src then { s with ylx.overs := tdel (n, b) s.ylx.overs, ylx.loads := tput (n, b) {} s.ylx.loads }
      else s

/-- A frame answer arrives (R142, R143): the copy starts, or the block is left where it is; a destination that takes its frame
back abandons the move. -/
def frameAnswered (s : State) (src n b : Nat) (accept : Bool) : State :=
  match s.rowMoveOf n b with
  | none => if accept then s.blockNotice src n b else s
  | some m =>
      let gone := { s with ylx.moves := s.ylx.moves.filter (fun x => !(x.t == n && x.b == b)) }
      if m.dest != src || m.back then (if accept then s.blockNotice src n b else s)
      else if m.accepted then (if accept then s else gone.count s.holder 0x4050 0xB)
      else if accept then ((s.modRows n b (fun x => { x with accepted := true })).startRows n b).pickRowsOn n b true
      else gone.pickRowsOn n b false

/-- One controller's selection (R142). -/
def selectRows (s : State) (k : Nat) : State :=
  let h := stackHalf k
  let budget := min 64 (s.cfg h 0x2080 4)
  let mean := ((List.range 16).foldl (fun n i => n + s.stackLoad i) 0) / 16
  let limit := mean * s.cfg h 0x2080 3 / 8
  let lt := fun (a b : Nat × Nat × Nat × Load) => a.2.1 < b.2.1 || (a.2.1 == b.2.1 && a.1 < b.1)
  let all := s.blocksOn k
  let spilled := fun (x : Nat × Nat × Nat × Load) => (match tget (x.1, x.2.1) s.ylx.overs with
    | some o => !o.learned && o.live
    | none => false)
  let copies := s.ylx.spills.filterMap (fun f => match tget f.1.1 s.ylx.tables, tget f.2 s.ylx.overs with
    | some _, some o => if o.live && s.isSelf o.node && stackOf o.off == k
        then some (f.2.1, f.2.2, o.off, tgetD f.2 {} s.ylx.loads) else none
    | _, _ => none)
  let cold := sortBy (fun a b => a.2.2.2.heat < b.2.2.2.heat || (a.2.2.2.heat == b.2.2.2.heat && lt a b)) copies
  let (s, budget) := cold.foldl (fun (acc : State × Nat) x =>
    let (s, left) := acc
    if left == 0 || s.cfg h 0x2080 5 ≤ x.2.2.2.heat || s.ylx.moves.any (fun m => m.t == x.1 && m.b == x.2.1) then (s, left)
    else match tget x.1 s.ylx.tables with
      | some t => (s.moveBack x.1 x.2.1 t, left - 1)
      | none => (s, left)) (s, budget)
  let hot := sortBy (fun a b => a.2.2.2.heat > b.2.2.2.heat || (a.2.2.2.heat == b.2.2.2.heat && lt a b)) (all.filter (fun x => !spilled x))
  pickRows k ⟨budget, s.stackLoad k, limit, mean, []⟩ (hot.map (fun x => (x.1, x.2.1))) s

/-- The selections of all controllers from the skew milestone on (R104, R142), none while the domain is down. -/
def selectAllRows (s : State) : State :=
  let s := { s with ylx.loops := [] }
  if s.rdg.mode == 0 then s
  else (List.range 16).foldl (fun s k =>
    if bitOf s.plc.state 2 && s.cfgBit (stackHalf k) 0x2080 1 2 then s.selectRows k else s) s.resumeRows

/-- Whether a line of a range is an agent's to write, or being recalled: memory may not hold it (R137, log entry 122). -/
def agentMayHold (s : State) (off n : Nat) : Bool :=
  (linesOf off n).any (fun l => match s.entryOf (offHalf off) l with
    | some e => isOwned e || isRp e
    | none => false)

/-- Stage the rows of a hot block as predicted rows, each where it is on this device: no job, no ticket (R139). -/
def predictBlock (s : State) (h : Half) (n b : Nat) (t : Table) : State :=
  ((List.range (blockRows t b).length).zip (blockRows t b)).foldl (fun s x =>
    let place := match tget (n, b) s.ylx.overs with
      | some o => if s.isSelf o.node && !o.learned && o.live then some (o.off + x.1 * rowSize t) else none
      | none => if s.isSelf (gaNode (rowGa t x.2)) then some (gaOff (rowGa t x.2)) else none
    match place with
    | none => s
    | some at' =>
        if offHalf at' != h || (s.half h).staged.any (fun r => r.t == n && r.row == x.2) ||
          (s.readBlocked at' (rowSize t)).isSome || s.agentMayHold at' (rowSize t) then s
        else (s.stageRow n x.2 at' (rowSize t) t.ctx 0xFFFF 0 (2 * stackOf at')).2) s

/-- Prediction of one half (R139). -/
def predict (s : State) (h : Half) : State :=
  if !(bitOf s.plc.state 1 && s.cfgBit h 0x2080 1 1) then s
  else
    let share := min 16 (s.cfg h 0x2080 6) * 2097152
    let blocks := ((List.range 16).filter (fun k => stackHalf k = h)).map s.blocksOn |>.flatten
    let order := sortBy (fun (a b : Nat × Nat × Nat × Load) => a.2.2.2.heat > b.2.2.2.heat ||
      (a.2.2.2.heat == b.2.2.2.heat && (a.2.1 < b.2.1 || (a.2.1 == b.2.1 && a.1 < b.1)))) blocks
    order.foldl (fun (s : State) x =>
      let filled := ((s.half h).staged.filter (fun r => r.job == 0xFFFF)).foldl (fun n r => n + r.size) 0
      match tget x.1 s.ylx.tables with
      | some t => if filled + blockBytes t x.2.1 ≤ share then s.predictBlock h x.1 x.2.1 t else s
      | none => s) s

end State

/-- Table definition (R108, R113). -/
def execTableDefinition (dt : Nat) (p : Pdu) (s : State) : Host.Outcome State Fault Refusal :=
  act (.tableDefinition dt p) dt s (fun s => s.dictWrite p 0x3F30 1 State.defineTable)

/-- Table free (R114). -/
def execTableFree (dt : Nat) (p : Pdu) (s : State) : Host.Outcome State Fault Refusal :=
  act (.tableFree dt p) dt s (fun s => s.dictWrite p 0x3F30 2 State.freeTable)

/-- A frame request (R142). -/
def execFrameRequest (dt : Nat) (src : Sender) (t n ga : Nat) (s : State) : Host.Outcome State Fault Refusal :=
  act (.frameRequest dt src t n ga) dt s (fun s => s.orPass src.via (.frameRequest src.node t n ga) (fun v s => (s.countArrival v 3 6).frameRequested src.node t n ga))

/-- A frame answer (R142, R143). -/
def execFrameAnswer (dt : Nat) (src : Sender) (t n ga : Nat) (accept : Bool) (s : State) : Host.Outcome State Fault Refusal :=
  act (.frameAnswer dt src t n ga accept) dt s (fun s => s.orPass src.via (.frameAnswer src.node t n ga accept) (fun v s => (s.countArrival v 3 6).frameAnswered src.node t n accept))

/-- A row block's copy is complete (R143). -/
def execRowBlockCopyComplete (dt : Nat) (t b : Nat) (s : State) : Host.Outcome State Fault Refusal :=
  act (.rowBlockCopyComplete dt t b) dt s (fun s => s.rowCopyDone t b)

end Sys2Proof.Machine
end

