-- ==== Sys2Proof/Machine/Integrity.lean ====
section
/-! DEFINITION. Integrity messages, job commands and the home's own check of a block (R205 to R216, R227 to R235). -/

namespace Sys2Proof.Machine
namespace State

/-! ### Messages (R213 to R215) -/

/-- A message whose source may not send it (R215). -/
def foreignIntegrity (s : State) (via : Via) : State := s.count (viaHalf via) 0x4080 0x12

/-- Whether a confirm or retract comes from the device that issued its check ID (R215). -/
def fromIssuer (s : State) (m : IntegrityMsg) : Bool :=
  !s.entersHere m.via && m.src == m.node && m.sid == 0xF0

/-- Whether the host of an eave port or the companion is named in a context's entry mask (R46, R49). -/
def inMask (s : State) (via : Via) (c : Nat) : Bool :=
  match via with
  | .port p => s.roleOf p == 2 && bitOf (s.ctx c).mask p
  | .geled _ _ => bitOf (s.ctx c).mask 32
  | .batch _ | .onward _ _ => false

/-- The sources of a job end (R214). -/
def mayEndJob (s : State) (m : IntegrityMsg) : Bool :=
  match m.via with
  | .geled _ hv => hv
  | .port p => if s.roleOf p == 2 then s.inMask m.via m.ctx else s.isRoofPeer m.src
  | .batch _ | .onward _ _ => s.isRoofPeer m.src

/-- The sources of a course commit (R215). -/
def mayCommit (s : State) (m : IntegrityMsg) : Bool :=
  match m.via with
  | .geled _ hv => hv || s.inMask m.via m.ctx
  | .port _ => s.inMask m.via m.ctx
  | .batch _ | .onward _ _ => false

/-- A confirm message (R227). -/
def confirmMsg (s : State) (m : IntegrityMsg) : State :=
  let s := s.countArrival m.via 3 7
  if m.reserved then s.countMalformed m.via
  else if s.fromIssuer m then s.push (.confirm ⟨m.node, m.serial⟩) else s.foreignIntegrity m.via

/-- A retract message (R228). -/
def retractMsg (s : State) (m : IntegrityMsg) : State :=
  let s := s.countArrival m.via 3 7
  if m.reserved then s.countMalformed m.via
  else if s.fromIssuer m then s.push (.retract ⟨m.node, m.serial⟩) else s.foreignIntegrity m.via

/-- A job-end message (R214): the job ends here, and nothing is relayed. -/
def jobEndMsg (s : State) (m : IntegrityMsg) : State :=
  let s := s.countArrival m.via 3 7
  if m.reserved || m.reason == 0 || 5 < m.reason then s.countMalformed m.via
  else if s.mayEndJob m then s.push (.endJob m.ctx m.job m.reason none)
  else s.foreignIntegrity m.via

/-- Commit a course (R229): recorded at once, refused, or left waiting for the job's open group. -/
def commitCourse (s : State) (c j course : Nat) (reply : Option Pdu) : Option Status × State :=
  if s.jobEnded c j then (some .jobEnded, s)
  else if s.tainted c j then
    (none, { s with itg.commits := s.itg.commits ++ [⟨c, j, course, reply⟩] })
  else (some .ok, s.recordCourse c j course)

/-- A course commit message: it is not answered (R229). -/
def commitMsg (s : State) (m : IntegrityMsg) : State :=
  let s := s.countArrival m.via 3 7
  if m.reserved then s.countMalformed m.via
  else if s.mayCommit m then (s.commitCourse m.ctx m.job m.course none).2 else s.foreignIntegrity m.via

/-- The confirm messages of a closed group go out once every off-device write under its ID has completed (R227). -/
def sendConfirms (s : State) (serial : Nat) : State :=
  match tget (4096 + serial) s.itg.groups with
  | none => s
  | some g =>
      let id := s.idOf g
      if g.phase != 1 || s.writesUnder id then s
      else { s with itg.groups := tdel (4096 + serial) s.itg.groups }.tellReceivers 1 g.ctx g.job id g.receivers

/-! ### Waits (R230) -/

/-- A write-back or a snoop answer whose job's group had to wait: its block joins the group, and the snoop it answers goes
on (R226, R230). One that no snoop awaits is performed as a request. -/
def joinWaiting (s : State) (w : GroupWait) : State :=
  match s.locateHere w.acc.ga with
  | .near off =>
      let h := offHalf off
      let awaited := match tget (off / 128) (s.half h).pend with
        | some p => p.await.contains groupWait
        | none => false
      if !awaited then s.goHome w.acc
      else (match s.addDep w.acc.q.ctx w.acc.q.job w.acc.q.ck with
        | some s => (s.joinGroup w.acc.q.ctx w.acc.q.job (off / 4096)).snoopAnswer h (off / 128) groupWait false none
        | none => s.waitGroup w)
  | _ => s

/-- What a waiting request or answer does when it is tried again. -/
def tryAgain (s : State) (w : GroupWait) : State :=
  match w.reply with
  | some r =>
      (match s.addDeps w.acc.q.ctx w.acc.q.job (replyIds r) with
      | some s => s.deliver w.acc r
      | none => s.waitGroup w)
  | none => if w.atHome then (if w.acc.op == .wbd then s.joinWaiting w else s.goHome w.acc) else s.translated w.acc

/-- A wait ends when what it waited for has come; until then nothing happens. -/
def resumeWait (s : State) (i : Nat) : State :=
  match s.itg.waits[i]? with
  | none => s
  | some w =>
      let t := { s with itg.waits := s.itg.waits.eraseIdx i }.tryAgain w
      if t.itg.waits.length == s.itg.waits.length then s else t

/-! ### Job commands (R234, R235, R509) -/

/-- 0x3FC0.01: the job may run again. -/
def reopenJob (d : Bytes) (s : State) : Result × State :=
  let c := field 0 2 d
  let j := field 2 2 d
  if 1023 < c then (outcome .translationFault, s)
  else match tget (c, j) s.itg.jobs with
    | some r => ({}, { s with itg.jobs := tput (c, j) { r with ended := false, reason := 0 } s.itg.jobs })
    | none => ({}, s)

/-- 0x3FC0.02: answered when the job's open group allows (R229). -/
def commitCmd (p : Pdu) (d : Bytes) (s : State) : Result × State :=
  let c := field 0 2 d
  if 1023 < c then (outcome .translationFault, s)
  else match s.commitCourse c (field 2 2 d) (field 4 8 d % 2 ^ 48) (some p) with
    | (some st, s) => (outcome st, s)
    | (none, s) => ({ later := true }, s)

/-- Held writes that carry a check ID. -/
def heldUnder (s : State) (id : CheckId) : Nat :=
  ((s.west.held ++ s.east.held).filter (fun w => w.acc.op != .pub && w.acc.q.u && w.acc.q.ck = id)).length

/-- The 32 bytes of a job record (R235); zeros when none is held. -/
def jobRecord (s : State) (c j : Nat) : Bytes :=
  match tget (c, j) s.itg.jobs with
  | none => zeros 32
  | some r =>
      let g := (s.openGroupOf c j).map (·.2)
      le 2 c ++ le 2 j ++ le 1 (ofBool r.ended + 2 * ofBool g.isSome) ++ le 1 r.reason ++
      le 2 ((g.map (·.deps.length)).getD 0) ++ le 8 r.course ++ le 4 ((g.map (·.serial)).getD 0) ++
      le 4 ((g.map (·.blocks.length)).getD 0) ++ le 4 ((g.map (fun g => s.heldUnder (s.idOf g))).getD 0) ++
      le 4 ((g.map (·.pending)).getD 0)

/-- 0x3FC0.03. -/
def queryJob (d : Bytes) (s : State) : Result × State :=
  if 1023 < field 0 2 d then (outcome .translationFault, s)
  else ({ data := s.jobRecord (field 0 2 d) (field 2 2 d) }, s)

/-! ### Errors of stack lines (R207, R361) -/

/-- An error met in a stack line: corrected, poisoned, or not seen by the line's ECC. -/
def stackError (s : State) (x : StackError) : State :=
  match x with
  | .corrected l => (s.count (offHalf (l * 128)) 0x40F0 0x12).gutter (offHalf (l * 128)) 0x01 0x10 0 0x01 (ga := l * 128)
  | .uncorrectable l =>
      if s.poisoned l then s
      else (s.poisonLine l).gutter (offHalf (l * 128)) 0x02 0x10 0 0x03 (severity := 3) (ga := l * 128) (cnt := 1)
  | .altered off mask => s.storeBytes off [memGet off s.near.mem ^^^ mask]

/-- The home reads the stored block of a GA and recomputes its crc (R206). -/
def checkHome (s : State) (ga : Nat) (errs : List StackError) : State :=
  match s.locateHere ga with
  | .near off => ((errs.foldl stackError s).homeCheck (off / 4096)).2
  | _ => s

end State

/-- The home's check of a stored block (R206). -/
def execHomeBlockCheck (dt : Nat) (ga : Nat) (errs : List StackError) (s : State) : Host.Outcome State Fault Refusal :=
  act (.homeBlockCheck dt ga errs) dt s (fun s => s.checkHome ga errs)

/-- Confirm message (R213, R215, R227). -/
def execConfirm (dt : Nat) (m : IntegrityMsg) (s : State) : Host.Outcome State Fault Refusal :=
  act (.confirm dt m) dt s (fun s => s.orPass m.via (.integrity 1 m) (fun v s => s.confirmMsg { m with via := v }))

/-- The confirms of a closed group are sent (R227 step 5). -/
def execConfirmSend (dt : Nat) (serial : Nat) (s : State) : Host.Outcome State Fault Refusal :=
  act (.confirmSend dt serial) dt s (fun s => s.sendConfirms serial)

/-- Retract message (R213, R215, R228). -/
def execRetract (dt : Nat) (m : IntegrityMsg) (s : State) : Host.Outcome State Fault Refusal :=
  act (.retract dt m) dt s (fun s => s.orPass m.via (.integrity 2 m) (fun v s => s.retractMsg { m with via := v }))

/-- Job-end message (R213 to R215). -/
def execJobEnd (dt : Nat) (m : IntegrityMsg) (s : State) : Host.Outcome State Fault Refusal :=
  act (.jobEnd dt m) dt s (fun s => s.orPass m.via (.integrity 3 m) (fun v s => s.jobEndMsg { m with via := v }))

/-- Course-commit message (R215, R229). -/
def execCourseCommit (dt : Nat) (m : IntegrityMsg) (s : State) : Host.Outcome State Fault Refusal :=
  act (.courseCommit dt m) dt s (fun s => s.orPass m.via (.integrity 4 m) (fun v s => s.commitMsg { m with via := v }))

/-- A wait of R230 ends. -/
def execHoldWaitResume (dt : Nat) (i : Nat) (s : State) : Host.Outcome State Fault Refusal :=
  act (.holdWaitResume dt i) dt s (fun s => s.resumeWait i)

/-- Reopen (R234). -/
def execReopen (dt : Nat) (p : Pdu) (s : State) : Host.Outcome State Fault Refusal :=
  act (.reopen dt p) dt s (fun s => s.dictWrite p 0x3FC0 1 State.reopenJob)

/-- Course commit by command (R229, R234). -/
def execCourseCommitCommand (dt : Nat) (p : Pdu) (s : State) : Host.Outcome State Fault Refusal :=
  act (.courseCommitCommand dt p) dt s (fun s => s.dictWrite p 0x3FC0 2 (State.commitCmd p))

/-- Job record query (R234, R235). -/
def execJobRecordQuery (dt : Nat) (p : Pdu) (s : State) : Host.Outcome State Fault Refusal :=
  act (.jobRecordQuery dt p) dt s (fun s => s.dictWrite p 0x3FC0 3 State.queryJob)

end Sys2Proof.Machine
end

