-- ==== Sys2Proof/Machine/Coherence.lean ====
section
/-! DEFINITION. The ridge's commands and events (R239, R240, R246, R250 to R265): caching agents, their death, the
domain's modes, publication regions, coherent requests, snoop responses and presence queries. -/

namespace Sys2Proof.Machine
namespace State

/-! ### Agents (R239, R240) -/

/-- Agent numbers in use. -/
def agentFree (s : State) (a : Nat) : Bool := (s.agentRec a).state == 0

/-- Whether two entry nodes are the same. -/
def sameNode (s : State) (m n : Nat) : Bool := m == n || (s.isSelf m && s.isSelf n)

/-- 0x3FF0.01 (R240). -/
def registerAgent (d : Bytes) (s : State) : Result × State :=
  let a := field 0 1 d
  let n := field 1 2 d % 2 ^ 14
  let tag := field 3 2 d
  let known := s.rdg.agents.any (fun x => x.1 != 0 && x.2.state != 0 && x.2.tag == tag && s.sameNode x.2.node n)
  if a == 0 || (64 ≤ a && a != 0xFF) || known || (a < 64 && !s.agentFree a) then (outcome .rightsFault, s)
  else match (if a == 0xFF then (List.range 64).find? (fun b => b != 0 && s.agentFree b) else some a) with
    | none => (outcome .quotaExceeded, s)
    | some b => ({ data := le 1 b }, { s with rdg.agents := tput b { state := 1, node := n, tag := tag } s.rdg.agents })

/-- Whether an entry names an agent (R243). -/
def names (s : State) (e : Entry) (a : Nat) : Bool := (s.sharers e).contains a

/-- The walk of a deregistration over one half (R240, R257). -/
def deregWalk (s : State) (a : Nat) (h : Half) : State :=
  (((s.half h).dir.filter (fun e => isRp e.2 || s.names e.2 a)).map (·.1)).foldl (fun s l => s.recallLine h l (.deregister a) false) s

/-- 0x3FF0.02 (R240). -/
def deregisterAgent (d : Bytes) (s : State) : Result × State :=
  let a := field 0 1 d
  if a == 0 || (s.agentRec a).state != 1 then (outcome .rightsFault, s)
  else
    let s := { s with rdg.agents := tmod a {} (fun g => { g with state := 2 }) s.rdg.agents }
    ({}, (s.deregWalk a .west).deregWalk a .east)

/-- Ridge initialisation registers agent 0 (R239, R268). -/
def registerZero (s : State) : State := { s with rdg.agents := tput 0 { state := 1, node := s.nodeNum } s.rdg.agents }

/-- The companion is agent 0 again once an end is Up and its record is free (R307). -/
def agentZero (s : State) : State :=
  if 8 ≤ s.phase && s.phase ≤ 0xA && s.rdg.mode != 0 && (s.endUp .west || s.endUp .east) && (s.agentRec 0).state == 0 then
    s.registerZero
  else s

/-- The record of an agent becomes free. -/
def freeAgent (s : State) (a : Nat) : State := { s with rdg.agents := tdel a s.rdg.agents }.agentZero

/-- The deregistration walk ends once nothing it snooped is outstanding (R240, R250). -/
def deregEnd (s : State) (a : Nat) : State :=
  let busy := fun (h : Half) => (s.half h).pend.any (fun p => p.2.await.contains a || p.2.why = .deregister a) ||
    (s.half h).recalls.any (fun r => r.2 = .deregister a)
  if (s.agentRec a).state != 2 || busy .west || busy .east then s else s.freeAgent a

/-! ### Death and the domain's modes (R255 to R259) -/

/-- Lines a rebuild will poison (R259 step 2). -/
def lostLines (s : State) (h : Half) : List Nat :=
  let owned := ((s.half h).dir.filter (fun e => isOwned e.2)).map (·.1)
  let pending := ((s.half h).pend.filter (fun p => isOwned p.2.old || (match p.2.why with
    | .coherent _ _ => true
    | _ => false))).map (·.1)
  pending.foldl (fun l x => addOnce x l) owned

/-- Complete every pending operation and Aged entry of a half DOMAIN_DOWN (R258 step 2). -/
def downHalf (s : State) (h : Half) : State :=
  let pend := (s.half h).pend
  let s := s.modHalf h (fun x => { x with pend := [], recalls := [], aged := [] })
  let s := pend.foldl (fun s p => match p.2.why with
    | .coherent a _ => s.answer h a { status := .domainDown }
    | .version a _ _ => s.answer h a { status := .domainDown }
    | _ => s) s
  let mine := s.rdg.blocked.filter (fun b => offHalf b.2.off = h)
  let s := { s with rdg.blocked := s.rdg.blocked.filter (fun b => offHalf b.2.off ≠ h) }
  mine.foldl (fun s b => s.answer h b.2.acc { status := .domainDown }) s

/-- The domain goes down (R258). -/
def goDown (s : State) : State :=
  let lost := s.lostLines .west ++ s.lostLines .east
  let s := { s with rdg.mode := 0, rdg.cause := 2, rdg.downLines := lost }
  let s := (s.rdg.agents.filter (fun a => a.2.state == 1 || a.2.state == 2)).foldl (fun s a => s.snoopTo ((a.2.port.map portHalf).getD .west) a.1 0xB 0) s
  (s.downHalf .west).downHalf .east

/-- Everything awaiting an agent completes as if it had answered miss (R250, R257). -/
def missAll (s : State) (a : Nat) (h : Half) : State :=
  (((s.half h).pend.filter (fun p => p.2.await.contains a)).map (·.1)).foldl (fun s l => s.snoopAnswer h l a false none) s

/-- An agent is dead (R255 to R258). -/
def agentDies (s : State) (a : Nat) : State :=
  let g := s.agentRec a
  if g.state == 0 || 3 ≤ g.state then s
  else
    let s := (s.count .west 0x4090 9).gutter .west 0x14 0x0A a 0x04 (severity := 3)
    let st := if s.rdg.mode == 2 then 3 else 4
    let s := { s with rdg.agents := tput a { g with state := st } s.rdg.agents }
    if s.rdg.mode == 2 then (s.missAll a .west).missAll a .east
    else if s.rdg.mode == 1 then s.goDown else s

/-- Every agent that a failed part carried dies (R255). -/
def agentsDie (s : State) (hit : Nat → Agent → Bool) : State :=
  ((s.rdg.agents.filter (fun a => hit a.1 a.2)).map (·.1)).foldl agentDies s

/-- The reclaim walk ends (R257): lines the agent owned are poisoned, its record is free. -/
def reclaimEnd (s : State) (a : Nat) : State :=
  if (s.agentRec a).state != 3 then s
  else
    let walk := fun (h : Half) (s : State) =>
      (((s.half h).dir.filter (fun e => (e.2.st == 1 || isOwned e.2) && e.2.shr % 64 == a)).map (·.1)).foldl (fun s l => s.reclaimLine h l) s
    -- a line that came to await the agent meanwhile completes as a miss
    let s := (s.missAll a .west).missAll a .east
    (walk .east (walk .west s)).freeAgent a

/-- A snoop has had no answer for the timeout (R250): it is sent once more, then its agents are dead. -/
def snoopLate (s : State) (h : Half) (line : Nat) : State :=
  match tget line (s.half h).pend with
  | none => s
  | some p =>
      let late := p.await.filter (· ≠ groupWait)
      if late.isEmpty || s.now - p.stamp < max 1600 (s.cfg h 0x20B0 1) then s
      else
      let s := late.foldl (fun (s : State) a => { s with rdg.agents := tmod a {} (fun g => { g with timeouts := min (g.timeouts + 1) 65535 }) s.rdg.agents }) s
      if p.resent then
        -- the agents die, and what still awaits one of them completes as a miss in every mode
        late.foldl (fun s a => (((s.agentDies a).missAll a .west).missAll a .east)) s
      else
        let s := s.modHalf h (fun x => { x with pend := tput line { p with resent := true, stamp := s.now } x.pend })
        late.foldl (fun s a => s.snoopTo h a p.snp line) s

/-- The oldest queued Aged request of a line has not come back in time (R252). -/
def agedLate (s : State) (h : Half) (line : Nat) : State :=
  let mine := (s.half h).aged.filter (fun g => g.line == line)
  let rp := match s.entryOf h line with
    | some e => isRp e
    | none => false
  if rp || mine.any (·.head) then s
  else match mine with
    | [] => s
    | g :: _ =>
        if s.now - g.since < 16 * max 1600 (s.cfg h 0x20B0 1) then s
        else s.modHalf h (fun x => { x with aged := ageNext s.now line (x.aged.erase g) })

/-- 0x3FF0.03 (R256). -/
def setMode (d : Bytes) (s : State) : Result × State :=
  let m := field 0 1 d
  if s.rdg.mode == 0 || !(m == 1 || m == 2) then (outcome .rightsFault, s) else ({}, { s with rdg.mode := m })

/-- 0x3FF0.04 (R259): answered when the rebuild is complete. -/
def rebuildCmd (p : Pdu) (_ : Bytes) (s : State) : Result × State :=
  if s.rdg.mode != 0 then (outcome .rightsFault, s)
  else if s.rdg.rebuild.isSome then (busy, s)
  else ({ later := true }, { s with rdg.rebuild := some p })

/-- Accesses that wait for snoops go on: the directory they waited for has been cleared. -/
def resumeBlocked (s : State) : State :=
  s.rdg.blocked.foldl (fun s b => s.coherePlain (offHalf b.2.off) b.2.acc b.2.off b.2.read) { s with rdg.blocked := [] }

/-- The rebuild's steps (R259). What was admitted before the domain went down has completed: R258 completed it then; an exempt
access that has come since and waits for a snoop goes on once the directory is clear. -/
def rebuildGo (s : State) : State :=
  match s.rdg.rebuild with
  | none => s
  | some p =>
      if s.rdg.mode != 0 then s
      else
        let lines := s.rdg.downLines.foldl (fun (l : List Nat) x => addOnce x l) []
        let s := lines.foldl poisonLine s
        let s := s.modBoth (fun x => { x with dir := [], pend := [], recalls := [], aged := [] })
        let s := { s with rdg.downLines := [], rdg.filter := [], rdg.filterEast := [], rdg.rebuild := none, rdg.mode := 1,
                          rdg.agents := s.rdg.agents.filter (fun a => a.2.state != 3 && a.2.state != 4) }
        let s := (s.count .west 0x4090 0x12).answerWrite p 0x3FF0 4 { data := le 4 lines.length }
        s.agentZero.resumeBlocked.resumeCopies.resumeRows

/-! ### Publication regions (R260, R261) -/

/-- 0x3FF0.05 (R260, R509). -/
def defineRegion (d : Bytes) (s : State) : Result × State :=
  let p := field 0 1 d
  let c := field 1 2 d
  let base := field 3 8 d % 2 ^ 62
  let pages := field 11 4 d
  let v := field 15 4 d
  if 1023 < c || base % 65536 != 0 || pages == 0 || !s.isSelf (gaNode base) then (outcome .translationFault, s)
  else if (p != 0xFF && (127 < p || thas p s.rdg.regions)) || c == 0 || !s.grantedRange c (gaOff base) pages ||
    s.plc.regions.any (fun r => (r.2.cls == 2 || r.2.cls == 3) && s.isSelf (gaNode r.2.base) &&
      rangesMeet (gaOff r.2.base) r.2.pages (gaOff base) pages) then (outcome .rightsFault, s)
  else match (if p == 0xFF then freeNum s.rdg.regions 128 0 else some p) with
    | none => (outcome .quotaExceeded, s)
    | some k =>
        let off := gaOff base
        let s := { s with rdg.regions := tput k { ctx := c, base := s.homeGa base, pages := pages, version := v } s.rdg.regions }
        ({ data := le 1 k }, s.startDefine (offHalf off) (off / 128) k)

/-- 0x3FF0.06. -/
def freeRegion (d : Bytes) (s : State) : Result × State :=
  let p := field 0 1 d
  if !thas p s.rdg.regions then (outcome .rightsFault, s) else ({}, { s with rdg.regions := tdel p s.rdg.regions })

/-! ### Requests of agents -/

/-- Note the eave port an agent is heard on. -/
def heardOn (s : State) (q : Req) : State :=
  match q.via with
  | .port p => if s.roleOf p != 2 then s else
      match s.agentFor (s.entryReq q) with
      | some a => { s with rdg.agents := tmod a {} (fun g => { g with port := some p }) s.rdg.agents }
      | none => s
  | _ => s

/-- A coherent request arrives (R244, R245). -/
def coherent (s : State) (op : MemOp) (q : Req) : State := (s.heardOn q).receive op q

/-- The agent a snoop response comes from: of those with its tag, one whose answer the line awaits. -/
def answering (s : State) (r : Srsp) (await : List Nat) : Option Nat :=
  match r.via with
  | .geled _ _ => some 0
  | v =>
      let here := s.entersHere v
      let mine := (s.rdg.agents.filter (fun a => a.1 != 0 && a.2.state != 0 && a.2.tag == r.agentTag && s.isSelf a.2.node == here)).map (·.1)
      match mine.find? (fun a => await.contains a) with
      | some a => some a
      | none => mine.head?

/-- Dirty data of a line nothing is pending on (R254, R67): late for a reported extent, outside every extent, or
nothing. -/
def lateDirty (s : State) (off : Nat) : State :=
  match s.spc.extents.find? (fun x => covers x.2 off) with
  | some (n, x) => if x.state == 4 then s.modExtent n (fun y => { y with late := min (y.late + 1) (2 ^ 32 - 1) }) else s
  | none => s.count (offHalf off) 0x4030 5

/-- A snoop response (R246, R254). Data marked with a check ID takes its block into the job's group, as a write-back of
that job (R226, R244). -/
def snoopReply (s : State) (r : Srsp) : State :=
  let s := s.countArrival r.via 2 (5 + ofBool r.u + (if r.dirty then 16 else 0))
  match s.locateHere (r.line * 128) with
  | .near off =>
      let line := off / 128
      let h := offHalf off
      -- no ridge message crosses a lost purlin (R13, R387)
      if !s.avl.purlinUp && viaHalf r.via != h then s
      else (match tget line (s.half h).pend with
      | none => if r.dirty then s.lateDirty off else s
      | some p =>
          match s.answering r p.await with
          | none => s
          | some a =>
              let gone := r.u && (s.itg.retracted.contains r.ck || s.jobEnded r.ctx r.job)
              let dirty := if r.dirty && !gone then some (fitTo 128 r.data, r.poison) else none
              let q : Req := { via := r.via, ctx := r.ctx, job := r.job, tag := 0, addr := off, u := true, ck := r.ck }
              let (p, s) := if r.dirty && r.u && !gone && r.job != 0xFFFF then
                  s.joinBack { op := .wbd, q := q, org := .device } line p else (p, s)
              (s.modHalf h (fun y => { y with pend := tput line p y.pend })).snoopAnswer h line a r.hit dirty)
  | _ => s

/-- A publish arrives (R262): its region, version and node are in its payload. -/
def publish (s : State) (q : Req) (region version node : Nat) : State :=
  let s := s.countArrival q.via 0 q.len
  let q := { s.entryReq q with dst := node }
  let a := { s.entryAcc .pub q with region := region, version := version }
  if !wellFormed .pub q then (s.countMalformed q.via).sendReply (s.requester q) a { status := .translationFault }
  else s.letIn a

/-- A publish whose earlier writes have landed and whose check ID is confirmed is compared (R262, R263). -/
def publishGo (s : State) (src sid job tag : Nat) : State :=
  let hit := fun (w : Held) => w.acc.op == .pub && w.acc.q.src == src && w.acc.q.sid == sid && w.acc.q.job == job &&
    w.acc.q.tag == tag && w.released && !w.acc.q.u
  [Half.west, Half.east].foldl (fun s h =>
    match (s.half h).held.find? hit with
    | none => s
    | some w =>
        let s := s.modHalf h (fun x => { x with held := x.held.filter (· ≠ w) })
        if s.rdg.mode == 0 then s.answer h w.acc { status := .domainDown } else s.pubCompare w.acc) s

/-! ### Presence (R264, R265, R293) -/

/-- Whether a line may be held by another agent, as the filter copy at an end answers (R264). -/
def filterHit (s : State) (e h : Half) (line : Nat) : Bool :=
  let t := match e with
    | .west => s.rdg.filter
    | .east => s.rdg.filterEast
  tgetD (Config.filterHash1 (localLine line) h % 2 ^ 23) 0 t != 0 &&
  tgetD (Config.filterHash2 (localLine line) h % 2 ^ 23) 0 t != 0

/-- The read a presence query starts: an RDS of agent 0 (R264). -/
def presenceRead (s : State) (e : Half) (tag line : Nat) : State :=
  let q : Req := { via := .geled e false, ctx := 0, job := 0xFFFF, tag := tag, src := s.nodeNum, sid := 0x80,
                   dst := s.nodeNum, addr := line * 128, len := 3 }
  s.toSwitch { op := .rds, q := q, ga := line * 128, org := .host (.companion e false) }

/-- A presence query is answered in the return slot of its frame; a voided slot answers nothing (R265, R293). -/
def presence (s : State) (e : Half) (fseq tag : Nat) (rd : Bool) (line : Nat) (void : Bool) : State :=
  if !s.endUp e then s
  else if void then (s.count e 0x40B0 6).emit (.presence e fseq tag false false)
  else
    let s := (s.count e 0x4090 0xE).count e 0x40B0 5
    let inside := match s.locateHere (line * 128) with
      | .near off => if off < nearSize then some off else none
      | _ => none
    match inside with
    | none => (s.count e 0x4090 0xF).emit (.presence e fseq tag true true)
    | some off =>
        let hit := !s.cfgBit e 0x20B0 2 0 || s.filterHit e (offHalf off) (off / 128)
        let s := if hit then s.count e 0x4090 0xF else s
        let s := s.emit (.presence e fseq tag hit true)
        if rd then s.presenceRead e tag line else s

end State

/-- Register a caching agent (R240). -/
def execRegister (dt : Nat) (p : Pdu) (s : State) : Host.Outcome State Fault Refusal :=
  act (.register dt p) dt s (fun s => s.dictWrite p 0x3FF0 1 State.registerAgent)

/-- Deregister (R240). -/
def execDeregister (dt : Nat) (p : Pdu) (s : State) : Host.Outcome State Fault Refusal :=
  act (.deregister dt p) dt s (fun s => s.dictWrite p 0x3FF0 2 State.deregisterAgent)

/-- A deregistration walk ends (R240). -/
def execDeregistrationWalkEnd (dt : Nat) (a : Nat) (s : State) : Host.Outcome State Fault Refusal :=
  act (.deregistrationWalkEnd dt a) dt s (fun s => s.deregEnd a)

/-- Domain mode (R256). -/
def execDomainModeCommand (dt : Nat) (p : Pdu) (s : State) : Host.Outcome State Fault Refusal :=
  act (.domainModeCommand dt p) dt s (fun s => s.dictWrite p 0x3FF0 3 State.setMode)

/-- Rebuild of a domain that is down (R259). -/
def execDomainRebuild (dt : Nat) (p : Pdu) (s : State) : Host.Outcome State Fault Refusal :=
  act (.domainRebuild dt p) dt s (fun s => s.dictWrite p 0x3FF0 4 (State.rebuildCmd p))

/-- The rebuild proceeds (R259). -/
def execRebuildProceed (dt : Nat) (s : State) : Host.Outcome State Fault Refusal :=
  act (.rebuildProceed dt) dt s (fun s => s.rebuildGo)

/-- Define a publication region (R260). -/
def execPublicationRegionDefine (dt : Nat) (p : Pdu) (s : State) : Host.Outcome State Fault Refusal :=
  act (.publicationRegionDefine dt p) dt s (fun s => s.dictWrite p 0x3FF0 5 State.defineRegion)

/-- Free a publication region (R260). -/
def execPublicationRegionFree (dt : Nat) (p : Pdu) (s : State) : Host.Outcome State Fault Refusal :=
  act (.publicationRegionFree dt p) dt s (fun s => s.dictWrite p 0x3FF0 6 State.freeRegion)

/-- RDS (R247). -/
def execRds (dt : Nat) (q : Req) (s : State) : Host.Outcome State Fault Refusal :=
  act (.rds dt q) dt s (fun s => s.coherent .rds q)

/-- RDO (R247). -/
def execRdo (dt : Nat) (q : Req) (s : State) : Host.Outcome State Fault Refusal :=
  act (.rdo dt q) dt s (fun s => s.coherent .rdo q)

/-- UPG (R247). -/
def execUpg (dt : Nat) (q : Req) (s : State) : Host.Outcome State Fault Refusal :=
  act (.upg dt q) dt s (fun s => s.coherent .upg q)

/-- WBD (R246, R247). -/
def execWbd (dt : Nat) (q : Req) (s : State) : Host.Outcome State Fault Refusal :=
  act (.wbd dt q) dt s (fun s => s.coherent .wbd q)

/-- EVC (R247). -/
def execEvc (dt : Nat) (q : Req) (s : State) : Host.Outcome State Fault Refusal :=
  act (.evc dt q) dt s (fun s => s.coherent .evc q)

/-- A snoop response (R246). -/
def execSrsp (dt : Nat) (r : Srsp) (s : State) : Host.Outcome State Fault Refusal :=
  act (.srsp dt r) dt s (fun s => s.orPass r.via (.srsp r) (fun v s => s.snoopReply { r with via := v }))

/-- A publish arrives (R262). -/
def execPub (dt : Nat) (q : Req) (region version node : Nat) (s : State) : Host.Outcome State Fault Refusal :=
  act (.pub dt q region version node) dt s (fun s => s.publish q region version node)

/-- A publish is ready (R262, R263). -/
def execPublishReady (dt : Nat) (src sid job tag : Nat) (s : State) : Host.Outcome State Fault Refusal :=
  act (.publishReady dt src sid job tag) dt s (fun s => s.publishGo src sid job tag)

/-- A presence query (R264, R265). -/
def execPq (dt : Nat) (e : Half) (fseq tag : Nat) (rd : Bool) (line : Nat) (void : Bool) (s : State) :
    Host.Outcome State Fault Refusal :=
  act (.pq dt e fseq tag rd line void) dt s (fun s => s.presence e fseq tag rd line void)

/-- A snoop is late (R250). -/
def execSnoopTimeout (dt : Nat) (h : Half) (line : Nat) (s : State) : Host.Outcome State Fault Refusal :=
  act (.snoopTimeout dt h line) dt s (fun s => s.snoopLate h line)

/-- A reclaim walk ends (R257). -/
def execReclaimWalkEnd (dt : Nat) (a : Nat) (s : State) : Host.Outcome State Fault Refusal :=
  act (.reclaimWalkEnd dt a) dt s (fun s => s.reclaimEnd a)

/-- A queued Aged entry has waited too long (R252). -/
def execAgedHeadTimeout (dt : Nat) (h : Half) (line : Nat) (s : State) : Host.Outcome State Fault Refusal :=
  act (.agedHeadTimeout dt h line) dt s (fun s => s.agedLate h line)

end Sys2Proof.Machine
end

