-- ==== Sys2Proof/Machine/Geled.lean ====
section
/-! DEFINITION. The frames and ends of the Geled Link (R290 to R307). A frame's message units are followed here for
their boundaries and credits; what the messages and the query slot ask for are commands of their own. -/

namespace Sys2Proof.Machine

/-- Channel of a class and operation sent by the companion (R295). -/
def geledClassChannel (cls op : Nat) : Nat :=
  match cls with
  | 2 => 1
  | 3 => if op == 1 || op == 2 || op == 3 || op == 0xD then 0 else if op == 6 || op == 7 then 1 else 2
  | 5 => 1
  | 6 => 3
  | 7 => if op == 3 then 1 else 0
  | 8 => if op == 2 then 1 else 0
  | _ => 0

/-- Receive buffers of an end (R297). -/
def geledBuffers : List Nat := [4096, 4096, 1024, 256]

/-- How far fseq a is ahead of fseq b, modulo 2^16. -/
def fseqAhead (a b : Nat) : Nat := (a + 65536 - b % 65536) % 65536

namespace State

/-- The last two frames of fseq a message may still be resent from: half the number space. -/
def trimLog (g : GEnd) : GEnd :=
  { g with log := g.log.filter (fun m => m.1 == (g.rcvd + 1) % 65536 || fseqAhead g.rcvd m.1 < 32768) }

/-- An end goes down: partly received messages are gone, its credits come from its next Init (R306). -/
def dropEnd (g : GEnd) : GEnd :=
  { g with st := 0, inits := 0, partUnits := 0, partHead := none, first := true, credits := [0, 0, 0, 0], farCredits := [0, 0, 0, 0],
           queue := [], link := { g.link with up := false } }

/-- The messages waiting on a lost end wait on the other (R298). -/
def moveGeled (s : State) (e : Half) (q : List (Nat × Nat × Bool × Msg)) : State :=
  q.foldl (fun s x => s.offerGeled e x.2.2.1 x.2.2.2) s

/-- An end cannot go on: its end-lost message leaves on the other end (R306). `down` is false when only the stream was
lost (R296). -/
def loseEnd (s : State) (e : Half) (down : Bool) : State :=
  let g := s.geled e
  let other := e.other
  let s := s.count e 0x40B0 3
  let s := s.gutter e 0x10 0x01 (if e = .west then 0 else 306) 0x04 (severity := 2)
  let s := if down then s.modGeled e dropEnd else s.modGeled e (fun g => { g with partUnits := 0, partHead := none })
  let s := if s.endUp other then
      let s := s.offerGeled other true (.endLost e g.rcvd)
      if down then s.moveGeled other g.queue else s
    else if down then s.modGeled e (fun x => { x with queue := g.queue }) else s
  if s.endUp .west || s.endUp .east then s
  else { s with gel.downSince := some (s.gel.downSince.getD s.now) }

/-- R306: the event of an end that flashing cannot keep. -/
def endLostEvent (s : State) (e : Half) : State :=
  if (s.geled e).st ≤ 1 then s.modGeled e (fun g => { g with st := 0 })
  else if !(s.geled e).first then s.loseEnd e true
  else s.modGeled e (fun g => { dropEnd g with queue := g.queue })

/-- The far side has lost an end: what it did not receive whole is sent again on this one (R306). -/
def resendLost (s : State) (e lost : Half) (fseq : Nat) : State :=
  let again := (s.geled lost).log.filter (fun m => let d := fseqAhead m.1 fseq; 0 < d && d < 32768)
  let s := s.modGeled lost (fun g => { g with log := [] })
  if e = lost then s else again.foldl (fun s m => s.offerGeled e m.2.1 m.2.2) s

/-- An end is Up (R303, R307). -/
def endIsUp (s : State) (e : Half) : State :=
  let s := s.modGeled e (fun g => { g with st := 4, link := { g.link with up := true } })
  let s := { s with gel.downSince := none, gel.lost := false }
  let s := if (s.geled e.other).st == 4 then s
    else
      let q := (s.geled e.other).queue
      (s.modGeled e.other (fun g => { g with queue := [] })).moveGeled e q
  (s.drainGeled e).agentZero

/-- A frame with the init record in units 0 and 1 (R303). -/
def initFrame (s : State) (e : Half) (fseq u0 u1 : Nat) : State :=
  let g := s.geled e
  let width := u0 / 2 ^ 24 % 256
  let credits := [u0 / 2 ^ 32 % 65536, u0 / 2 ^ 48 % 65536, u1 % 65536, u1 / 2 ^ 16 % 65536]
  let named := u1 / 2 ^ 32 % 65536
  let full := 16 ≤ g.good && width == 16
  let s := s.modGeled e (fun g => { g with inits := g.inits + 1, half := !full, rcvd := fseq, sent := fseq, upFseq := named, farCredits := credits })
  s.emit (.geledInit e s.nodeNum 0 (if 16 ≤ g.good then 16 else 8) geledBuffers named)

/-- The eighth init frame has come: the end is Up at the named fseq, with the credits of the record if it lost its
own (R303, R305). -/
def initDone (s : State) (e : Half) : State :=
  let s := s.modGeled e (fun g => { g with credits := if g.first then g.farCredits else g.credits, first := false, inits := 0 })
  s.endIsUp e

/-- Whether an operation and length fit a class sent by the companion (R295). The lengths of classes 0x1 and 0x3 depend on more of
their header, and the command that carries such a message checks them. -/
def headFits (cls op len : Nat) : Bool :=
  match cls with
  | 1 => 1 ≤ op && op ≤ 3
  | 3 => 1 ≤ op && op ≤ 0xD
  | 4 => (op == 1 && len == 10) || (op == 2 && len == 18) || (op == 3 && len == 34)
  | 6 => ((op == 1 || op == 4 || op == 5) && len == 5) || ((op == 2 || op == 3 || op == 6) && len == 3)
  | 7 => (op == 1 || op == 2) && len == 3
  | 8 => op == 1 && len ≤ 513
  | _ => false

/-- What following the message units of a frame yields: the units to return on each channel, the messages that ended and are not
well formed, and whether the stream can still be followed (R294, R296). -/
structure Walked where
  left : Nat
  head : Option GHead
  cr : List Nat
  bad : List GHead := []
  ok : Bool := true
deriving DecidableEq, Repr

/-- One message unit. -/
def walkUnit (w : Walked) (u : Nat) : Walked :=
  if !w.ok then w
  else
    let give := fun (h : GHead) => let c := geledClassChannel h.cls h.op; setAt w.cr c (creditOf w.cr c + 1)
    match w.head with
    | some h =>
        let h := if w.left + 1 == h.len then { h with tag := u % 65536 } else h
        let last := w.left ≤ 1
        { w with left := w.left - 1, head := if last then none else some h, cr := give h,
                 bad := if last && !headFits h.cls h.op h.len then w.bad ++ [h] else w.bad }
    | none =>
        if u == 0 then w
        else
          let h : GHead := { cls := u % 16, op := u / 16 % 16, len := u / 256 % 4096, hv := bitOf u 20 }
          if h.cls == 0 || 8 < h.cls || h.len ≤ 1 then { w with ok := false, left := 0 }
          else { w with left := h.len - 1, head := some h, cr := give h }

/-- A message that is not well formed is counted, and answered in its class's response if it is a request (R296). DESIGN CHOICE
(log entry 132): a reserved op of class 0x4 is answered with a yealm completion; a message of a class or op that the companion does
not send is dropped. -/
def badMessage (s : State) (e : Half) (h : GHead) : State :=
  let s := s.count e 0x40B0 7
  match h.cls with
  | 1 => s.toCompanion e h.hv (.mem { tag := h.tag, status := .translationFault })
  | 4 =>
      let cls := if h.op == 2 then EngClass.tile else if h.op == 3 then .update else .yealm
      s.toCompanion e h.hv (.completion cls h.tag
        (s.recordOf cls { desc := [], ctx := 0, job := 0, tag := h.tag, issuer := .companion e h.hv, status := .translationFault }))
  | 7 => s.toCompanion e h.hv (.register h.tag .translationFault 0)
  | 8 => s.toCompanion e h.hv (.mailbox h.tag { tag := 0, index := 0, sub := 0, status := .translationFault })
  | _ => s

/-- A frame of an end that is Up (R292, R296, R297). -/
def upFrame (s : State) (e : Half) (fseq : Nat) (cr units : List Nat) : State :=
  let g := s.geled e
  let w := units.foldl walkUnit { left := g.partUnits, head := g.partHead, cr := [0, 0, 0, 0] }
  let s := s.modGeled e (fun g => trimLog { g with rcvd := fseq, sent := fseq, partUnits := w.left, partHead := w.head, credits := List.zipWith (· + ·) g.credits cr })
  let s := w.bad.foldl (fun s h => s.badMessage e h) (s.drainGeled e)
  let s := if w.cr.all (· == 0) then s else s.emit (.frameCredits e w.cr)
  if w.ok then s else s.loseEnd e false

/-- A Geled frame arrives (R292, R303). The device sends the frame of the same fseq with it (log entry 34). -/
def frame (s : State) (e : Half) (fseq : Nat) (cr units : List Nat) : State :=
  let g := s.geled e
  match g.st with
  | 4 => s.upFrame e fseq cr units
  | 2 => s.modGeled e (fun g => { g with st := 3, inits := 0, rcvd := fseq, sent := fseq })
  | 3 =>
      if 8 ≤ g.inits && fseqAhead fseq g.upFseq < 32768 then (s.initDone e).upFrame e fseq cr units
      else
        (match units with
        | u0 :: u1 :: _ => if u0 == 0 then s.modGeled e (fun g => { g with inits := 0, rcvd := fseq, sent := fseq }) else s.initFrame e fseq u0 u1
        | _ => s.modGeled e (fun g => { g with inits := 0, rcvd := fseq, sent := fseq }))
  | _ => s

/-- The width of an end changes (R304). -/
def widthChange (s : State) (e : Half) (good : Nat) : State :=
  let g := s.geled e
  let s := s.modGeled e (fun g => { g with good := good })
  if good < 8 then s.endLostEvent e
  else if g.st != 4 then s
  else
    if (good < 16) == g.half then s
    else
      let s := (s.modGeled e (fun g => { g with st := 2, half := decide (good < 16), inits := 0 })).count e 0x40B0 4
      if s.endUp e.other then s else { s with gel.downSince := some (s.gel.downSince.getD s.now) }

/-- The link is lost (R307). -/
def linkLoss (s : State) : State :=
  match s.gel.downSince with
  | none => s
  | some t =>
      if s.endUp .west || s.endUp .east || s.gel.lost || s.now < t + 160000 then s
      else
        let gone := ((s.gel.west.queue ++ s.gel.east.queue).filter (fun m => m.1 == 1)).length
        let s := s.count .west 0x40B0 8 gone
        let s := (s.modGeled .west (fun g => { g with queue := [], log := [] })).modGeled .east (fun g => { g with queue := [], log := [] })
        ({ s with gel.lost := true }.count .west 0x40B0 9).agentDies 0

end State

/-- A frame arrives on an end (R292, R296, R297, R303). -/
def execGeledFrame (dt : Nat) (e : Half) (fseq creq crsp ccoh cctl : Nat) (replayed : Bool) (query : Nat) (units : List Nat) (s : State) :
    Host.Outcome State Fault Refusal :=
  act (.geledFrame dt e fseq creq crsp ccoh cctl replayed query units) dt s (fun s => s.frame e fseq [creq, crsp, ccoh, cctl] units)

/-- An end changes its width (R304). -/
def execEndWidthChange (dt : Nat) (e : Half) (good : Nat) (s : State) : Host.Outcome State Fault Refusal :=
  act (.endWidthChange dt e good) dt s (fun s => s.widthChange e good)

/-- An end is lost (R306). -/
def execEndLost (dt : Nat) (e : Half) (s : State) : Host.Outcome State Fault Refusal :=
  act (.endLost dt e) dt s (fun s => s.endLostEvent e)

/-- An end-lost message arrives (R306). -/
def execEndLostMessage (dt : Nat) (e lost : Half) (fseq : Nat) (s : State) : Host.Outcome State Fault Refusal :=
  act (.endLostMessage dt e lost fseq) dt s (fun s => s.resendLost e lost fseq)

/-- Neither end has been Up for 100 µs (R307). -/
def execLinkLossTimeout (dt : Nat) (s : State) : Host.Outcome State Fault Refusal :=
  act (.linkLossTimeout dt) dt s (fun s => s.linkLoss)

end Sys2Proof.Machine
end

