-- ==== Sys2Proof/Machine/Posted.lean ====
section
/-! DEFINITION. The meanings of descriptors and of what the engines' own events bring (R97, R98, R116 to R133, R158 to
R172, R182 to R195, R217 to R221). -/

namespace Sys2Proof.Machine
namespace State

/-- The work a submission asks for. -/
def workOf (j : Submit) (issuer : Party) : Work :=
  { desc := j.desc, ctx := j.ctx, job := j.job, tag := j.tag, issuer := issuer }

/-- Turn a submission away at stage 1. DESIGN CHOICE (log entry 128): its record goes to the issuing host alone; one that is told
to come again (RETRY) is no completed descriptor and is not counted. -/
def refuseJob (s : State) (cls : EngClass) (j : Submit) (issuer : Party) (st : Status) (fault : Nat) : State :=
  let w := { workOf j issuer with status := st, fault := fault }
  if st = .retry then s.sendCompletion w cls (s.recordOf cls w) else s.completeJob cls (viaHalf j.via) w

/-- A submission whose length is not its class's is answered TRANSLATION_FAULT (R296, R314). -/
def refuseLength (s : State) (cls : EngClass) (j : Submit) (issuer : Party) : State :=
  let w := { workOf j issuer with status := .translationFault }
  s.sendCompletion w cls (s.recordOf cls w)

/-- A descriptor is posted by a host or the companion (R47, R50, R97, R212, R331, R483). -/
def submitJob (s : State) (cls : EngClass) (j : Submit) : State :=
  let s := s.countArrival j.via 0 (4 + unitsOf j.desc.length)
  let (ok, s) := s.submitBucket j s.nodeNum
  if j.desc.length != cls.size then (s.countMalformed j.via).refuseLength cls j (issuerOf j)
  else if !ok then s.refuseJob cls j (issuerOf j) .retry 0
  else match s.submitRefusal j with
    | some (st, f) => s.refuseJob cls j (issuerOf j) st f
    | none => s.postJob cls (viaHalf j.via) (workOf j (issuerOf j)) false

/-- A job forwarded from another device (R47, R48, R98): its answers go to the issuing host there. -/
def jobForwarded (s : State) (src sid : Nat) (cls : EngClass) (j : Submit) : State :=
  let s := s.countArrival j.via 0 (4 + unitsOf j.desc.length)
  let (ok, s) := s.submitBucket j src
  if j.desc.length != cls.size then (s.countMalformed j.via).refuseLength cls j (.node src sid)
  else if !ok || s.phase < 0xA then s.refuseJob cls j (.node src sid) .retry 0
  else if s.jobEnded j.ctx j.job then s.refuseJob cls j (.node src sid) .jobEnded 0
  else match s.stage1 { via := j.via, ctx := j.ctx, job := j.job, tag := j.tag, src := src, sid := sid, addr := 0 } with
    | some (st, f) => s.refuseJob cls j (.node src sid) st f
    | none => s.postJob cls (viaHalf j.via) (workOf j (.node src sid)) true

/-- A row update arrives at the node its row's home GA or location names (R47, R48, R127, R128, R143, R144). DESIGN CHOICE (log
entry 129): one that names a table or row that is not here is refused RIGHTS_FAULT. -/
def rowArrive (s : State) (x : RowUpdate) : State :=
  let s := s.countArrival x.via 0 (6 + unitsOf x.data.length)
  let dest := Party.node x.src x.sid
  let q : Req := { via := x.via, ctx := x.ctx, job := x.job, tag := x.tag, src := x.src, sid := x.sid, dst := s.nodeNum,
                   addr := 0, len := 6 + unitsOf x.data.length, rc := x.rc, u := x.u, ck := x.ck, aop := x.vfmt,
                   data := x.data, agentTag := x.table }
  let a : Acc := { op := if x.set then .rowSet else .rowAdd, q := q, org := .remote dest, region := x.seq, version := x.pos }
  let (ok, s) := s.chargeBucket x.via x.src x.ctx x.job (q.len * 8)
  if !ok then s.sendReply dest a { status := .retry, sv := true, stall := 1 } else
  match s.stage1 q, s.tableOf x.table with
  | some (st, f), _ => s.fail a st f
  | none, none => s.fail a .rightsFault
  | none, some t =>
      let ga := rowGa t x.row
      let n := if x.set then rowSize t else t.dim * (fmtBits t.fmt / 8)
      let a := { a with ga := ga, q := { q with addr := ga, size := n } }
      if t.ctx != x.ctx || !(x.row < t.rows) then s.fail a .rightsFault
      else s.goHome a

end State

/-- GATHER, and any descriptor of the yealm class with a reserved operation (R120, R121). -/
def execGather (dt : Nat) (j : Submit) (s : State) : Host.Outcome State Fault Refusal :=
  act (.gather dt j) dt s (fun s => s.submitJob .yealm j)

/-- SCATTER_ADD (R128). -/
def execScatterAdd (dt : Nat) (j : Submit) (s : State) : Host.Outcome State Fault Refusal :=
  act (.scatterAdd dt j) dt s (fun s => s.submitJob .yealm j)

/-- SCATTER_SET (R129). -/
def execScatterSet (dt : Nat) (j : Submit) (s : State) : Host.Outcome State Fault Refusal :=
  act (.scatterSet dt j) dt s (fun s => s.submitJob .yealm j)

/-- PREFETCH (R138). -/
def execPrefetch (dt : Nat) (j : Submit) (s : State) : Host.Outcome State Fault Refusal :=
  act (.prefetch dt j) dt s (fun s => s.submitJob .yealm j)

/-- A tile job (R155 to R158). -/
def execTileJob (dt : Nat) (j : Submit) (s : State) : Host.Outcome State Fault Refusal :=
  act (.tileJob dt j) dt s (fun s => s.submitJob .tile j)

/-- An update program (R177, R182). -/
def execUpdateProgram (dt : Nat) (j : Submit) (s : State) : Host.Outcome State Fault Refusal :=
  act (.updateProgram dt j) dt s (fun s => s.submitJob .update j)

/-- A forwarded job (R98). -/
def execForwardedJob (dt : Nat) (src sid : Nat) (cls : EngClass) (j : Submit) (s : State) :
    Host.Outcome State Fault Refusal :=
  act (.forwardedJob dt src sid cls j) dt s (fun s => s.orPass j.via (.forwarded src sid cls j) (fun v s => s.jobForwarded src sid cls { j with via := v }))

/-- A part request (R122, R123). -/
def execPartRequest (dt : Nat) (x : Part) (s : State) : Host.Outcome State Fault Refusal :=
  act (.partRequest dt x) dt s (fun s => s.orPass x.via (.part x) (fun v s => s.partArrive { x with via := v }))

/-- A part answer (R124). -/
def execPartAnswer (dt : Nat) (x : PartAnswer) (s : State) : Host.Outcome State Fault Refusal :=
  act (.partAnswer dt x) dt s (fun s => s.orPass x.via (.partAnswer x) (fun v s => s.partAnswered { x with via := v }))

/-- A row update (R127). -/
def execRowUpdate (dt : Nat) (x : RowUpdate) (s : State) : Host.Outcome State Fault Refusal :=
  act (.rowUpdate dt x) dt s (fun s => s.orPass x.via (.rowUpdate x) (fun v s => s.rowArrive { x with via := v }))

/-- A queued gang starts (R162). -/
def execGangStart (dt : Nat) (leader : Nat) (s : State) : Host.Outcome State Fault Refusal :=
  act (.gangStart dt leader) dt s (fun s => s.gangStart leader)

/-- A member's partials arrive (R163, R164). -/
def execPartialAccumulator (dt : Nat) (leader member p n : Nat) (s : State) : Host.Outcome State Fault Refusal :=
  act (.partialAccumulator dt leader member p n) dt s (fun s => s.partialArrive leader member p n)

/-- A gather-fed panel is delivered (R166). -/
def execPanelDelivery (dt : Nat) (tile panel : Nat) (s : State) : Host.Outcome State Fault Refusal :=
  act (.panelDelivery dt tile panel) dt s (fun s => s.panelDeliver tile panel)

/-- The checker's verdict on a tile's unit, with the bits its array upset (R217 to R221). -/
def execCheckVerdict (dt : Nat) (tile : Nat) (upset : List (Nat × Nat × BitVec 32)) (s : State) :
    Host.Outcome State Fault Refusal :=
  act (.checkVerdict dt tile upset) dt s (fun s => s.verdict tile upset)

/-- A recomputation finishes, with the bits the other array upset (R221). -/
def execRecomputationComplete (dt : Nat) (tile : Nat) (upset : List (Nat × Nat × BitVec 32)) (s : State) :
    Host.Outcome State Fault Refusal :=
  act (.recomputationComplete dt tile upset) dt s (fun s => s.resolve tile upset)

/-- A window of an update program has landed (R191). -/
def execWindowComplete (dt : Nat) (unit : Nat) (s : State) : Host.Outcome State Fault Refusal :=
  act (.windowComplete dt unit) dt s (fun s => s.windowDone unit)

end Sys2Proof.Machine
end

