-- ==== Sys2Proof/Machine/Fabric.lean ====
section
/-! DEFINITION. Ports, credits, batches, relay and the load level (R310, R311, R321 to R325, R332, R338, R346). -/

namespace Sys2Proof.Machine
namespace State

/-- Everything of a port that waits for credits or for a flash is tried again. -/
def drainAll (s : State) (p : Nat) : State := (s.drainPort p).drainBatches p

/-! ### Batches (R324, R325) -/

/-- A batch ack arrives (R325). -/
def batchAcked (s : State) (p bseq : Nat) : State :=
  let s := s.portArrival p 3 4
  { s with fab.ports := s.fab.ports.map (fun t => (t.1, { t.2 with kept := t.2.kept.filter (fun k => k.1 != bseq) })) }

/-- The batch close time of an open batch has passed (R324). -/
def batchTime (s : State) (p vc : Nat) : State :=
  match (s.port p).batches.find? (fun b => b.vc == vc && !b.closed) with
  | none => s
  | some b =>
      if s.now < b.since + s.gcfg 0x20D0 4 then s
      else
        let s := s.modPort p (fun t =>
          { t with batches := t.batches.map (fun x => if x.vc == vc then { x with closed := true } else x) })
        s.drainBatches p

/-! ### Port loss and relay (R321, R323) -/

/-- Packets that wait on a port look for their way again. -/
def reroute (s : State) (p : Nat) : State :=
  let q := (s.port p).queue
  let s := s.modPort p (fun t => { t with queue := [], waitSince := none })
  q.foldl (fun s x => if x.dst == 0x3FFF then s.offer p x else (s.route x).2) s

/-- Every packet that waits for a roof peer looks for its way again. -/
def rerouteAll (s : State) : State := s.roofPeers.foldl (fun s m => s.reroute m.2) s

/-- Port-state packets to every roof member reached directly, and to the far side by relay (R321). -/
def sendPortState (s : State) (peer p : Nat) (up : Bool) : State :=
  let m := Msg.portState peer up (if up then 0 else (s.port p).rcvd)
  let s := s.roofPeers.foldl (fun s n => if s.portUp n.2 && n.1 != peer then s.offer n.2 { dst := n.1, sid := 0xF0, vc := 3, units := 5, m := m } else s) s
  let x : Pkt := { dst := peer, sid := 0xF0, vc := 3, units := 5, m := .portState s.nodeNum up (if up then 0 else (s.port p).rcvd) }
  if up then s.offer p x
  else match s.relayMember peer with
    | some v => s.offer v.2 { x with rl := true }
    | none => s

/-- A draining port that has all its credit back says so to its peers and sends no more (R355). -/
def drainCheck (s : State) (p : Nat) : State :=
  let t := s.port p
  if !t.draining || t.drained || t.owed != 0 then s
  else
    let s := s.modPort p (fun t => { t with drained := true })
    match s.roleOf p == 1, s.peerOn p with
    | true, some n => ((s.sendPortState n p false).modPort p (fun t => { t with relay := true })).reroute p
    | _, _ => s

/-- A link word (R310, R311). -/
def linkWord (s : State) (p : Nat) (cr : List Nat) : State :=
  ((s.modPort p (fun t => { t with credits := List.zipWith (· + ·) t.credits cr, owed := t.owed - cr.foldl (· + ·) 0 })).drainAll p).drainCheck p

/-- The far side has said how many packets it received whole: the later ones are resent, by relay where there is one
(R321). -/
def resendAfter (s : State) (p rcvd : Nat) : State :=
  let t := s.port p
  let all := (t.link.unacked.map (·.carries)).flatten
  let k := min all.length ((t.sent + 2 ^ 32 - rcvd % 2 ^ 32) % 2 ^ 32)
  let late := all.drop (all.length - k)
  (s.modPort p (fun t => { t with link := { t.link with unacked := [] }, sent := rcvd, relay := true, queue := late ++ t.queue })).reroute p

/-- A port-state packet (R321). -/
def portStateMsg (s : State) (src node : Nat) (up : Bool) (rcvd : Nat) : State :=
  if !s.isRoofPeer src then s
  else
    let s := { s with fab.members := tput (src, if s.isSelf node then s.nodeNum else node) up s.fab.members }
    let s := if s.isSelf node && !up then
        (match s.roofPeers.find? (fun m => m.1 == src) with
        | some m => s.resendAfter m.2 rcvd
        | none => s)
      else s
    s.rerouteAll

/-- What a gateway port has not had acknowledged goes again on the other gateway port to the same node (R325). -/
def moveBatches (s : State) (p : Nat) : State :=
  let t := s.port p
  let twin := (List.range 32).find? (fun q => q != p && s.roleOf q == 4 && s.portUp q && (s.port q).farNode == t.farNode)
  let old : List OpenBatch := t.kept.map (fun k => { vc := k.2.1, inner := k.2.2, units := (k.2.2.map (·.units)).foldl (· + ·) 0, since := s.now, closed := true, bseq := some k.1 })
  match twin with
  | none => s.modPort p (fun t => { t with kept := [], batches := old ++ t.batches })
  | some q =>
      let s := s.modPort p (fun t => { t with kept := [], batches := [] })
      (s.modPort q (fun u => { u with batches := old ++ t.batches.map (fun b => { b with closed := true }) ++ u.batches })).drainBatches q

/-- A port goes down (R255, R321, R323, R325). -/
def portDown (s : State) (p : Nat) : State :=
  let t := s.port p
  if !t.link.up then s
  else
    let role := s.roleOf p
    let late := (t.link.unacked.map (·.carries)).flatten
    let s := s.modPort p (fun t => { t with link := { t.link with up := false, wasDown := t.link.wasDown || !t.link.planned, reqs := [] }, credits := [0, 0, 0, 0], owed := 0, drained := false })
    let s := s.gutter (portHalf p) 0x0D 0x02 p 0x04 (severity := 2)
    if role == 1 then
      match s.peerOn p with
      | some n =>
          let s := s.sendPortState n p false
          -- the far side may have said so first
          if tgetD (n, s.nodeNum) true s.fab.members then s.rerouteAll else s.reroute p
      | none => s
    else
      let s := s.modPort p (fun t => { t with link := { t.link with unacked := [] }, queue := late ++ t.queue })
      if role == 2 then s.agentsDie (fun _ a => a.port == some p)
      else if role == 4 then s.moveBatches p
      else s.reroute p

/-- A gateway port is up: what another gateway port to the same node keeps, and cannot send, goes on it (R325). -/
def takeBatches (s : State) (p : Nat) : State :=
  ((List.range 32).filter (fun q => q != p && s.roleOf q == 4 && !s.portUp q && (s.port q).farNode == (s.port p).farNode)).foldl
    (fun s q => s.moveBatches q) s

/-- A link is up: credits are granted afresh, and what the port keeps begins again (R311, R338, R346). -/
def portUpEvent (s : State) (p : Nat) : State :=
  let t := s.port p
  if s.roleOf p == 0 || t.link.up || t.mismatch || t.link.width < 7 then s
  else
    let late := if s.roleOf p == 1 then (t.link.unacked.map (·.carries)).flatten else []
    let s := s.modPort p (fun t =>
      { t with link := { t.link with up := true, training := false, txSeq := 0, rxSeq := 0xFFF, nk := false, unacked := [], reqs := [], planned := false },
               credits := [0, 0, 0, 0], owed := 0, sent := 0, rcvd := 0, buckets := [], draining := false, drained := false, queue := late ++ t.queue,
               waitSince := if (late ++ t.queue).isEmpty then none else some (t.waitSince.getD s.now) })
    let s := { s with fab.nodes := s.fab.nodes.map (fun (n : Nat × Node) => (n.1, { n.2 with win := 0x4000 })) }
    let s := s.emit (.credits p [16384, 32768, 2048, 512])
    match s.roleOf p == 1, s.peerOn p with
    | true, some n =>
        let s := { s with fab.members := tput (n, s.nodeNum) true s.fab.members }
        -- before course s nothing is announced (R480)
        if s.crs.first == noCourse then s else s.sendPortState n p true
    | _, _ => if s.roleOf p == 4 then s.takeBatches p else s

/-! ### Load level (R332) -/

/-- Accesses that wait at each memory controller, against its request queue of 2,048 entries. -/
def stackWaits (s : State) (n : Nat) : Nat := (s.rdg.blocked.filter (fun b => stackOf b.2.off == n)).length

/-- The load level of the device, from the fullest of its queues. -/
def loadOf (s : State) : Nat :=
  let waits := (List.range 16).foldl (fun m n => max m (16 * s.stackWaits n / 2048)) 0
  min 15 (max waits (max (16 * s.west.pend.length / 4096) (16 * s.east.pend.length / 4096)))

end State

/-- A link word (R310). -/
def execLinkWord (dt : Nat) (p cr0 cr1 cr2 cr3 : Nat) (s : State) : Host.Outcome State Fault Refusal :=
  act (.linkWord dt p cr0 cr1 cr2 cr3) dt s (fun s => s.linkWord p [cr0, cr1, cr2, cr3])

/-- A batch ack (R325). -/
def execBatchAck (dt : Nat) (p bseq : Nat) (s : State) : Host.Outcome State Fault Refusal :=
  act (.batchAck dt p bseq) dt s (fun s => s.batchAcked p bseq)

/-- The batch close time (R324). -/
def execBatchCloseTime (dt : Nat) (p vc : Nat) (s : State) : Host.Outcome State Fault Refusal :=
  act (.batchCloseTime dt p vc) dt s (fun s => s.batchTime p vc)

/-- A port-state packet (R321). -/
def execPortState (dt : Nat) (src : Sender) (node : Nat) (up : Bool) (rcvd : Nat) (s : State) : Host.Outcome State Fault Refusal :=
  act (.portState dt src node up rcvd) dt s (fun s =>
    s.orPass src.via (.portState src.node node up rcvd) (fun v s => (s.countArrival v 3 5).portStateMsg src.node node up rcvd))

/-- A port goes down (R321). -/
def execPortDown (dt : Nat) (p : Nat) (s : State) : Host.Outcome State Fault Refusal :=
  act (.portDown dt p) dt s (fun s => s.portDown p)

/-- A link finishes training (R346). -/
def execPortUp (dt : Nat) (p : Nat) (s : State) : Host.Outcome State Fault Refusal :=
  act (.portUp dt p) dt s (fun s => s.portUpEvent p)

/-- The load level is computed anew (R332). -/
def execLoadLevelRecompute (dt : Nat) (s : State) : Host.Outcome State Fault Refusal :=
  act (.loadLevelRecompute dt) dt s (fun s => { s with fab.loadLevel := s.loadOf })

end Sys2Proof.Machine
end

