-- ==== Sys2Proof/Machine/Optics.lean ====
section
/-! DEFINITION. Lanes, flashing and laser modules (R339 to R356). -/

namespace Sys2Proof.Machine

/-! ### Where lanes are (R339, R340) -/

def linkEngine : Link → Nat
  | .port p => p / 2 + 1
  | .geled .west => 0
  | .geled .east => 17

/-- The lanes of a link, numbered 18e + k. -/
def linkLanes : Link → List Nat
  | .port p => (List.range 9).map (fun i => 18 * (p / 2 + 1) + 9 * (p % 2) + i)
  | .geled .west => List.range 18
  | .geled .east => (List.range 18).map (· + 306)

/-- The link a lane belongs to. -/
def laneLink (lane : Nat) : Link :=
  let e := lane / 18
  if e == 0 then .geled .west else if 17 ≤ e then .geled .east
  else .port (2 * (e - 1) + (if lane % 18 < 9 then 0 else 1))

/-- The half of an optical engine (R12). -/
def opticHalf (e : Nat) : Half := halfIf (e < 9)

/-- Links fed by a laser module: it feeds engines 2m and 2m + 1 (R340). -/
def moduleLinks (m : Nat) : List Link :=
  let of' := fun (e : Nat) => if e == 0 then [Link.geled .west] else if e == 17 then [Link.geled .east]
    else [Link.port (2 * (e - 1)), Link.port (2 * (e - 1) + 1)]
  of' (2 * m) ++ of' (2 * m + 1)

def laneModule (lane : Nat) : Nat := lane / 36

/-- The fields of a good codeword's control word (R342). -/
structure Control where
  kind : Nat
  lane : Nat
  seq : Nat
  ack : Nat
  nk : Bool
deriving DecidableEq, Repr

/-- FEC and CRC of one codeword (R341): its control word, and the bytes corrected. -/
def readCodeword (c : Codeword) : Option (Control × Nat) :=
  match Config.fecDecode c.bytes with
  | none => none
  | some (m, n) =>
      if crc32c (m.take 260) = BitVec.ofNat 32 (field 260 4 m) then
        let w := field 256 4 m
        some (⟨w % 8, w / 8 % 16, w / 2 ^ 7 % 4096, w / 2 ^ 19 % 4096, bitOf w 31⟩, n)
      else none

namespace State

def lane (s : State) (n : Nat) : Lane := tgetD n {} s.opt.lanes

def modLane (s : State) (n : Nat) (f : Lane → Lane) : State := { s with opt.lanes := tmod n {} f s.opt.lanes }

def laserModule (s : State) (m : Nat) : Module := tgetD m {} s.opt.modules

def modModule (s : State) (m : Nat) (f : Module → Module) : State := { s with opt.modules := tmod m {} f s.opt.modules }

def linkSt (s : State) : Link → LinkSt
  | .port p => (s.port p).link
  | .geled e => (s.geled e).link

def modLink (s : State) (l : Link) (f : LinkSt → LinkSt) : State :=
  match l with
  | .port p => s.modPort p (fun t => { t with link := f t.link })
  | .geled e => s.modGeled e (fun g => { g with link := f g.link })

/-- Take from the mark of the course in progress, stopping at 0 (R354). -/
def markDown (n : Nat) (h : Health) : Health := { h with mark := h.mark - n }

def activeLanes (s : State) (l : Link) : List Nat := (linkLanes l).filter (fun n => (s.lane n).st == 3)

/-- Standby lanes not already promised to a spare switch. -/
def spareLanes (s : State) (l : Link) : List Nat :=
  (linkLanes l).filter (fun n => (s.lane n).st == 2 && !(s.linkSt l).reqs.any (fun r => r.typ == 1 && r.phy == n % 18))

/-! ### Replay (R344) -/

/-- Resend every unacknowledged flash as kind 1, with its seq. -/
def replay (s : State) (l : Link) : State :=
  let fs := (s.linkSt l).unacked
  if fs.isEmpty then s
  else
    let s := s.modLink l (fun t => { t with replays := t.replays + 1, unacked := t.unacked.map (fun (f : Flash) => { f with since := s.now }) })
    (s.count (opticHalf (linkEngine l)) (0x4140 + linkEngine l) 0x15 fs.length).emitAll (fs.map (fun f => Out.flash l f.seq true))

/-- Everything of a link that waited for a free flash. -/
def drainLink (s : State) (l : Link) : State :=
  match l with
  | .port p => s.drainAll p
  | .geled e => s.drainGeled e

/-- An acknowledgement frees the flashes up to it; nk asks for the rest again. -/
def acked (s : State) (l : Link) (c : Control) : State :=
  let fs := (s.linkSt l).unacked
  let s := if fs.any (fun f => f.seq == c.ack) then
      s.modLink l (fun t => { t with unacked := (t.unacked.dropWhile (fun f => f.seq != c.ack)).drop 1 })
    else s
  (if c.nk then s.replay l else s).drainLink l

/-- Count what FEC corrected and what it could not (R341, R354, R358). -/
def countCodeword (s : State) (l : Link) (c : Codeword) : State :=
  let e := linkEngine l
  match readCodeword c with
  | some (_, n) => (s.count (opticHalf e) (0x4140 + e) 0x13 n).modLane (18 * e + c.lane) (fun x => { x with cws := x.cws + 1, corr := x.corr + n })
  | none => (s.count (opticHalf e) (0x4140 + e) 0x14).modLane (18 * e + c.lane) (fun x => { x with cws := x.cws + 1, health := markDown 16 x.health })

/-- The control words sent from now on acknowledge the last whole flash, and ask for replay after a discarded one (R342, R344). -/
def sendControl (s : State) (l : Link) : State := s.emit (.control l (s.linkSt l).rxSeq (s.linkSt l).nk)

/-- A flash arrives: one codeword on each lane of the link (R341 to R344). The units of a whole flash in order are
messages and packets, which are commands of their own. -/
def flashArrive (s : State) (l : Link) (cws : List Codeword) : State :=
  let t := s.linkSt l
  if !t.up then s
  else
    let s := cws.foldl (fun s c => s.countCodeword l c) s
    let act := s.activeLanes l
    let got := act.map (fun n => (cws.find? (fun c => c.lane == n % 18)).bind readCodeword)
    match got.findSome? id with
    | none => (s.modLink l (fun t => { t with nk := true })).sendControl l
    | some (c, _) =>
        let whole := got.all (fun x => match x with
          | some (d, _) => d.seq == c.seq && d.kind == c.kind
          | none => false)
        let s := s.acked l c
        if whole && c.kind != 0 && c.kind != 1 then s
        else if whole && c.seq == (t.rxSeq + 1) % 4096 then (s.modLink l (fun t => { t with rxSeq := c.seq, nk := false })).sendControl l
        else (s.modLink l (fun t => { t with nk := true })).sendControl l

/-- A flash has waited the replay timeout unacknowledged. -/
def replayLate (s : State) (l : Link) : State :=
  if (s.linkSt l).up && (s.linkSt l).unacked.any (fun f => f.since + s.gcfg 0x20E0 5 ≤ s.now) then s.replay l else s

/-! ### Lane messages (R345) -/

/-- The first flash under a new arrangement, at least 4 ahead. -/
def switchSeq (t : LinkSt) : Nat := (t.txSeq + 4) % 4096

/-- Send a request and keep it until its answer. -/
def laneRequest (s : State) (l : Link) (typ log phy : Nat) : State :=
  let sw := switchSeq (s.linkSt l)
  (s.modLink l (fun t => { t with reqs := t.reqs ++ [⟨typ, log, phy, sw⟩] })).emit (.lane l typ log phy sw [])

def laneAnswer (s : State) (l : Link) (typ log phy : Nat) : State := s.emit (.lane l typ log phy (switchSeq (s.linkSt l)) [])

def dropRequest (s : State) (l : Link) (typ : Nat) : State :=
  s.modLink l (fun t => { t with reqs := t.reqs.filter (fun r => r.typ != typ) })

/-! ### Spares and widths (R350, R351) -/

def countSwitch (s : State) (l : Link) : State :=
  s.count (opticHalf (linkEngine l)) (0x4140 + linkEngine l) 0x16

/-- Record a lane as declared bad: its mark is 0, and two dark lanes of one laser show the laser dark (R340, R353). -/
def setBad (s : State) (n : Nat) : State :=
  let x := s.lane n
  if x.st == 4 then s
  -- an expelled lane that has been moved out is Retired, for no score (R348, R351)
  else if x.health.expelled then s.modLane n (fun x => { x with st := 5, step := 0 })
  else
    let s := s.modLane n (fun x => { x with st := 4, step := 0, bads := min (x.bads + 1) 15, health := { x.health with mark := 0 } })
    let k := n % 18
    let twin := n / 18 * 18 + (if k < 9 then k + 9 else k - 9)
    let m := laneModule n
    if (s.lane twin).st == 4 && 2 ≤ (s.laserModule m).st && (s.laserModule m).st ≤ 4 then
      let bit := n / 18 % 2 * 9 + k % 9
      if bitOf (s.laserModule m).dark bit then s
      else (s.modModule m (fun v => { v with st := 4, dark := v.dark + 2 ^ bit })).gutter
        (opticHalf (n / 18)) 0x0F 0x03 m 0x02
    else s

/-- Move a logical lane to a standby lane. -/
def spareSwitch (s : State) (l : Link) (log phy : Nat) : State :=
  let old := (linkLanes l).filter (fun n => (s.lane n).logical == log && ((s.lane n).st == 3 || (s.lane n).st == 4))
  let s := old.foldl (fun s n => (s.setBad n).modLane n (fun x => { x with logical := 0x1F })) s
  (s.modLane (18 * linkEngine l + phy) (fun x => { x with st := 3, logical := log })).countSwitch l

/-- Give logical lanes to the first w usable lanes in physical order; the rest stand by. -/
def assign (s : State) (l : Link) (w : Nat) (lanes : List Nat) : State :=
  let s := (linkLanes l).foldl (fun s n => s.modLane n (fun x => { x with logical := 0x1F })) s
  let s := (lanes.take w).zipIdx.foldl (fun s x => s.modLane x.1 (fun v => { v with st := 3, logical := x.2 })) s
  let s := (lanes.drop w).foldl (fun s n => s.modLane n (fun v => { v with st := 2 })) s
  s.modLink l (fun t => { t with width := w, width7 := t.width7 || w == 7 })

def usableLanes (s : State) (l : Link) : List Nat := (linkLanes l).filter (fun n => (s.lane n).st == 3 || (s.lane n).st == 2)

/-- Both directions run at another width (R350, R351). -/
def setWidth (s : State) (l : Link) (w : Nat) : State :=
  let s := (s.activeLanes l).foldl (fun s n => if (s.lane n).health.expelled then s.setBad n else s) s
  let ok := s.usableLanes l
  if (w == 7 || w == 8) && w ≤ ok.length then (s.assign l w ok).countSwitch l else s

/-- A port without a spare asks for width 7, or goes down: steps 2 and 3 of R350. -/
def narrowPort (s : State) (p : Nat) : State :=
  if (s.linkSt (.port p)).width == 8 && s.cfgBit (portHalf p) 0x20E0 1 1 && 7 ≤ (s.usableLanes (.port p)).length then s.laneRequest (.port p) 3 7 0 else s.portDown p

/-- The Bad lane that still holds a logical lane while its spare is asked for. -/
def waitingLane (s : State) (l : Link) (r : LaneReq) : Option Nat :=
  if r.typ == 1 then (linkLanes l).find? (fun n => (s.lane n).logical == r.log && (s.lane n).st == 4) else none

/-- A lane that carried a logical lane is bad: steps 1 to 4 of R350. Of two lanes declared bad within one handshake the
lower takes the spare (R351). -/
def moveLane (s : State) (l : Link) (n : Nat) : State :=
  match s.spareLanes l with
  | sp :: _ =>
      let s := s.laneRequest l 1 (s.lane n).logical (sp % 18)
      (match l with
      | .geled e => s.modGeled e (fun g => { g with good := (s.usableLanes l).length })
      | .port _ => s)
  | [] =>
      match l with
      | .port p =>
          (match (s.linkSt l).reqs.find? (fun r => (s.waitingLane l r).any (fun o => n < o)) with
          | some r => ((s.dropRequest l 1).laneRequest l 1 (s.lane n).logical r.phy).narrowPort p
          | none => s.narrowPort p)
      | .geled e =>
          let ok := (s.usableLanes l).filter (· ≠ n)
          let s := s.modLane n (fun x => { x with logical := 0x1F })
          (if 8 ≤ ok.length && ok.length < 16 then s.assign l 8 ok else s).widthChange e ok.length

/-- A Standby lane is declared bad: a logical lane that was to move to it moves elsewhere (R350). -/
def standbyBad (s : State) (l : Link) (n : Nat) : State :=
  let s := s.modLane n (fun x => { x with logical := 0x1F })
  match (s.linkSt l).reqs.find? (fun r => r.typ == 1 && r.phy == n % 18) with
  | none => s
  | some r =>
      let s' := s.modLink l (fun t => { t with reqs := t.reqs.filter (fun x => !(x.typ == 1 && x.phy == n % 18)) })
      match s.waitingLane l r with
      | some o => s'.moveLane l o
      | none => s'

/-- A lane is declared bad (R349, R350). -/
def declareBad (s : State) (n : Nat) : State :=
  let st := (s.lane n).st
  let l := laneLink n
  if st != 2 && st != 3 then s
  else
    let spared := st == 2 || !(s.spareLanes l).isEmpty
    let s := (s.setBad n).gutter (opticHalf (n / 18)) 0x0C 0x01 n (if spared then 0x02 else 0x04)
    if st == 3 && (s.linkSt l).up then s.moveLane l n else s.standbyBad l n

/-- A spare request (R350). When both sides want one spare, the lower physical lane takes it (R351); a request that comes
again is answered again (R345). -/
def spareAsked (s : State) (l : Link) (log phy : Nat) : State :=
  let sp := 18 * linkEngine l + phy
  let lanesOf := fun (g : Nat) => (linkLanes l).find? (fun n => (s.lane n).logical == g && (s.lane n).st != 2)
  if !(linkLanes l).contains sp then s
  else if (s.lane sp).st == 3 && (s.lane sp).logical == log then s.laneAnswer l 2 log phy
  else if (s.lane sp).st != 2 then s
  else match (s.linkSt l).reqs.find? (fun r => r.typ == 1 && r.phy == phy) with
    | none => (s.spareSwitch l log phy).laneAnswer l 2 log phy
    | some r =>
        if r.log == log then ((s.dropRequest l 1).spareSwitch l log phy).laneAnswer l 2 log phy
        else
          match lanesOf log, lanesOf r.log with
          | some theirs, some mine =>
              if theirs < mine then
                (((s.dropRequest l 1).spareSwitch l log phy).laneAnswer l 2 log phy).moveLane l mine
              else s
          | _, _ => s

/-- A spare answer (R350). -/
def spareAnswered (s : State) (l : Link) (log phy : Nat) : State :=
  if (s.linkSt l).reqs.any (fun r => r.typ == 1 && r.log == log && r.phy == phy) then
    (s.modLink l (fun t => { t with reqs := t.reqs.filter (fun r => !(r.typ == 1 && r.log == log && r.phy == phy)) })).spareSwitch l log phy
  else s

/-- A width request (R350, R351). -/
def widthAsked (s : State) (l : Link) (w : Nat) : State :=
  match l with
  | .geled _ => s
  | .port _ =>
      if (s.linkSt l).up && (w == 7 || w == 8) then
        -- a request that comes again is answered again (R345)
        if (s.linkSt l).width == w && (s.activeLanes l).length == w && !(s.activeLanes l).any (fun n => (s.lane n).health.expelled) then
          (s.dropRequest l 3).laneAnswer l 4 w 0
        else ((s.dropRequest l 3).setWidth l w).laneAnswer l 4 w 0
      else s

/-- A width answer. -/
def widthAnswered (s : State) (l : Link) (w : Nat) : State :=
  if (s.linkSt l).reqs.any (fun r => r.typ == 3 && r.log == w) then (s.dropRequest l 3).setWidth l w else s

/-- Retraining of one lane begins on this side (R351). -/
def retrainLane (s : State) (n : Nat) : State :=
  if (s.lane n).st == 4 && !(s.lane n).health.expelled then s.modLane n (fun x => { x with st := 1, step := 0 }) else s

/-- A Bad lane is tried again (R351). -/
def retryLane (s : State) (n : Nat) : State :=
  let l := laneLink n
  if (s.lane n).st == 4 && !(s.lane n).health.expelled && (s.linkSt l).up && s.cfgBit (opticHalf (n / 18)) 0x20E0 1 0 then
    (s.retrainLane n).emit (.lane l 5 0 (n % 18) (switchSeq (s.linkSt l)) [])
  else s

/-- The far side announces that it will take the link down by drain (R345, R355). -/
def farDrain (s : State) (l : Link) : State := (s.modLink l (fun t => { t with planned := true })).laneAnswer l 7 0 0

/-- The far side's power report, with the light received here (R352, R353). -/
def powerHeard (s : State) (l : Link) (txp : List Nat) (oma : List Int) : State :=
  let e := linkEngine l
  let s := (linkLanes l).foldl (fun s n =>
    let k := n % 18
    match oma[k]? with
    | none => s
    | some v => s.modLane n (fun x => { x with oma := v, connector := decide (v + 30 ≤ x.trainOma) && (txp.getD k 0xFF) != 0xFF })) s
  let bad := ((List.range 18).filter (fun k => (s.lane (18 * e + k)).connector)).length
  let m := e / 2
  let bit := e % 2
  let was := bitOf (s.laserModule m).connector bit
  if 3 ≤ bad && !was then
    (s.modModule m (fun v => { v with connector := v.connector + 2 ^ bit })).gutter (opticHalf e) 0 0x03 m 0x09 (severity := 3)
  else if bad < 3 && was then s.modModule m (fun v => { v with connector := v.connector - 2 ^ bit })
  else s

/-! ### Training (R346, R347) -/

/-- Whether a link is to train: its role, and light from its module. -/
def mayTrain (s : State) (l : Link) : Bool :=
  let m := (s.laserModule (linkEngine l / 2)).st
  (2 ≤ m && m ≤ 4) && !(s.linkSt l).up && (match l with
  | .port p => s.roleOf p != 0 && !(s.port p).health.expelled
  | .geled e => (s.geled e).st ≤ 1)

/-- Training starts on every lane of a link (R346). -/
def startTraining (s : State) (l : Link) : State :=
  if !s.mayTrain l then s
  else
    let s := (linkLanes l).foldl (fun s n => s.modLane n (fun x => if x.st == 5 || x.health.expelled then x else { x with st := 1, step := 0, logical := 0x1F })) s
    let s := s.modLink l (fun t => { t with training := true, since := s.now, width := 0, reqs := [] })
    match l with
    | .port p => s.modPort p (fun t => { t with mismatch := false, farValid := false })
    | .geled e => s.modGeled e (fun g => { g with st := 1 })

/-- The assign step (R347), once no lane is still training. -/
def assignStep (s : State) (l : Link) : State :=
  let lanes := linkLanes l
  if !(s.linkSt l).training || lanes.any (fun n => (s.lane n).st == 1 && (s.lane n).step < 5) then s
  else
    let good := lanes.filter (fun n => (s.lane n).st == 1)
    match l with
    | .port p =>
        let t := s.port p
        let bad := s.roleOf p == 1 && t.farValid && (s.peerOn p != some t.farNode || t.farRole != 1)
        let s := s.modPort p (fun t => { t with mismatch := bad })
        if bad then s
        else if 8 ≤ good.length then s.assign l 8 good
        else if good.length == 7 && s.cfgBit (portHalf p) 0x20E0 1 1 then s.assign l 7 good
        else s
    | .geled e =>
        let w := if 16 ≤ good.length then 16 else 8
        if good.length < 8 then s.modGeled e (fun g => { g with st := 0, good := good.length })
        else
          let s := s.assign l w good
          s.modGeled e (fun g => { g with st := 2, good := good.length, half := w == 8, inits := 0, link := { g.link with up := true, training := false, txSeq := 0, rxSeq := 0xFFF, nk := false, unacked := [] } })

/-- A lane of a link that is up has retrained clean: it stands by, and a port at width 7 asks for width 8 (R351). -/
def laneBack (s : State) (l : Link) (n : Nat) : State :=
  let s := s.modLane n (fun x => { x with st := 2, logical := 0x1F })
  let m := laneModule n
  let bit := n / 18 % 2 * 9 + n % 18 % 9
  let s := if bitOf (s.laserModule m).dark bit then
      s.modModule m (fun v => let d := v.dark - 2 ^ bit; { v with dark := d, st := if v.st == 4 && d == 0 then (if v.flagged then 3 else 2) else v.st })
    else s
  match l with
  | .port _ => if (s.linkSt l).width == 7 && !(s.linkSt l).reqs.any (fun r => r.typ == 3) then s.laneRequest l 3 8 0 else s
  | .geled e =>
      let good := (s.usableLanes l).length
      if (s.geled e).half && 16 ≤ good then (s.assign l 16 (s.usableLanes l)).widthChange e good
      else s.modGeled e (fun g => { g with good := good })

/-- A lane has done a training step (R346). -/
def trainStep (s : State) (n step : Nat) (pass : Bool) (oma : Int) (r : TrainRec) : State :=
  let l := laneLink n
  let x := s.lane n
  if x.st != 1 || step != x.step + 1 || 5 < step then s
  else if !pass then (s.modLane n (fun x => { x with st := 4, step := 0 })).assignStep l
  else
    let s := s.modLane n (fun x => { x with step := step, oma := if step == 1 then oma else x.oma, trainOma := if step == 1 then oma else x.trainOma })
    let (agree, s) := if step != 4 then (true, s) else
      (match l with
      | .port p =>
          let t := s.port p
          if !t.farValid then (true, s.modPort p (fun t => { t with farNode := r.node, farRole := r.role, farValid := true }))
          else (r.node == t.farNode && r.role == t.farRole, s)
      | .geled _ => (true, s))
    if !agree then (s.modLane n (fun x => { x with st := 4, step := 0 })).assignStep l
    else if step == 5 && (s.linkSt l).up then s.laneBack l n
    else s.assignStep l

/-- A link that has not come up in 50 ms trains again, 100 ms after it began (R346). -/
def repeatTraining (s : State) (l : Link) : State :=
  let t := s.linkSt l
  if t.training && !t.up && t.since + 160000000 ≤ s.now then s.startTraining l else s

/-! ### Laser modules (R352 to R356) -/

/-- Ratio of a bias to the beginning-of-life bias, in 1/64 (R352). -/
def biasRatio (bias bol : Nat) : Nat := if bol == 0 then 64 else bias * 64 / bol

/-- The state of a module in service. -/
def serviceState (v : Module) : Nat := if v.dark != 0 then 4 else if v.flagged then 3 else 2

/-- A module is flagged for replacement (R353, R354). -/
def flagModule (s : State) (m ratio : Nat) (above : Bool) : State :=
  let v := s.laserModule m
  if v.st < 2 || 4 < v.st then s
  else
    let s := s.modModule m (fun v => { v with ratio := max v.ratio (min ratio 255) })
    if (s.gcfg 0x20E0 3 ≤ ratio || above) && !v.flagged then
      (s.modModule m (fun v => { v with flagged := true, st := serviceState { v with flagged := true } })).gutter
        (opticHalf (2 * m)) 0x0E 0x03 m 0x09 (severity := 3)
    else s

/-- A Geled end on a module (R340). -/
def moduleEnd (m : Nat) : Option Half := if m == 0 then some .west else if m == 8 then some .east else none

def modulePorts (m : Nat) : List Nat := (moduleLinks m).filterMap (fun l => match l with
  | .port p => some p
  | .geled _ => none)

/-- A port stops starting packets (R355). -/
def startDrain (s : State) (p : Nat) : State :=
  if (s.port p).link.up then ((s.modPort p (fun t => { t with draining := true })).laneRequest (.port p) 6 0 0).drainCheck p else s

/-- 0x6F00.04, action 0x01. -/
def drainStart (s : State) (p : Pdu) (m : Nat) : Result × State :=
  let v := s.laserModule m
  let lastEnd := match moduleEnd m with
    | some e => s.endUp e && !s.endUp e.other
    | none => false
  if v.st < 2 || 4 < v.st || lastEnd then (outcome .rightsFault, s)
  else
    let s := s.modModule m (fun v => { v with st := 5, drainReply := some p })
    ({ later := true }, (modulePorts m).foldl startDrain s)

/-- Answer a drain that is over. -/
def answerDrain (s : State) (m : Nat) (st : Status) : State :=
  match (s.laserModule m).drainReply with
  | none => s
  | some p => (s.modModule m (fun v => { v with drainReply := none })).answerWrite p 0x6F00 4 (outcome st)

/-- 0x6F00.04, action 0x02: a drain in progress stops, or a module that is Out comes back. -/
def drainCancel (s : State) (m : Nat) : Result × State :=
  let v := s.laserModule m
  if v.st == 5 then
    let s := (s.modModule m (fun v => { v with st := serviceState v })).answerDrain m .retry
    ({}, (modulePorts m).foldl (fun s p =>
      let t := s.port p
      if t.drained then (s.modPort p (fun t => { t with draining := false, drained := false, link := { t.link with up := false, planned := true } })).startTraining (.port p)
      else (s.modPort p (fun t => { t with draining := false })).drainAll p) s)
  else if v.st == 6 then ({}, s.modModule m (fun v => { v with st := 1, enable := true }))
  else (outcome .rightsFault, s)

/-- 0x6F00.04 (R355). -/
def moduleCommand (p : Pdu) (d : Bytes) (s : State) : Result × State :=
  let m := field 0 1 d
  let a := field 1 1 d
  if 8 < m || !(a == 1 || a == 2) then (outcome .translationFault dValue, s)
  else if a == 1 then s.drainStart p m else s.drainCancel m

/-- A link whose light goes by drain: no score, nothing to resend (R355). -/
def darken (s : State) (l : Link) : State :=
  let s := (linkLanes l).foldl (fun s n => s.modLane n (fun x => if x.st == 5 then x else { x with st := 0, step := 0, logical := 0x1F })) s
  match l with
  | .port p => s.modPort p (fun t => { t with link := { t.link with up := false, training := false, width := 0, reqs := [], unacked := [], planned := true }, credits := [0, 0, 0, 0], owed := 0, draining := false, drained := false })
  | .geled e => s.endLostEvent e

/-- A module is drained (R355): every port has its credit back, and a Geled end has nothing left to replay. -/
def drainDone (s : State) (m : Nat) : State :=
  if (s.laserModule m).st != 5 || (modulePorts m).any (fun p => (s.port p).link.up && !(s.port p).drained) ||
    (moduleEnd m).any (fun e => s.endUp e && !(s.geled e).link.unacked.isEmpty) then s
  else
    let s := (moduleLinks m).foldl darken s
    (s.modModule m (fun v => { v with st := 6, enable := false })).answerDrain m .ok

/-- A module is pulled (R355, R356, R378). -/
def moduleGone (s : State) (m : Nat) : State :=
  let v := s.laserModule m
  if v.st == 0 then s
  else if v.st == 6 then s.modModule m (fun v => { health := v.health })
  else
    let s := s.answerDrain m .retry
    let s := (moduleLinks m).foldl (fun s l =>
      let s := (linkLanes l).foldl (fun s n => if (s.lane n).st == 2 || (s.lane n).st == 3 then
        s.modLane n (fun x => { x with st := 4, logical := 0x1F, bads := min (x.bads + 1) 15, health := { x.health with mark := 0 } }) else s) s
      match l with
      | .port p => s.portDown p
      | .geled e => s.endLostEvent e) s
    (s.modModule m (fun v => { health := { v.health with mark := 0, hardDead := true } })).gutter (opticHalf (2 * m)) 0x0F 0x03 m 0x04 (severity := 2)

/-- A module is inserted and warms up, with the bias values its own memory holds (R352, R353, R382);
before phase 0x05 it stays dark (R473). -/
def moduleIn (s : State) (m : Nat) (bol : List Nat) (hours : Nat) : State :=
  if (s.laserModule m).st != 0 then s
  else if s.phase < 5 then s.modModule m (fun v => { v with present := true, bol := bol, hours := hours })
  else s.modModule m (fun v => { st := 1, present := true, enable := true, bol := bol, hours := hours, health := { v.health with expelled := false, hardDead := false } })

/-- A warming module is at its target (R352, R353): first light records the beginning-of-life bias. -/
def moduleReady (s : State) (m : Nat) (bias : List Nat) (temp : Nat) : State :=
  if (s.laserModule m).st != 1 then s
  else
    let s := s.modModule m (fun v =>
      let bol := if v.bol.isEmpty then bias else v.bol
      { v with bol := bol, bias := bias, temp := min temp 255, dark := 0, st := serviceState { v with dark := 0 },
               ratio := (List.zipWith biasRatio bias bol).foldl max 0 })
    s.flagModule m (s.laserModule m).ratio false

end State

/-- A flash arrives (R341 to R344). -/
def execFlashReceived (dt : Nat) (l : Link) (cws : List Codeword) (s : State) : Host.Outcome State Fault Refusal :=
  act (.flashReceived dt l cws) dt s (fun s => s.flashArrive l cws)

/-- The replay timeout (R344). -/
def execReplayTimeout (dt : Nat) (l : Link) (s : State) : Host.Outcome State Fault Refusal :=
  act (.replayTimeout dt l) dt s (fun s => s.replayLate l)

/-- A spare request (R345, R350). -/
def execSpareRequest (dt : Nat) (l : Link) (log phy sw : Nat) (s : State) : Host.Outcome State Fault Refusal :=
  act (.spareRequest dt l log phy sw) dt s (fun s => s.spareAsked l log phy)

/-- A spare answer (R345, R350). -/
def execSpareAnswer (dt : Nat) (l : Link) (log phy sw : Nat) (s : State) : Host.Outcome State Fault Refusal :=
  act (.spareAnswer dt l log phy sw) dt s (fun s => s.spareAnswered l log phy)

/-- A width request (R345, R350). -/
def execWidthRequest (dt : Nat) (l : Link) (width sw : Nat) (s : State) : Host.Outcome State Fault Refusal :=
  act (.widthRequest dt l width sw) dt s (fun s => s.widthAsked l width)

/-- A width answer (R345, R350). -/
def execWidthAnswer (dt : Nat) (l : Link) (width sw : Nat) (s : State) : Host.Outcome State Fault Refusal :=
  act (.widthAnswer dt l width sw) dt s (fun s => s.widthAnswered l width)

/-- A retrain request (R345, R351). -/
def execRetrainRequest (dt : Nat) (l : Link) (phy : Nat) (s : State) : Host.Outcome State Fault Refusal :=
  act (.retrainRequest dt l phy) dt s (fun s =>
    let n := 18 * linkEngine l + phy
    if (linkLanes l).contains n then s.retrainLane n else s)

/-- A planned-down message (R345). -/
def execPlannedDown (dt : Nat) (l : Link) (s : State) : Host.Outcome State Fault Refusal :=
  act (.plannedDown dt l) dt s (fun s => s.farDrain l)

/-- A planned-down answer (R345). -/
def execPlannedDownAnswer (dt : Nat) (l : Link) (s : State) : Host.Outcome State Fault Refusal :=
  act (.plannedDownAnswer dt l) dt s (fun s => s.dropRequest l 6)

/-- The far side's power report (R345, R352). -/
def execPowerReport (dt : Nat) (l : Link) (txp : List Nat) (oma : List Int) (s : State) : Host.Outcome State Fault Refusal :=
  act (.powerReport dt l txp oma) dt s (fun s => s.powerHeard l txp oma)

/-- This side's power report is due (R345). -/
def execPowerReportSend (dt : Nat) (l : Link) (txp : List Nat) (s : State) : Host.Outcome State Fault Refusal :=
  act (.powerReportSend dt l txp) dt s (fun s => s.emit (.lane l 8 0 0 0 txp))

/-- Requests without an answer are sent again (R345). -/
def execLaneMessageResend (dt : Nat) (l : Link) (s : State) : Host.Outcome State Fault Refusal :=
  act (.laneMessageResend dt l) dt s (fun s =>
    s.emitAll ((s.linkSt l).reqs.map (fun r => Out.lane l r.typ r.log r.phy r.sw [])))

/-- Training starts (R346). -/
def execLinkTrainingStart (dt : Nat) (l : Link) (s : State) : Host.Outcome State Fault Refusal :=
  act (.linkTrainingStart dt l) dt s (fun s => s.startTraining l)

/-- A lane has done a training step (R346). -/
def execTrainingStepDone (dt : Nat) (lane step : Nat) (pass : Bool) (oma : Int) (r : TrainRec) (s : State) :
    Host.Outcome State Fault Refusal :=
  act (.trainingStepDone dt lane step pass oma r) dt s (fun s => s.trainStep lane step pass oma r)

/-- Training is repeated (R346). -/
def execTrainingRepeat (dt : Nat) (l : Link) (s : State) : Host.Outcome State Fault Refusal :=
  act (.trainingRepeat dt l) dt s (fun s => s.repeatTraining l)

/-- A lane is declared bad (R349, R350). -/
def execLaneDeclaredBad (dt : Nat) (lane : Nat) (s : State) : Host.Outcome State Fault Refusal :=
  act (.laneDeclaredBad dt lane) dt s (fun s => s.declareBad lane)

/-- A Bad lane is tried again (R351). -/
def execBadLaneRetry (dt : Nat) (lane : Nat) (s : State) : Host.Outcome State Fault Refusal :=
  act (.badLaneRetry dt lane) dt s (fun s => s.retryLane lane)

/-- A laser's bias reaches its limit (R353). -/
def execLaserModuleFlag (dt : Nat) (m laser ratio : Nat) (overLimit : Bool) (s : State) : Host.Outcome State Fault Refusal :=
  act (.laserModuleFlag dt m laser ratio overLimit) dt s (fun s => s.flagModule m ratio overLimit)

/-- 0x6F00.04, action 0x01 (R355). -/
def execLaserModuleDrain (dt : Nat) (p : Pdu) (s : State) : Host.Outcome State Fault Refusal :=
  act (.laserModuleDrain dt p) dt s (fun s => s.dictWrite p 0x6F00 4 (State.moduleCommand p))

/-- 0x6F00.04, action 0x02 (R355). -/
def execLaserDrainCancel (dt : Nat) (p : Pdu) (s : State) : Host.Outcome State Fault Refusal :=
  act (.laserDrainCancel dt p) dt s (fun s => s.dictWrite p 0x6F00 4 (State.moduleCommand p))

/-- A module is drained (R355). -/
def execLaserDrainComplete (dt : Nat) (m : Nat) (s : State) : Host.Outcome State Fault Refusal :=
  act (.laserDrainComplete dt m) dt s (fun s => s.drainDone m)

/-- A module is removed (R355, R356). -/
def execModuleRemoved (dt : Nat) (m : Nat) (s : State) : Host.Outcome State Fault Refusal :=
  act (.moduleRemoved dt m) dt s (fun s => s.moduleGone m)

/-- A module is inserted (R353). -/
def execModulePresent (dt : Nat) (m : Nat) (bol : List Nat) (hours : Nat) (s : State) : Host.Outcome State Fault Refusal :=
  act (.modulePresent dt m bol hours) dt s (fun s => s.moduleIn m bol hours)

/-- A module is warm (R353). -/
def execModuleWarm (dt : Nat) (m : Nat) (bias : List Nat) (temp : Nat) (s : State) : Host.Outcome State Fault Refusal :=
  act (.moduleWarm dt m bias temp) dt s (fun s => s.moduleReady m bias temp)

end Sys2Proof.Machine
end

