-- ==== Sys2Proof/Machine/Faults.lean ====
section
/-! DEFINITION. Scrub, channel failures, field tests, health of peers and expulsion, the lease, the purlin and admission
(R362 to R391). -/

namespace Sys2Proof.Machine

/-- Kind code of an engine in gutter records (R394). -/
def engKind : EngClass → Nat
  | .tile => 5
  | .yealm => 6
  | .update => 7

namespace State

/-- A command's event goes on the list of both halves, or during a split on the lease holder's (R38). A half whose
controller pair has halted acknowledges it when the pair runs again. -/
def addEvent (s : State) (x : Ev) : State :=
  if s.avl.purlinUp then
    let late := !(s.west.running && s.east.running)
    s.modBoth (fun h => { h with events := h.events ++ [x], unacked := if late then h.unacked ++ [x] else h.unacked })
  else s.modHalf s.holder (fun h => { h with events := h.events ++ [x] })

/-- Every event is acknowledged by both halves (R38). -/
def acknowledged (s : State) : State :=
  if s.west.running && s.east.running && s.avl.purlinUp then s.modBoth (fun h => { h with unacked := [] }) else s

/-- The events of a half's list that are eligible for a boundary: while the purlin is up, those both halves have
acknowledged (R38). -/
def eligible (s : State) (h : Half) : List Ev :=
  if s.avl.purlinUp then (s.half h).events.filter (fun e => !(s.half h).unacked.contains e) else (s.half h).events

/-- Take events off the lists of some halves. -/
def dropEvents (s : State) (hs : List Half) (due : Ev → Bool) : State :=
  hs.foldl (fun (s : State) h => s.modHalf h (fun x =>
    { x with events := x.events.filter (fun e => !due e), unacked := x.unacked.filter (fun e => !due e) })) s

def isAdmission : Ev → Bool
  | .admission _ => true
  | _ => false

/-! ### Stacks and the directory (R362 to R365) -/

def modStack (s : State) (n : Nat) (f : Stack → Stack) : State := { s with near.stackRecs := tmod n {} f s.near.stackRecs }

/-- 4 KiB blocks of a stack. -/
def stackBlocks : Nat := stackSize / 4096

/-- The line or byte of an error. -/
def errorLine : StackError → Nat
  | .corrected l => l
  | .uncorrectable l => l
  | .altered off _ => off / 128

/-- Scrub the next block of a stack (R362): errors are met, then the crc is checked. -/
def scrubBlock (s : State) (n : Nat) (errs : List StackError) : State :=
  if !s.cfgBit (stackHalf n) 0x20F0 1 0 then s
  else
    let b := n * stackBlocks + (s.stackRec n).scrub
    let s := (errs.filter (fun x => errorLine x / 32 == b)).foldl stackError s
    let s := (s.homeCheck b).2
    if (s.stackRec n).scrub + 1 < stackBlocks then s.modStack n (fun k => { k with scrub := k.scrub + 1 })
    else (s.modStack n (fun k => { k with scrub := 0, passes := k.passes + 1 })).count (stackHalf n) 0x40F0 0x13

/-- A directory entry with an uncorrectable error (R365): its line is poisoned, every registered agent is snooped, and
the entry goes Invalid. -/
def entryError (s : State) (h : Half) (line : Nat) : State :=
  match s.entryOf h line with
  | none => s
  | some e =>
      let s := (s.poisonLine line).gutter h 0x07 0x0A h.num 0x03 (severity := 3) (ga := line * 128) (cnt := 1)
      let all := (s.rdg.agents.filter (fun a => a.2.state == 1 || a.2.state == 2)).map (·.1)
      if isRp e then s.recallLine h line .entryError true
      else if all.isEmpty then s.setEntry h line none
      else if s.pendRoom h 1 then s.startSnoop h line 9 e all .entryError true
      else s.recallLine h line .entryError true

/-- The clean lines of a channel. -/
def channelLines (s : State) (n ch : Nat) : List Nat :=
  s.near.clean.filter (fun l => stackOf (l * 128) == n && channelOf (l * 128) == ch)

/-- A channel has failed (R363, R364). -/
def channelFails (s : State) (n ch : Nat) (unreadable : List Nat) : State :=
  let k := s.stackRec n
  let h := stackHalf n
  if k.retired.contains ch then s
  else match k.spare with
    | none =>
        let s := (unreadable.filter (fun l => stackOf (l * 128) == n && channelOf (l * 128) == ch)).foldl poisonLine s
        ((s.modStack n (fun k => { k with spare := some ch, copying := true, copied := [] })).count h 0x40F0 0x11).gutter h 0x03 0x08 (33 * n + ch) 0x02
    | some _ =>
        let lines := s.channelLines n ch
        let s := lines.foldl poisonLine s
        let again := k.spare == some ch
        (s.modStack n (fun k => { k with retired := k.retired ++ [ch], copying := k.copying && !again })).gutter h 0x04 0x08 (33 * n + ch) 0x03 (severity := 3) (cnt := lines.length)

/-- The copy to the spare ends (R363): what read uncorrectable is poisoned there. -/
def spareCopied (s : State) (n : Nat) (unreadable : List Nat) : State :=
  let k := s.stackRec n
  if !k.copying then s
  else
    let bad := unreadable.filter (fun l => stackOf (l * 128) == n && some (channelOf (l * 128)) == k.spare && !k.copied.contains l)
    (bad.foldl poisonLine s).modStack n (fun k => { k with copying := false, copied := [] })

/-! ### Field tests (R366 to R374) -/

/-- Whether more than num/den of a test interval has passed since an engine's last test (R368). -/
def testLate (s : State) (e : Engine) (num den : Nat) : Bool :=
  let g := s.engOf e
  let h := engHalf e
  let courses := max 1 (min 32 (s.cfg h 0x20F0 2))
  let ms := max 100 (min 6000 (s.cfg h 0x20F0 3))
  let c := s.courseOf h
  (c != noCourse && g.doneCourse != noCourse && num * courses ≤ den * (c - g.doneCourse)) || num * ms * 1600000 ≤ den * (s.now - g.doneAt)

/-- All engines of a half. -/
def halfEngines (h : Half) : List Engine := classEngines .tile h ++ classEngines .yealm h ++ classEngines .update h

/-- Whether an engine of the half is under test (R367): one taken out pending test is tested at once, before any other
(R368, R373). -/
def halfTesting (s : State) (h : Half) : Bool :=
  (halfEngines h).any (fun e => (s.engOf e).state == 1 || (s.engOf e).state == 2)

/-- The place of an engine among due tests: those R221 names, then by due time, then by sid (R368). -/
def testBefore (s : State) (a b : Engine) : Bool :=
  let x := s.engOf a
  let y := s.engOf b
  if x.checkerFirst != y.checkerFirst then x.checkerFirst
  else if x.dueAt != y.dueAt then x.dueAt < y.dueAt
  else engSid a < engSid b

def testsOn (s : State) (e : Engine) : Bool := s.cfgBit (engHalf e) 0x20F0 1 1

/-- An engine's test falls due (R368). -/
def testDue (s : State) (e : Engine) : State :=
  if (s.engOf e).due || !s.testsOn e || !s.testLate e 1 1 then s
  else s.modEng e (fun g => { g with due := true, dueAt := s.now })

/-- Whether an engine has an empty queue and runs nothing (R369). -/
def idle (s : State) (e : Engine) : Bool := (s.engOf e).state == 0 && (s.engOf e).queue.isEmpty && (s.engOf e).run.isNone

/-- A dormer slot: a due test starts, the first in order of those that could (R367 to R369). -/
def dormer (s : State) (e : Engine) : State :=
  let h := engHalf e
  if !(s.engOf e).due || !s.idle e || !s.testsOn e || s.halfTesting h ||
      (halfEngines h).any (fun x => x != e && (s.engOf x).due && s.idle x && s.testBefore x e) then s
  else s.modEng e (fun g => { g with state := 1, forced := false, testFrom := s.courseOf h })

/-- A forced test takes its engine out of service and moves its work (R370). -/
def forceTest (s : State) (e : Engine) : State :=
  let s := (s.modEng e (fun g => { g with state := 1, forced := true, due := true, testFrom := s.courseOf (engHalf e) })).count (engHalf e) 0x40F0 0xA
  match e.cls with
  | .tile => s.tileMove e.idx
  | .update => s.updateMove e
  | .yealm => s.moveQueue e

/-- A due test is forced (R368), or one that software asked to be (R371). -/
def testForced (s : State) (e : Engine) : State :=
  let g := s.engOf e
  if g.state != 0 || !g.due || s.halfTesting (engHalf e) then s
  else if g.forced || (s.testsOn e && s.testLate e 3 2) then s.forceTest e else s

/-- Context and job of what an engine still holds. -/
def engJobs (g : Eng) : List (Nat × Nat) :=
  ((match g.run with
    | some w => [w]
    | none => []) ++ g.queue).foldl (fun l w => addOnce (w.ctx, w.job) l) []

/-- A test passes (R366, R373). -/
def testPassed (s : State) (e : Engine) : State :=
  let h := engHalf e
  let c := s.courseOf h
  let g := s.engOf e
  let twice := 2 ≤ (g.outs.filter (fun x => c < x + 1024)).length
  let st := if g.state == 2 && twice && !g.override then 3 else 0
  let s := s.modEng e (fun g => { g with state := st, checkerFirst := false, due := false, forced := false, override := false, doneAt := s.now, doneCourse := c, passCourse := g.testFrom, jobs := engJobs g, overflow := false, outs := if g.override then [] else g.outs })
  (s.count h 0x40F0 7).push (.wake e)

/-- A test fails (R372, R373): the engine leaves service and every job on its list is ended. -/
def testFailed (s : State) (e : Engine) (step sig : Nat) : State :=
  let h := engHalf e
  let g := s.engOf e
  let jobs := g.jobs
  let s := (s.modEng e (fun g => { g with state := if g.state == 2 || g.override then 3 else 2, fails := min 15 (g.fails + 1), due := true, dueAt := s.now, forced := false, override := false, doneAt := s.now, doneCourse := s.courseOf h, jobs := [], overflow := false, outs := g.outs ++ [s.courseOf h] })).count h 0x40F0 8
  let s := s.gutter h 0x0B (engKind e.cls) e.idx 0x08 (severity := 0) (flags := ofBool g.overflow) (cnt := jobs.length) (detail := le 2 step ++ le 4 sig)
  let s := s.pushAll (jobs.map (fun j => Task.endJob j.1 j.2 4 none))
  s.moveQueue e

/-- Whether an engine still finishes what it has in hand, before a forced test: a yealm engine its descriptor (R370), an
update unit its window (R194). -/
def finishing (g : Eng) (cls : EngClass) : Bool :=
  match g.run with
  | some w => cls == .yealm || (cls == .update && !betweenWindows w)
  | none => false

/-- A field test ends. -/
def testDone (s : State) (e : Engine) (pass : Bool) (step sig : Nat) : State :=
  let g := s.engOf e
  if !(g.state == 1 || g.state == 2) || finishing g e.cls then s
  else
    let s := s.modEng e (fun g => { g with testFrom := if g.state == 2 then s.courseOf (engHalf e) else g.testFrom })
    if pass then s.testPassed e else s.testFailed e step sig

/-- 0x6F00.01 (R371). -/
def testCommand (d : Bytes) (s : State) : Result × State :=
  let cls := match field 0 1 d with
    | 1 => some EngClass.tile
    | 2 => some EngClass.yealm
    | 3 => some EngClass.update
    | _ => none
  match cls with
  | none => (outcome .rightsFault, s)
  | some c =>
      let e : Engine := ⟨c, field 1 1 d⟩
      let mode := field 2 1 d
      if !e.wf || 1 < mode || 2 ≤ (s.engOf e).state then (outcome .rightsFault, s)
      else
        let g := s.engOf e
        let s := s.modEng e (fun g => { g with due := true, dueAt := if g.due then g.dueAt else s.now })
        if mode == 0 || g.state == 1 then ({}, s)
        else if s.halfTesting (engHalf e) then ({}, s.modEng e (fun g => { g with forced := true }))
        else ({}, s.forceTest e)

/-- The clear course (R374). -/
def clearCourse (s : State) : Nat :=
  let all := (halfEngines .west ++ halfEngines .east).filter (fun e => (s.engOf e).state ≤ 1)
  let cs := all.map (fun e => (s.engOf e).passCourse)
  if cs.isEmpty || cs.contains noCourse then noCourse else cs.foldl min noCourse

/-! ### Peers (R377, R378) -/

def peerMark (s : State) (n k : Nat) : State := s.modNode n (fun x => { x with health := markDown k x.health })

/-- Each half controller probes each roof peer (R377). -/
def probeAll (s : State) (h : Half) : State :=
  if !(s.half h).running then s
  else s.roofPeers.foldl (fun s m =>
    let (tag, s) := s.newTag
    let q : Req := { via := .batch (16 * h.num), ctx := 0, job := 0xFFFF, tag := tag, src := s.nodeNum, sid := 0x50 + h.num, dst := m.1,
                     addr := mkGa m.1 0, size := 8 }
    let s := s.modNode m.1 (fun x => { x with probes := addOnce h x.probes })
    s.toNode { op := .read, ga := mkGa m.1 0, org := .probe h, q := q } m.1) s

/-- A probe has had no answer within 1 ms. -/
def probeLate (s : State) (h : Half) (n : Nat) : State :=
  if !(s.node n).probes.contains h then s
  else
    let s := (s.modNode n (fun x => { x with probes := x.probes.filter (· ≠ h) })).peerMark n 32
    { s with eng.outs := s.eng.outs.filter (fun o => !(o.node == n && o.acc.org = .probe h)) }

/-- A request to a peer has had no answer for the limit. -/
def requestLate (s : State) (sid tag : Nat) : State :=
  match s.outOf sid tag with
  | none => s
  | some o => if s.isRoofPeer o.node && o.issued + s.gcfg 0x20F0 0xB ≤ s.now then s.peerMark o.node 128 else s

/-- Nothing has arrived from a peer for the limit: it is hard-dead (R378). -/
def peerSilent (s : State) (n : Nat) : State :=
  if s.isRoofPeer n && (s.node n).heard + s.gcfg 0x20F0 0xA ≤ s.now && !(s.node n).health.hardDead then
    (s.modNode n (fun x => { x with health := { x.health with hardDead := true } })).gutter s.holder 0x15 0x04 n 0x09 (flags := 2)
  else s

/-- Packets that wait on a port for a node that is now unreachable: requests of other nodes are answered, the rest is dropped
(R323). -/
def dropQueued (s : State) (n : Nat) : State :=
  let mine := fun (x : Pkt) => x.dst == n
  let gone := (s.fab.ports.map (fun p => p.2.queue.filter mine)).flatten
  let s := { s with fab.ports := s.fab.ports.map (fun (p : Nat × Port) => (p.1, { p.2 with queue := p.2.queue.filter (fun x => !mine x) })) }
  gone.foldl (fun s x => match x.m with
    | .request op q =>
        if s.isSelf q.src then s
        else s.sendReply (.node q.src q.sid) { op := op, q := q, ga := q.addr, org := .device } { status := .nodeUnreachable }
    | .publish q region version => if s.isSelf q.src then s else s.turnAway (.pub q region version q.dst) .nodeUnreachable
    | .rowUpdate u => if s.isSelf u.src then s else s.turnAway (.rowUpdate u) .nodeUnreachable
    | .onward _ y 0 _ _ => s.turnAway y .nodeUnreachable
    | _ => s) s

/-- What this device holds for a node it can no longer reach: agents, groups that depend on it, held capping writes, and
requests that wait for it (R228, R255, R281, R323, R379). -/
def nodeLost (s : State) (n : Nat) : State :=
  let s := s.agentsDie (fun _ a => a.node == n)
  -- no answer comes any more to what was asked of it for a move (R88, R142)
  let s := { s with plc.moves := s.plc.moves.filter (fun m => m.dest != n || m.demote),
                    ylx.moves := s.ylx.moves.filter (fun m => m.dest != n || m.back) }
  let deps := s.itg.groups.filter (fun g => g.2.phase == 0 && g.2.deps.any (fun d => d.node == n))
  let s := s.pushAll (deps.map (fun g => Task.retract (s.idOf g.2)))
  let s := s.dropCaps (fun a => a.q.src == n) false
  if s.wayTo n != Way.unreachable then s
  else
    let s := (s.dropQueued n).partsLost n
    let gone := s.eng.outs.filter (fun o => o.node == n)
    let s := { s with eng.outs := s.eng.outs.filter (fun o => o.node != n) }
    gone.foldl (fun s o =>
      let all := if o.joined.isEmpty then [o.acc] else o.joined
      (all.foldl (fun s a => if a.q.job == 0xFFFF then s else s.push (.endJob a.q.ctx a.q.job 4 none)) s).lose o) s

/-! ### Expulsion and readmission (R379 to R383) -/

/-- The health record of a part that has one (R376). -/
def healthOf (s : State) (x : PartRef) : Health :=
  match x.kind with
  | 1 => (s.lane x.idx).health
  | 2 => (s.port x.idx).health
  | 3 => (s.laserModule x.idx).health
  | _ => (s.node x.idx).health

def modHealth (s : State) (x : PartRef) (f : Health → Health) : State :=
  match x.kind with
  | 1 => s.modLane x.idx (fun v => { v with health := f v.health })
  | 2 => s.modPort x.idx (fun v => { v with health := f v.health })
  | 3 => s.modModule x.idx (fun v => { v with health := f v.health })
  | _ => s.modNode x.idx (fun v => { v with health := f v.health })

/-- Half whose record of an event this is. -/
def partHalf (s : State) (x : PartRef) : Half :=
  match x.kind with
  | 1 => opticHalf (x.idx / 18)
  | 2 => portHalf x.idx
  | 3 => opticHalf (2 * x.idx)
  | _ => s.holder

/-- A lane is expelled: moved out if Active, then Retired (R348, R379). -/
def expelLane (s : State) (n : Nat) : State :=
  let x := s.lane n
  let l := laneLink n
  if x.st == 0 then s
  else if x.st != 3 || !(s.linkSt l).up then
    let s := s.modLane n (fun x => { x with st := 5, step := 0, logical := 0x1F })
    if x.st == 2 then s.standbyBad l n else s
  else
    let s := if (s.spareLanes l).isEmpty && (match l with
        | .geled _ => true
        | .port _ => false) then s.setBad n else s
    let s := s.moveLane l n
    if (s.linkSt l).reqs.isEmpty then (s.setBad n).modLane n (fun x => { x with logical := 0x1F }) else s

/-- The effects of expulsion (R379). -/
def expel (s : State) (x : PartRef) (flags : Nat) : State :=
  let dead := ofBool (s.healthOf x).hardDead * 2
  let s := (s.modHealth x (fun h => { h with expelled := true, suspect := false, due := 0, held := false })).count (s.partHalf x) 0x40F0 0xB
  let s := s.gutter (s.partHalf x) 0 x.kind x.idx 0x05 (flags := flags + dead) (score := (s.healthOf x).score)
  match x.kind with
  | 1 => s.expelLane x.idx
  | 2 => s.startDrain x.idx
  | 3 =>
      let st := (s.laserModule x.idx).st
      if 2 ≤ st && st ≤ 4 then (modulePorts x.idx).foldl startDrain (s.modModule x.idx (fun v => { v with st := 5 })) else s
  | _ => s.nodeLost x.idx

/-- A part carries traffic again (R382, R383). Of a part that was not expelled only the record changes. -/
def readmit (s : State) (x : PartRef) (reset : Bool) (flags : Nat) : State :=
  let was := (s.healthOf x).expelled
  let s := s.modHealth x (fun h =>
    { h with expelled := false, hardDead := false, due := 0, held := false, score := if reset then 255 else h.score, clean := if reset then 0 else h.clean })
  if !was then s
  else
    let s := (s.count (s.partHalf x) 0x40F0 0xC).gutter (s.partHalf x) 0 x.kind x.idx 0x07 (severity := 3) (flags := flags) (score := (s.healthOf x).score)
    match x.kind with
    | 1 => if (s.lane x.idx).st == 5 then s.modLane x.idx (fun v => { v with st := 4 }) else s
    | 2 =>
        let t := s.port x.idx
        if t.link.up && !t.drained then (s.modPort x.idx (fun t => { t with draining := false })).drainAll x.idx
        else (s.modPort x.idx (fun t => { t with draining := false, drained := false, link := { t.link with up := false } })).startTraining (.port x.idx)
    | 3 => if 5 ≤ (s.laserModule x.idx).st then (s.drainCancel x.idx).2 else s
    | _ => s.rerouteAll

/-- Whether a part exists (R394). -/
def partExists (s : State) (x : PartRef) : Bool :=
  match x.kind with
  | 1 => x.idx < 324
  | 2 => x.idx < 32
  | 3 => x.idx < 9
  | 4 => s.isRoofPeer x.idx
  | _ => false

/-- The engine a part names. -/
def partEngine (x : PartRef) : Option Engine :=
  let e : Option Engine := match x.kind with
    | 5 => some ⟨.tile, x.idx⟩
    | 6 => some ⟨.yealm, x.idx⟩
    | 7 => some ⟨.update, x.idx⟩
    | _ => none
  match e with
  | some e => if e.wf then some e else none
  | none => none

/-- An engine out of service is tested, and returns if it passes (R373, R383). -/
def returnEng (s : State) (e : Engine) : Result × State :=
  if (s.engOf e).state < 2 then (outcome .rightsFault, s)
  else ({}, s.modEng e (fun g => { g with state := 2, override := true, due := true, dueAt := s.now }))

/-- 0x6F00.02 (R383). -/
def overrideCommand (d : Bytes) (s : State) : Result × State :=
  let x : PartRef := ⟨field 0 1 d, field 1 2 d⟩
  match field 3 1 d with
  | 1 => if s.partExists x then ({}, if (s.healthOf x).expelled then s else s.expel x 8) else (outcome .rightsFault, s)
  | 2 => if s.partExists x then ({}, s.readmit x true 8) else (outcome .rightsFault, s)
  | 3 => if s.partExists x then ({}, s.modHealth x (fun h => { h with suspect := false })) else (outcome .rightsFault, s)
  | 4 => (match partEngine x with
    | some e => s.returnEng e
    | none => (outcome .rightsFault, s))
  | _ => (outcome .rightsFault, s)

/-! ### The lease and the halves (R384 to R388) -/

/-- Keep the winner of a half's copy of the record and another (R385). -/
def keepLease (s : State) (dest holder : Half) (seq course : Nat) : State :=
  let x := s.half dest
  let wins := x.leaseSeq < seq || (x.leaseSeq == seq && x.leaseHolder ≠ holder && holder = .west)
  if wins then s.modHalf dest (fun x => { x with leaseHolder := holder, leaseSeq := seq, leaseCourse := course }) else s

/-- The holder's record goes to the other half while the purlin is up (R385). -/
def sendLease (s : State) (from' : Half) : State :=
  let x := s.half from'
  if s.avl.purlinUp then
    (s.keepLease from'.other x.leaseHolder x.leaseSeq x.leaseCourse).emit (.lease from'.other x.leaseHolder x.leaseSeq x.leaseCourse)
  else s

/-- A pair that has halted, other than for a live update, holds start-up in its phase (R475). -/
def startupHeld (s : State) : Bool :=
  (!s.west.running || !s.east.running) && s.mgm.update != 2 && s.mgm.update != 3

/-- A half controller pair halts (R386). -/
def pairHalts (s : State) (h : Half) : State :=
  if !(s.half h).running then s
  else
    let held := s.holder = h
    let s := ((s.modHalf h (fun x => { x with running := false })).count h 0x40F0 6).gutter h 0x11 0x0B h.num 0x04 (severity := 2)
    if held then
      (s.modHalf h.other (fun x => { x with leaseHolder := h.other, leaseSeq := (s.half h).leaseSeq + 1 })).sendLease h.other
    else s

/-- A halted pair has restarted and loads the lease record from the other half; the phase it held goes on (R475). -/
def pairBack (s : State) (h : Half) : State :=
  if (s.half h).running then s
  else
    let o := s.half h.other
    let s := s.modHalf h (fun x => { x with running := true })
    let s := if s.avl.purlinUp then s.modHalf h (fun x => { x with leaseHolder := o.leaseHolder, leaseSeq := o.leaseSeq, leaseCourse := o.leaseCourse }) else s
    let s := (s.gutter h 0x11 0x0B h.num 0x0A (severity := 3)).acknowledged
    if s.phase == 8 && s.avl.tested && s.crs.first != noCourse && !s.startupHeld then { s with phase := 9 } else s

/-- A half's heartbeat (R387): it is sent, and while the purlin is up the far half hears it. -/
def heartbeat (s : State) (h : Half) : State :=
  let s := s.emit (.heartbeat h.other)
  if !s.avl.purlinUp then s
  else match h with
    | .west => { s with avl.heard := (s.avl.heard.1, s.now) }
    | .east => { s with avl.heard := (s.now, s.avl.heard.2) }

/-- Halves of a list of blocks. -/
def bothHalves (blocks : List Nat) : Bool :=
  blocks.any (fun b => offHalf (b * 4096) == .west) && blocks.any (fun b => offHalf (b * 4096) == .east)

/-- Jobs that span the halves (R387 item 3). -/
def spanningJobs (s : State) : List (Nat × Nat) :=
  let ofAcc := fun (a : Acc) => (a.q.ctx, a.q.job)
  let wait := fun (h : Half) => ((s.half h).caps ++ (s.half h).held.map (·.acc)).filter (fun a => accHalf a != h)
  let behind := s.near.behind.filter (fun a => match s.locateHere a.ga with
    | .near off => accHalf a != offHalf off
    | _ => false)
  let blocked := (s.rdg.blocked.filter (fun b => accHalf b.2.acc != offHalf b.2.off)).map (fun b => b.2.acc)
  -- requests whose packets, or whose answers, use a port of the other half
  let outs := (s.eng.outs.filter (fun o => s.acrossPurlin (accHalf o.acc) o.node)).map (·.acc)
  let flight := (wait .west ++ wait .east ++ behind ++ blocked ++ outs).map ofAcc
  let runs := fun (h : Half) => (halfEngines h).filterMap (fun e => (s.engOf e).run.map (fun w => (w.ctx, w.job, w.tag, w.issuer)))
  let shared := ((runs .west).filter (fun w => (runs .east).contains w)).map (fun w => (w.1, w.2.1))
  let groups := (s.itg.groups.filter (fun g => g.2.phase == 0 && bothHalves g.2.blocks)).map (fun g => (g.2.ctx, g.2.job))
  let heldIn := fun (h : Half) => (s.half h).held.map (fun w => ofAcc w.acc)
  let held := (heldIn .west).filter (fun j => (heldIn .east).contains j)
  (flight ++ shared ++ groups ++ held).foldl (fun l j => if j.2 == 0xFFFF then l else addOnce j l) []

/-- Moves between the halves are given up (R387 item 4). -/
def dropSplitMoves (s : State) : State :=
  let s := s.plc.moves.foldl (fun s m =>
    let to' := if m.demote then (if s.isSelf (m.page / 2 ^ 32) then some (m.page % 2 ^ 32 * 65536) else none)
      else if s.isSelf m.dest then (tget m.page s.plc.here).map (·.frame) else none
    match to' with
    | some b => if s.moveHalf m.page == offHalf b then s else s.abandonMove m
    | none => s) s
  s.ylx.moves.foldl (fun s m =>
    match tget m.t s.ylx.tables with
    | none => s
    | some t =>
        match s.locateHere (blockGa t m.b) with
        | .near a => if s.isSelf m.dest && offHalf a != offHalf m.frame then s.abandonRows m else s
        | _ => s) s

/-- The purlin is lost (R387). -/
def purlinGone (s : State) : State :=
  if !s.avl.purlinUp then s
  else
    let jobs := s.spanningJobs
    let cut := s.eng.outs.filter (fun o => s.acrossPurlin (accHalf o.acc) o.node)
    let s := ({ s with avl.purlinUp := false, avl.tries := 0 }.count .west 0x40F0 5).gutter s.holder 0x13 0x0C 0 0x04 (severity := if jobs.isEmpty then 2 else 0) (cnt := jobs.length)
    let s := s.dropSplitMoves
    let s := cut.foldl (fun s o => { s with eng.outs := s.eng.outs.filter (· ≠ o) }.lose o) s
    s.pushAll (jobs.map (fun j => Task.endJob j.1 j.2 4 none))

/-- The purlin is up again (R388): lease records are exchanged, and both halves take the greater course. -/
def purlinBack (s : State) : State :=
  if s.avl.purlinUp then s
  else
    let w := s.west
    let e := s.east
    let s := { s with avl.purlinUp := true, avl.heard := (s.now, s.now), crs.rejoined := true }.farInvalidate.acknowledged
    let s := (s.keepLease .west e.leaseHolder e.leaseSeq e.leaseCourse).keepLease .east w.leaseHolder w.leaseSeq w.leaseCourse
    if w.course == noCourse || e.course == noCourse then
      let c := if w.course == noCourse then e.course else w.course
      s.modBoth (fun x => { x with course := c })
    else
      let c := max w.course e.course
      ((s.count .west 0x4020 7 (c - w.course)).count .east 0x4020 7 (c - e.course)).modBoth (fun x => { x with course := c })

/-! ### Admission (R389 to R391) -/

/-- The ranges of an admission payload. -/
def admissionRanges (d : Bytes) : List (Nat × Nat × Nat) :=
  (List.range (field 10 1 d)).map (fun i => (field (11 + 20 * i) 8 d, field (19 + 20 * i) 8 d, field (27 + 20 * i) 4 d))

/-- Whether pages of this device lie in extents of one context (R389). -/
def oneContext (s : State) (base pages : Nat) : Bool :=
  s.spc.extents.any (fun x => x.2.state == 2 && s.grantedRange x.2.ctx base pages)

/-- 0x6F00.03 (R389). -/
def admissionCommand (d : Bytes) (s : State) : Result × State :=
  let p := field 0 2 d
  let ca := field 2 8 d
  let n := field 10 1 d
  let rs := admissionRanges d
  if n == 0 || 64 < n || rs.any (fun r => r.1 % 65536 != 0 || r.2.1 % 65536 != 0 || r.2.2 == 0) then (outcome .translationFault dValue, s)
  else if !s.isRoofPeer p || (s.node p).health.expelled || (1 ≤ s.avl.admission.st && s.avl.admission.st ≤ 3) ||
    rs.any (fun r => !s.oneContext r.2.1 r.2.2) then (outcome .rightsFault, s)
  else
    let c := s.course
    let eff := if c == noCourse then ca else max ca (c + 2)
    let s := ({ s with avl.admission := { st := 1, partner := p, course := eff, ranges := rs } }.dropEvents [.west, .east] isAdmission).addEvent (.admission eff)
    let s := (halfEngines .west ++ halfEngines .east).foldl (fun s e =>
      s.modEng e (fun g => if g.state == 0 then { g with due := true, forced := true, dueAt := if g.due then g.dueAt else s.now } else g)) s
    ({ data := le 8 eff }, s)

/-- An admission has failed (R390). -/
def admissionFails (s : State) : State :=
  ({ s with avl.admission := { s.avl.admission with st := 5 } }.dropEvents [.west, .east] isAdmission).gutter s.holder 0 0x04 s.avl.admission.partner 0x09 (severity := 3)

/-- The forced tests and clean courses are over (R390): the ranges are loaded page by page. -/
def admissionTested (s : State) (pass : Bool) : State :=
  let a := s.avl.admission
  if a.st != 1 then s
  else if !pass then s.admissionFails
  else
    let s := { s with avl.admission := { a with st := 2 } }
    (a.ranges.zipIdx).foldl (fun s r =>
      (List.range r.1.2.2).foldl (fun s k =>
        s.devGet (offHalf (r.1.2.1 + k * 65536)) a.partner (mkGa a.partner (r.1.1 + k * 65536)) 16 (.load r.2)) s) s

/-- Whether something has undone an admission before its switch (R391). -/
def admissionBroken (s : State) : Bool :=
  let a := s.avl.admission
  a.ranges.any (fun r => r.2.2 != 0 && !s.oneContext r.2.1 r.2.2) || (s.node a.partner).health.expelled || s.wayTo a.partner == Way.unreachable

/-- Loading is over (R390). -/
def admissionLoaded (s : State) (ok : Bool) : State :=
  let a := s.avl.admission
  let waiting := s.eng.outs.any (fun o => match o.acc.org with
    | .load _ => true
    | _ => false) || s.eng.retries.any (fun x => match x.org with
    | .load _ => true
    | _ => false)
  if a.st != 2 || (ok && waiting) then s
  else if !ok || s.admissionBroken then s.admissionFails
  else { s with avl.admission := { a with st := 3 } }

end State

/-- Scrub takes the next block of a stack (R362). -/
def execScrub (dt : Nat) (s : Nat) (errs : List StackError) (st : State) : Host.Outcome State Fault Refusal :=
  act (.scrub dt s errs) dt st (fun t => t.scrubBlock s errs)

/-- A half's ridge scrubs its directory (R362, R365). -/
def execDirectoryScrub (dt : Nat) (h : Half) (bad : List Nat) (s : State) : Host.Outcome State Fault Refusal :=
  act (.directoryScrub dt h bad) dt s (fun s => bad.foldl (fun s l => s.entryError h l) s)

/-- A channel fails (R363, R364). -/
def execChannelFailure (dt : Nat) (s ch : Nat) (unreadable : List Nat) (st : State) : Host.Outcome State Fault Refusal :=
  act (.channelFailure dt s ch unreadable) dt st (fun t => t.channelFails s ch unreadable)

/-- A channel's copy to the spare ends (R363). -/
def execSpareCopyComplete (dt : Nat) (s : Nat) (unreadable : List Nat) (st : State) : Host.Outcome State Fault Refusal :=
  act (.spareCopyComplete dt s unreadable) dt st (fun t => t.spareCopied s unreadable)

/-- An engine's test falls due (R368). -/
def execFieldTestDue (dt : Nat) (e : Engine) (s : State) : Host.Outcome State Fault Refusal :=
  act (.fieldTestDue dt e) dt s (fun s => s.testDue e)

/-- A due test is forced (R368, R370). -/
def execFieldTestForced (dt : Nat) (e : Engine) (s : State) : Host.Outcome State Fault Refusal :=
  act (.fieldTestForced dt e) dt s (fun s => s.testForced e)

/-- A dormer slot (R369). -/
def execDormerSlot (dt : Nat) (e : Engine) (s : State) : Host.Outcome State Fault Refusal :=
  act (.dormerSlot dt e) dt s (fun s => s.dormer e)

/-- A field test ends (R366, R372, R373). -/
def execFieldTestComplete (dt : Nat) (e : Engine) (pass : Bool) (step sig : Nat) (s : State) :
    Host.Outcome State Fault Refusal :=
  act (.fieldTestComplete dt e pass step sig) dt s (fun s => s.testDone e pass step sig)

/-- 0x6F00.01 (R371). -/
def execFieldTestRequest (dt : Nat) (p : Pdu) (s : State) : Host.Outcome State Fault Refusal :=
  act (.fieldTestRequest dt p) dt s (fun s => s.dictWrite p 0x6F00 1 State.testCommand)

/-- The probes of a half controller (R377). -/
def execPeerProbe (dt : Nat) (h : Half) (s : State) : Host.Outcome State Fault Refusal :=
  act (.peerProbe dt h) dt s (fun s => s.probeAll h)

/-- A probe is unanswered (R377). -/
def execProbeTimeout (dt : Nat) (h : Half) (node : Nat) (s : State) : Host.Outcome State Fault Refusal :=
  act (.probeTimeout dt h node) dt s (fun s => s.probeLate h node)

/-- A request to a peer is unanswered (R377). -/
def execRequestUnanswered (dt : Nat) (sid tag : Nat) (s : State) : Host.Outcome State Fault Refusal :=
  act (.requestUnanswered dt sid tag) dt s (fun s => s.requestLate sid tag)

/-- A peer is silent (R378). -/
def execPeerSilence (dt : Nat) (node : Nat) (s : State) : Host.Outcome State Fault Refusal :=
  act (.peerSilence dt node) dt s (fun s => s.peerSilent node)

/-- 0x6F00.02, action 0x01 (R383). -/
def execExpelNow (dt : Nat) (p : Pdu) (s : State) : Host.Outcome State Fault Refusal :=
  act (.expelNow dt p) dt s (fun s => s.dictWrite p 0x6F00 2 State.overrideCommand)

/-- 0x6F00.02, action 0x02 (R383). -/
def execReadmitNow (dt : Nat) (p : Pdu) (s : State) : Host.Outcome State Fault Refusal :=
  act (.readmitNow dt p) dt s (fun s => s.dictWrite p 0x6F00 2 State.overrideCommand)

/-- 0x6F00.02, action 0x03 (R383). -/
def execClearSuspect (dt : Nat) (p : Pdu) (s : State) : Host.Outcome State Fault Refusal :=
  act (.clearSuspect dt p) dt s (fun s => s.dictWrite p 0x6F00 2 State.overrideCommand)

/-- 0x6F00.02, action 0x04 (R373, R383). -/
def execReturnEngine (dt : Nat) (p : Pdu) (s : State) : Host.Outcome State Fault Refusal :=
  act (.returnEngine dt p) dt s (fun s => s.dictWrite p 0x6F00 2 State.overrideCommand)

/-- A lease record arrives over the purlin (R385). -/
def execLeaseRecord (dt : Nat) (dest holder : Half) (seq course : Nat) (s : State) : Host.Outcome State Fault Refusal :=
  act (.leaseRecord dt dest holder seq course) dt s (fun s => s.keepLease dest holder seq course)

/-- A half controller pair mismatches (R386). -/
def execLockstepMismatch (dt : Nat) (h : Half) (s : State) : Host.Outcome State Fault Refusal :=
  act (.lockstepMismatch dt h) dt s (fun s => s.pairHalts h)

/-- A halted pair has restarted (R386). -/
def execHalfControllerRestarted (dt : Nat) (h : Half) (s : State) : Host.Outcome State Fault Refusal :=
  act (.halfControllerRestarted dt h) dt s (fun s => s.pairBack h)

/-- A heartbeat (R387). -/
def execPurlinHeartbeat (dt : Nat) (h : Half) (s : State) : Host.Outcome State Fault Refusal :=
  act (.purlinHeartbeat dt h) dt s (fun s => s.heartbeat h)

/-- The purlin is lost (R387). -/
def execPurlinLost (dt : Nat) (s : State) : Host.Outcome State Fault Refusal :=
  act (.purlinLost dt) dt s (fun s => s.purlinGone)

/-- The purlin retrains while it is lost (R388). -/
def execPurlinRetrain (dt : Nat) (s : State) : Host.Outcome State Fault Refusal :=
  act (.purlinRetrain dt) dt s (fun s => if s.avl.purlinUp then s else { s with avl.tries := s.avl.tries + 1 })

/-- The purlin is up again (R388). -/
def execPurlinRejoin (dt : Nat) (s : State) : Host.Outcome State Fault Refusal :=
  act (.purlinRejoin dt) dt s (fun s => s.purlinBack)

/-- 0x6F00.03 (R389). -/
def execAdmission (dt : Nat) (p : Pdu) (s : State) : Host.Outcome State Fault Refusal :=
  act (.admission dt p) dt s (fun s => s.dictWrite p 0x6F00 3 State.admissionCommand)

/-- The tests of an admission are over (R390). -/
def execAdmissionTestingDone (dt : Nat) (pass : Bool) (s : State) : Host.Outcome State Fault Refusal :=
  act (.admissionTestingDone dt pass) dt s (fun s => s.admissionTested pass)

/-- The loading of an admission is over (R390). -/
def execAdmissionLoadingDone (dt : Nat) (ok : Bool) (s : State) : Host.Outcome State Fault Refusal :=
  act (.admissionLoadingDone dt ok) dt s (fun s => s.admissionLoaded ok)

end Sys2Proof.Machine
end

