-- ==== Sys2Proof/Machine/Slate.lean ====
section
/-! DEFINITION. Slates (R443 to R450): records and headers, edits of the inactive slate, activation, and what a new
slate changes in the device at once. -/

namespace Sys2Proof.Machine

/-! ### Records and headers (R443 to R445) -/

/-- Put a record in its place by index and subindex. -/
def recPut (k : Nat × Nat) (v : Bytes) : Tbl (Nat × Nat) Bytes → Tbl (Nat × Nat) Bytes
  | [] => [(k, v)]
  | (j, w) :: t =>
      if j = k then (k, v) :: t
      else if k.1 < j.1 || (k.1 == j.1 && k.2 < j.2) then (k, v) :: (j, w) :: t
      else (j, w) :: recPut k v t

/-- Bytes that fill a value to a multiple of 8. -/
def padTo8 (n : Nat) : Nat := (8 - n % 8) % 8

/-- One record as the body holds it. -/
def recBytes (r : (Nat × Nat) × Bytes) : Bytes :=
  let code := match findObj slated r.1.1 r.1.2 with
    | some o => o.ty.code
    | none => 0
  le 2 r.1.1 ++ le 1 r.1.2 ++ le 1 code ++ le 2 r.2.length ++ zeros 2 ++ r.2 ++ zeros (padTo8 r.2.length)

def slateBody (recs : Tbl (Nat × Nat) Bytes) : Bytes := (recs.map recBytes).flatten

/-- Bytes of a body, without writing it out. -/
def bodySize (recs : Tbl (Nat × Nat) Bytes) : Nat :=
  recs.foldl (fun n r => n + 8 + r.2.length + padTo8 r.2.length) 0

def bodyLimit : Nat := 1048512

/-- Bytes 0 to 23 of a header. -/
def hdrHead (which seq course len : Nat) : Bytes :=
  ascii "YXSL" ++ le 2 0x0100 ++ le 1 which ++ zeros 1 ++ le 4 seq ++ le 4 len ++ le 8 course

/-- The slate key (R407). -/
def slateKey : Bytes := hmac384 Config.uds (ascii "BGYX3SLT")

/-- The header the enclave writes over a body (R444). -/
def makeHdr (which seq course : Nat) (recs : Tbl (Nat × Nat) Bytes) : SlateHdr :=
  let body := slateBody recs
  let head := hdrHead which seq course body.length
  let crc := crc32c (head ++ body)
  { seq := seq, course := course, crc := crc, tag := tag256 slateKey (head ++ le 4 crc.toNat ++ zeros 4 ++ body), bodyLen := body.length }

/-- Whether a slate passes its check (R443). -/
def slateValid (which : Nat) (x : SlateReg) : Bool :=
  x.written && (match x.hdr with
  | some h => h = makeHdr which h.seq h.course x.recs
  | none => false)

/-- Whether a record names an object the firmware defines, with a length it accepts (R445). -/
def recordKnown (r : (Nat × Nat) × Bytes) : Bool :=
  0x2000 ≤ r.1.1 && r.1.1 ≤ 0x2EFF && (match findObj slated r.1.1 r.1.2 with
  | some o => r.2.length == (if o.ty.len == 0 then 16 else o.ty.len)
  | none => false)

/-! ### Values of slated objects -/

/-- Bits of a slated number that are not reserved (R8). -/
def slateMask (index sub v : Nat) : Nat :=
  match index, sub with
  | 0x2010, 1 | 0x2011, 1 | 0x2070, 1 | 0x2090, 1 | 0x20A0, 1 | 0x20E0, 1 => v % 4
  | 0x2080, 1 => v % 8
  | 0x20B0, 2 => v % 2
  | 0x20D0, 1 | 0x20F0, 1 => v % 16
  | _, _ =>
      if 0x2100 ≤ index && index ≤ 0x217F then
        if v % 8 == 3 then v % 8 + v / 2 ^ 8 % 2 ^ 14 * 2 ^ 8
        else v % 8 + v / 2 ^ 8 % 32 * 2 ^ 8 + v / 2 ^ 16 % 64 * 2 ^ 16
      else v

/-- Values outside those an object defines, where the object does not say how they are used (R439). -/
def slateValueBad (index sub v : Nat) : Bool :=
  match index, sub with
  | 0x2000, _ => 0x3FFF < v
  | 0x2060, _ => 0x3FFF < v
  | 0x2074, _ => 0x3FF < v
  | 0x20F0, 5 => v < 16 || 1024 < v
  | _, _ => false

/-- A value as it is stored. -/
def slateValue (index sub : Nat) (d : Bytes) : Bytes := if d.length ≤ 8 then le d.length (slateMask index sub (ofLe d)) else d

/-- The default of an object as bytes. -/
def defaultBytes (index sub : Nat) : Bytes :=
  match findObj slated index sub with
  | some o => if o.ty.len == 0 then zeros 16 else le o.ty.len o.dflt
  | none => []

namespace State

def slateReg (s : State) (i : Nat) : SlateReg := if i == 0 then s.slt.a else s.slt.b

def setSlateReg (s : State) (i : Nat) (x : SlateReg) : State :=
  if i == 0 then { s with slt.a := x } else { s with slt.b := x }

def inactiveSlate (s : State) : Nat := 1 - s.slt.active

/-- Records of the active slate; A counts as active with none while no slate has been loaded (R449). -/
def activeRecs (s : State) : Tbl (Nat × Nat) Bytes :=
  if bitOf s.slt.report 3 && s.slt.active == 0 && s.slt.seq == 0 then [] else (s.slateReg s.slt.active).recs

/-! ### Edits (R446) -/

/-- Records with one edit applied; an object's default has none (R445). -/
def editRecs (recs : Tbl (Nat × Nat) Bytes) (index sub : Nat) (v : Bytes) : Tbl (Nat × Nat) Bytes :=
  if v = defaultBytes index sub then tdel (index, sub) recs else recPut (index, sub) v recs

/-- A write of a slated object: the first opens the inactive slate (R446). -/
def slateWrite (index sub : Nat) (d : Bytes) (s : State) : Result × State :=
  if d.length ≤ 8 && slateValueBad index sub (ofLe d) then (outcome .translationFault dValue, s)
  else
    let i := s.inactiveSlate
    let base := if s.slt.openSeq.isSome then (s.slateReg i).recs else s.activeRecs
    let recs := editRecs base index sub (slateValue index sub d)
    if bodyLimit < bodySize recs then (outcome .quotaExceeded, s)
    else
      let s := s.setSlateReg i { written := true, hdr := none, recs := recs }
      ({}, { s with slt.openSeq := some (s.slt.openSeq.getD ((s.slt.seq + 1) % 2 ^ 32)) })

/-! ### What a new slate changes at once (R39 step 5) -/

/-- A port whose role has become Off: its link is dark, its lanes are Off, and what waited for it is routed again. -/
def portOff (s : State) (p : Nat) : State :=
  let late := ((s.port p).link.unacked.map (·.carries)).flatten
  let s := s.modPort p (fun t => { t with link := {}, credits := [0, 0, 0, 0], owed := 0, farValid := false, farNode := 0x3FFF, farRole := 0, mismatch := false, relay := false, draining := false, drained := false, queue := late ++ t.queue })
  let s := (linkLanes (.port p)).foldl (fun s n => s.modLane n (fun x => { x with st := 0, logical := 0x1F, step := 0 })) s
  (s.agentsDie (fun _ a => a.port == some p)).reroute p

/-- A port that leaves Off trains; its expelled lanes stay out (R346, R348). -/
def portOn (s : State) (p : Nat) : State :=
  let s := (linkLanes (.port p)).foldl (fun s n => s.modLane n (fun x => if x.health.expelled then { x with st := 5 } else x)) s
  s.startTraining (.port p)

/-- Nodes with requests outstanding whose route a change of slate has changed (R320). -/
def routesChanged (old s : State) : State :=
  let nodes := (s.eng.outs.filter (·.sent)).foldl (fun l o => addOnce o.node l) s.fab.changed
  { s with fab.changed := nodes.filter (fun n => s.fab.changed.contains n || old.finalEntry n != s.finalEntry n) }

/-- Ports whose role a change of slate moves to or from Off. -/
def rolesChanged (s : State) (was : List Nat) : State :=
  let s := (List.range 32).foldl (fun s p =>
    if was.getD p 0 != 0 && s.roleOf p == 0 then s.portOff p
    else if was.getD p 0 == 0 && s.roleOf p != 0 then s.portOn p else s) s
  s.rerouteAll

/-- Give halves other slate values, with what they change at once; from course s on it happens at an edge, an event of
each half (R465). -/
def putSlate (s : State) (hs : List Half) (recs : Tbl (Nat × Nat) Bytes) : State :=
  let was := (List.range 32).map s.roleOf
  let t := hs.foldl (fun (t : State) h =>
    let t := t.modHalf h (fun x => { x with slate := recs })
    if s.crs.first == noCourse then t else t.raiseEvt h 3) s
  -- an agent whose entry node can no longer be reached is dead (R255, R323)
  ((routesChanged s t).rolesChanged was).agentsDie (fun _ a => (a.state == 1 || a.state == 2) && !t.isSelf a.node && t.wayTo a.node = .unreachable)

/-- Records of the inactive slate that name objects the firmware defines. -/
def pendingRecs (s : State) : Tbl (Nat × Nat) Bytes := (s.slateReg s.inactiveSlate).recs.filter recordKnown

/-- New values in effect: in both halves, or while the purlin is lost in the half that holds the lease (R447, R450). -/
def slateTakes (s : State) (course : Nat) : State :=
  { s with slt.writing := some course, slt.scheduled := none }.putSlate (if s.avl.purlinUp then [.west, .east] else [s.holder]) s.pendingRecs

/-! ### Slate control (R446 to R448) -/

/-- 0x2F01.02 (R447). -/
def slateActivateCmd (d : Bytes) (s : State) : Result × State :=
  if s.slt.openSeq.isNone || s.slt.writing.isSome then (outcome .rightsFault, s)
  else
    let c := s.course
    if c == noCourse then
      ({ data := le 8 noCourse }, s.slateTakes noCourse)
    else
      let eff := max (field 0 8 d) (c + 2)
      ({ data := le 8 eff }, { s with slt.scheduled := some eff }.addEvent (.slate eff))

/-- 0x2F01.03 (R446, R447). -/
def slateDiscardCmd (_ : Bytes) (s : State) : Result × State :=
  match s.slt.scheduled with
  | some eff =>
      if eff < s.course + 2 then (outcome .rightsFault, s)
      else
        ({}, { s with slt.openSeq := none, slt.scheduled := none }.dropEvents [.west, .east] (· = Ev.slate eff))
  | none =>
      if s.slt.openSeq.isNone || s.slt.writing.isSome then (outcome .rightsFault, s)
      else ({}, { s with slt.openSeq := none })

/-- The header of the slate in effect is written: it is the active slate now (R444, R447). -/
def headerWritten (s : State) : State :=
  match s.slt.writing, s.slt.openSeq with
  | some course, some q =>
      let i := s.inactiveSlate
      let x := s.slateReg i
      let s := s.setSlateReg i { x with hdr := some (makeHdr i q course x.recs) }
      { s with slt.active := i, slt.seq := q, slt.openSeq := none, slt.writing := none }
  | _, _ => s

/-- The records of the slate in effect. -/
def slateInEffect (s : State) : Tbl (Nat × Nat) Bytes := (s.half s.holder).slate

/-- A slated value in effect, as an object's bytes. -/
def effectBytes (s : State) (index sub : Nat) : Bytes := (s.slateBytes s.holder index sub).getD (defaultBytes index sub)

/-- A slated value pending: the open slate's, or the value in effect (R448). -/
def pendingBytes (s : State) (index sub : Nat) : Bytes :=
  if s.slt.openSeq.isSome then (tget (index, sub) (s.slateReg s.inactiveSlate).recs).getD (defaultBytes index sub)
  else s.effectBytes index sub

/-- Code of 0x2F00.03 (R448). -/
def slateCode (s : State) : Nat :=
  let x := s.slateReg s.inactiveSlate
  if s.slt.writing.isSome then 5
  else if s.slt.scheduled.isSome then 4
  else if s.slt.openSeq.isSome then 3
  else if !x.written then 0
  else if slateValid s.inactiveSlate x then 1 else 2

/-! ### Selection at start-up (R449) -/

/-- The slate that start-up loads, if any. -/
def slateChosen (a b : SlateReg) : Option Nat :=
  match slateValid 0 a, slateValid 1 b with
  | true, true =>
      let x := match a.hdr with
        | some h => h.seq
        | none => 0
      let y := match b.hdr with
        | some h => h.seq
        | none => 0
      if x == (y + 1) % 2 ^ 32 then some 0
      else if y == (x + 1) % 2 ^ 32 then some 1
      else if x < y then some 1 else some 0
  | true, false => some 0
  | false, true => some 1
  | false, false => none

/-- Load one slate, or defaults (R445, R449). -/
def loadSlate (s : State) : State :=
  let va := slateValid 0 s.slt.a
  let vb := slateValid 1 s.slt.b
  let failed := (s.slt.a.written && !va) || (s.slt.b.written && !vb)
  let chosen := slateChosen s.slt.a s.slt.b
  let report := ofBool va + 2 * ofBool vb + 4 * ofBool failed + 8 * ofBool chosen.isNone
  let (i, q, recs) : Nat × Nat × Tbl (Nat × Nat) Bytes := match chosen with
    | some i => (i, ((s.slateReg i).hdr.map (·.seq)).getD 0, (s.slateReg i).recs)
    | none => (0, 0, [])
  { s with slt.active := i, slt.seq := q, slt.openSeq := none, slt.scheduled := none, slt.writing := none, slt.report := report,
           slt.ignored := (recs.filter (fun r => !recordKnown r)).length }.modBoth (fun x => { x with slate := recs.filter recordKnown })

end State

/-- 0x2F01.02 (R447). -/
def execSlateActivate (dt : Nat) (p : Pdu) (s : State) : Host.Outcome State Fault Refusal :=
  act (.slateActivate dt p) dt s (fun s => s.dictWrite p 0x2F01 2 State.slateActivateCmd)

/-- 0x2F01.03 (R446). -/
def execSlateDiscard (dt : Nat) (p : Pdu) (s : State) : Host.Outcome State Fault Refusal :=
  act (.slateDiscard dt p) dt s (fun s => s.dictWrite p 0x2F01 3 State.slateDiscardCmd)

/-- The enclave has written the header (R447). -/
def execSlateHeaderWritten (dt : Nat) (s : State) : Host.Outcome State Fault Refusal :=
  act (.slateHeaderWritten dt) dt s (fun s => s.headerWritten)

end Sys2Proof.Machine
end

