-- ==== Sys2Proof/Machine/Enclave.lean ====
section
/-! DEFINITION. The security enclave: images, boot and restart (R400 to R407), attestation (R409 to R411), keys and
ownership (R418, R419), debug (R421), self-tests (R423), and live update (R451 to R453). -/

namespace Sys2Proof.Machine

/-! ### Images (R403, R404) -/

/-- The byte of a bank at an offset: the newest segment that covers it. -/
def bankSlice (x : Bank) (off n : Nat) : Bytes :=
  let base := zeros n
  x.image.foldl (fun (v : Bytes) seg =>
    let (o, d) := seg
    v.mapIdx (fun i b => if o ≤ off + i && off + i < o + d.length then d.getD (off + i - o) b else b)) base

/-- A field of an image's header. -/
def hdrField (x : Bank) (off w : Nat) : Nat := ofLe (bankSlice x off w)

def imageKeySet (x : Bank) : Nat := hdrField x 6 1
def imageApproved (x : Bank) : Bool := bitOf (hdrField x 7 1) 0
def imageVersion (x : Bank) : Nat := hdrField x 8 4
def imageSvn (x : Bank) : Nat := hdrField x 12 2
def imageRevokes (x : Bank) : Nat := hdrField x 14 1 % 16
def imageLength (x : Bank) : Nat := hdrField x 16 4

def imagePayload (x : Bank) : Bytes := bankSlice x 1536 (min (imageLength x) 33552896)

/-- The device's stepping (R2). -/
def stepping : Nat := 0x20

/-- The seven checks of R404. -/
def imageOk (f : Fuses) (x : Bank) : Bool :=
  bankSlice x 0 4 = ascii "YXFW" && hdrField x 4 2 == 0x0100 &&
  imageKeySet x < 4 && !bitOf f.revoke (imageKeySet x) && Config.vendorKeys (imageKeySet x) = sha384 (bankSlice x 72 144) &&
  Config.ecdsaOk (bankSlice x 72 96) (bankSlice x 0 216) (bankSlice x 216 96) &&
  Config.lmsOk (bankSlice x 168 48) (bankSlice x 0 216) (bankSlice x 312 1140) &&
  1 ≤ imageLength x && imageLength x ≤ 33552896 && sha384 (imagePayload x) = bankSlice x 24 48 &&
  f.minSvn ≤ imageSvn x &&
  (hdrField x 15 1 == 0 || hdrField x 15 1 == stepping)

namespace State

def bank (s : State) (i : Nat) : Bank := if i == 0 then s.enc.banks.1 else s.enc.banks.2

def setBank (s : State) (i : Nat) (x : Bank) : State :=
  if i == 0 then { s with enc.banks := (x, s.enc.banks.2) } else { s with enc.banks := (s.enc.banks.1, x) }

def inactiveBank (s : State) : Nat := 1 - s.enc.active

/-! ### Boot and restart (R400, R405, R407, R416, R423) -/

/-- The Alias key is derived again, the old one erased first (R407). -/
def newAlias (s : State) : State := { s with enc.aliasGen := s.enc.aliasGen + 1 }

/-- The first bank that verifies, the active one first (R405). -/
def bootBank (s : State) : Option Nat :=
  if imageOk s.fuse (s.bank s.enc.active) then some s.enc.active
  else if imageOk s.fuse (s.bank s.inactiveBank) then some s.inactiveBank
  else none

/-- The enclave runs the image of a bank: counters and LMS leaves resume at their reservations (R411, R416). -/
def runBank (s : State) (i : Nat) : State :=
  let x := s.bank i
  let s := s.setBank i { x with verified := true }
  let slots := s.enc.slots.map (fun k => (k.1, { k.2 with last := k.2.reserved }))
  { s with enc.st := 1, enc.active := i, enc.version := imageVersion x, enc.svn := imageSvn x,
           enc.approvedBuild := imageApproved x, enc.testsOk := true, enc.slots := slots, enc.lmsNext := s.enc.lmsReserved }.newAlias

/-- Boot at power-up or reset: debug level 0, no slot throttled (R405, R423, R426). -/
def enclaveBoots (s : State) (pass : Bool) : State :=
  if s.phase != 2 then s
  else if !pass then { s with enc.st := 2, enc.testsOk := false, enc.debug := 0, phase := 0xF1 }
  else
    let clear := fun (k : Nat × Slot) => (k.1, { k.2 with fails := 0, throttle := none })
    let s := { s with enc.debug := 0, enc.slots := s.enc.slots.map clear }
    let s := (s.setBank 0 { s.bank 0 with verified := false }).setBank 1 { s.bank 1 with verified := false }
    match s.bootBank with
    | some i => { s.runBank i with phase := 3 }
    | none => { s with enc.st := 4, enc.testsOk := true, phase := 0xF0 }

/-- A lockstep mismatch halts the enclave (R400); only power-up or reset leaves its error state (R423). -/
def enclaveHalts (s : State) : State :=
  if s.enc.st == 2 then s
  else
    let s := s.gutter .west 0x12 0x0D 0 0x0A (severity := 2)
    if s.enc.st == 0 then s else { s with enc.st := 3 }.count .west 0x5000 0xE

/-- The enclave has restarted and verified its firmware again (R400). -/
def enclaveBack (s : State) (pass : Bool) : State :=
  if s.enc.st != 3 || (s.mgm.update == 4 && pass) then s
  else if !pass then { s with enc.st := 2, enc.testsOk := false }
  else match s.bootBank with
    | some i =>
        let s := s.runBank i
        if s.phase == 0xF0 then { s with phase := 3 } else s
    | none => { s with enc.st := 4 }

/-- A self-test has failed: error state until power-up or reset (R423). A device that is booting stops. -/
def enclaveFails (s : State) : State :=
  let s := { s with enc.st := 2, enc.testsOk := false }
  if s.phase == 2 || s.phase == 0xF0 then { s with phase := 0xF1 } else s

/-- Approved mode (R424). -/
def approved (s : State) : Bool := s.enc.approvedBuild && s.owned && s.enc.debug == 0 && s.enc.st == 1 && s.enc.testsOk

/-! ### Image commands (R406, R482) -/

/-- 0x5300.01. -/
def segmentCmd (d : Bytes) (s : State) : Result × State :=
  let off := field 0 4 d
  let data := d.drop 4
  if s.enc.st == 3 then (outcome .retry, s)
  else if off % 4096 != 0 || 2 ^ 25 < off + data.length then (outcome .translationFault dValue, s)
  else
    let i := s.inactiveBank
    let x := s.bank i
    ({}, s.setBank i { image := (x.image.filter (fun g => !(g.1 == off && g.2.length ≤ data.length))) ++ [(off, data)], verified := false })

/-- 0x5300.02; in recovery the verified bank becomes active and the enclave boots it (R482). -/
def verifyCmd (_ : Bytes) (s : State) : Result × State :=
  let i := s.inactiveBank
  let x := s.bank i
  if s.enc.st == 3 then (outcome .retry, s)
  else if !imageOk s.fuse x then (outcome .authFailed, s.setBank i { x with verified := false })
  else
    let r : Result := { data := le 4 (imageVersion x) ++ le 2 (imageSvn x) }
    if s.enc.st == 4 then (r, { s.runBank i with phase := if s.phase == 0xF0 then 3 else s.phase })
    else (r, s.setBank i { x with verified := true })

/-- 0x5300.03 (R406, R451). -/
def activateCmd (d : Bytes) (s : State) : Result × State :=
  let x := s.bank s.inactiveBank
  if !x.verified || !imageOk s.fuse x then (outcome .authFailed, s)
  else if s.enc.version < Config.imageBeside (imagePayload x) then (outcome .rightsFault, s)
  else if 1 ≤ s.mgm.update && s.mgm.update ≤ 4 then (outcome .retry, s)
  else
    let eff := max (field 0 8 d) (s.course + 2)
    ({ data := le 8 eff }, { s with mgm.update := 1, mgm.oldBank := some s.enc.active }.addEvent (.firmware eff))

/-- 0x5300.04. -/
def commitSvnCmd (_ : Bytes) (s : State) : Result × State :=
  let v := max s.fuse.minSvn s.enc.svn
  ({ data := le 2 v }, { s with fuse := { s.fuse with minSvn := v } })

/-! ### Live update (R452, R453) -/

/-- The edge of a scheduled firmware activation: the pair without the lease restarts. -/
def updateStarts (s : State) : State :=
  if s.mgm.update != 1 then s
  else { s with mgm.update := 2 }.modHalf s.holder.other (fun x => { x with running := false, ctlMem := [] })

/-- A part does not run the new firmware: the old bank stays active, and the parts already switched restart on it
(R453). -/
def updateReverts (s : State) : State :=
  let h := s.holder
  match s.mgm.update with
  | 2 | 3 => { s with mgm.update := 6, mgm.oldBank := none }.gutter h 0x11 0x0B h.other.num 0x0A (severity := 3)
  | 4 => { s with mgm.update := 6, mgm.oldBank := none, enc.active := s.mgm.oldBank.getD s.enc.active }.gutter .west 0x12 0x0D 0 0x0A (severity := 3)
  | _ => s

/-- A stage is done, and the next begins; an enclave whose ROM falls back to the old bank reverts the update (R453). -/
def stageDone (s : State) : State :=
  let h := s.holder
  match s.mgm.update with
  | 2 =>
      -- the restarted half takes the lease, and the other pair restarts
      let q := (s.half h).leaseSeq + 1
      let s := s.modHalf h.other (fun x => { x with running := true, leaseHolder := h.other, leaseSeq := q, leaseCourse := (s.half h).leaseCourse })
      let s := s.sendLease h.other
      { s with mgm.update := 3 }.modHalf h (fun x => { x with running := false, ctlMem := [] })
  | 3 =>
      let s := s.modHalf h.other (fun x => { x with running := true })
      { s with mgm.update := 4, enc.st := if s.enc.st == 1 then 3 else s.enc.st, enc.active := s.inactiveBank }.count .west 0x5000 0xE
  | 4 =>
      let x := s.bank s.enc.active
      if s.enc.st != 3 then s
      else if !imageOk s.fuse x then s.updateReverts
      else
        let burn := imageRevokes x &&& (15 - 2 ^ imageKeySet x)
        let s := s.runBank s.enc.active
        let old := s.bank s.inactiveBank
        let s := s.setBank s.inactiveBank { old with verified := imageOk s.fuse old }
        { s with mgm.update := 5, mgm.oldBank := none, fuse := { s.fuse with revoke := s.fuse.revoke ||| burn } }
  | _ => s

/-! ### Attestation (R409 to R411) -/

/-- SPDM is answered from the end of phase 0x02, outside recovery and enclave error (R483). -/
def spdmHeard (s : State) : Bool := 3 ≤ s.phase && s.phase ≤ 0xA && s.enc.st != 4

/-- Response codes of SPDM 1.3, and its ERROR. -/
def spdmSend (s : State) (eid code param : Nat) (data : Bytes) : State := s.emit (.spdm eid code param data)
def spdmError (s : State) (eid err : Nat) : State := s.spdmSend eid 0x7F err []

/-- A request over MCTP: counted, silent before the enclave runs, Busy while it restarts (R400, R409). -/
def spdm (s : State) (eid : Nat) (f : State → State) : State :=
  if !s.spdmHeard then s
  else
    let s := s.count .west 0x1102 3
    if s.enc.st == 3 then s.spdmError eid 0x03 else f s

/-- Leaves of the LMS key (R411). -/
def lmsLeaves : Nat := 2 ^ 20

/-- Take a leaf, reserving the next block of 256 first when it begins one. -/
def takeLeaf (s : State) : Option (Nat × State) :=
  if lmsLeaves ≤ s.enc.lmsNext then none
  else
    let r := if s.enc.lmsReserved ≤ s.enc.lmsNext then s.enc.lmsNext + 256 else s.enc.lmsReserved
    some (s.enc.lmsNext, { s with enc.lmsNext := s.enc.lmsNext + 1, enc.lmsReserved := r })

/-- A signed response carries both signatures over the same message (R411); in error state, or with no leaf left, it is
ERROR Unspecified. -/
def spdmSigned (s : State) (eid code param : Nat) (body nonce : Bytes) : State :=
  if s.enc.st != 1 then s.spdmError eid 0x05
  else match s.takeLeaf with
    | none => s.spdmError eid 0x05
    | some (q, s) =>
        s.spdmSend eid code param (body ++ Config.ecdsaSign s.enc.aliasGen (body ++ nonce) ++ Config.lmsSign q (body ++ nonce))

/-- Type and contents of a measurement block (R410). -/
def measure (s : State) (i : Nat) : Nat × Bytes :=
  let part := fun (k : Nat) => sha384 (Config.payloadPart k (imagePayload (s.bank s.enc.active)))
  match i with
  | 1 => (0, Config.romDigest)
  | 2 => (1, part 1)
  | 3 => (1, part 2)
  | 4 => (1, part 3)
  | 5 => (3, sha384 (slateBody s.slateInEffect))
  | _ => (0x83, le 4 s.enc.version ++ le 2 s.enc.svn ++ le 2 s.fuse.minSvn ++ le 1 s.enc.debug ++ le 1 (ofBool s.owned) ++
      le 1 (ofBool s.approved) ++ le 1 (s.fuse.revoke % 16) ++ zeros 4)

/-- A block as SPDM lays it out. -/
def measureBlock (s : State) (i : Nat) : Bytes :=
  let (t, v) := s.measure i
  le 1 i ++ le 1 1 ++ le 2 (v.length + 3) ++ le 1 t ++ le 2 v.length ++ v

/-- GET_MEASUREMENTS: 0 asks for their number, 0xFF for all, else for one (R410). -/
def measurements (s : State) (eid op : Nat) (signed : Bool) (nonce : Bytes) : State :=
  if op != 0xFF && 6 < op then s.spdmError eid 0x07
  else
    let body := if op == 0 then [] else if op == 0xFF then (([1, 2, 3, 4, 5, 6] : List Nat).map (fun i => s.measureBlock i)).flatten else s.measureBlock op
    let n := if op == 0 then 6 else 0
    if signed then s.spdmSigned eid 0x60 n body nonce else s.spdmSend eid 0x60 n body

/-! ### Keys, ownership, debug, tests (R418, R419, R421, R423) -/

/-- 0x5200.01. -/
def installCmd (d : Bytes) (s : State) : Result × State :=
  let k := field 0 1 d
  let scope := field 1 1 d % 128
  if scope == 0 then (outcome .authFailed, s)
  else match Config.unwrapKey (slice 4 96 d) (slice 100 56 d) with
    | none => (outcome .authFailed, s)
    | some key =>
        if 15 < k then (outcome .rightsFault, s)
        else
        let kcv := field 0 4 (hmac384 key (ascii "BGYX3KCV"))
        let was := s.owned
        let s := { s with enc.slots := tput k { key := some key, scope := if k == 0 then 0x7F else scope, kcv := kcv } s.enc.slots }
        ({ data := le 4 kcv }, if s.owned == was then s else s.newAlias)

/-- 0x5200.02. -/
def revokeKeyCmd (d : Bytes) (s : State) : Result × State :=
  let k := field 0 1 d
  if k == 0 || 15 < k then (outcome .rightsFault, s)
  else ({}, s.modSlot k (fun x => { x with key := none, scope := 0, kcv := 0, fails := 0, throttle := none }))

/-- 0x5200.03. -/
def releaseCmd (_ : Bytes) (s : State) : Result × State := ({}, { s with enc.slots := [] }.newAlias)

/-- 0x5200.04. -/
def debugCmd (dbgEn : Bool) (d : Bytes) (s : State) : Result × State :=
  let l := field 0 1 d
  if l == s.enc.debug then ({}, s)
  else if l < s.enc.debug || 2 < l || !dbgEn || (l == 2 && s.phase == 0xA) then (outcome .rightsFault, s)
  else ({}, { s with enc.debug := l }.newAlias)

/-- 0x5000.10. -/
def selfTestCmd (pass : Bool) (d : Bytes) (s : State) : Result × State :=
  match field 0 1 d with
  | 0 => ({}, s)
  | 1 => if s.enc.st == 3 then (outcome .retry, s)
         else if s.enc.st != 1 then ({}, s)
         else if pass then ({}, { s with enc.testsOk := true }) else ({}, s.enclaveFails)
  | _ => (outcome .translationFault dValue, s)

/-- An access on the debug port (R421, R502). -/
def debugPort (s : State) (a : DebugAccess) (rstLow dbgEn : Bool) : State :=
  let scan := rstLow && dbgEn
  let free := fun (s : State) => let (v, s) := s.drawFree; s.emit (.debug v)
  match a with
  | .boundaryScan => if scan then free s else s
  | .idcode =>
      if scan then s
      else
        let (v, s) := s.drawFree
        s.emit (.debug (2 * 2 ^ 28 + 0x0B33 * 2 ^ 12 + v % 2 ^ 12))
  | .bypass => if scan then s else s.emit (.debug 0)
  | .trace _ => if scan || s.enc.debug < 1 then s else free s
  | .read h addr =>
      if scan || s.enc.debug < 1 then s
      else match (if (s.half h).running then none else tget addr (s.half h).ctlMem) with
        | some v => s.emit (.debug v)
        | none => free s
  | .halt h => if scan || s.enc.debug < 2 then s else s.modHalf h (fun x => { x with running := false, ctlMem := [] })
  | .write h addr v =>
      if scan || s.enc.debug < 2 then s else s.modHalf h (fun x => { x with ctlMem := tput addr v x.ctlMem })

end State

/-- A mismatch in the enclave (R400). -/
def execEnclaveLockstepMismatch (dt : Nat) (s : State) : Host.Outcome State Fault Refusal :=
  act (.enclaveLockstepMismatch dt) dt s (fun s => s.enclaveHalts)

/-- The enclave has restarted (R400). -/
def execEnclaveRestarted (dt : Nat) (testsPass : Bool) (s : State) : Host.Outcome State Fault Refusal :=
  act (.enclaveRestarted dt testsPass) dt s (fun s => s.enclaveBack testsPass)

/-- 0x5300.01 (R406). -/
def execSegment (dt : Nat) (p : Pdu) (s : State) : Host.Outcome State Fault Refusal :=
  act (.segment dt p) dt s (fun s => s.dictWrite p 0x5300 1 State.segmentCmd)

/-- 0x5300.02 (R404, R482). -/
def execVerify (dt : Nat) (p : Pdu) (s : State) : Host.Outcome State Fault Refusal :=
  act (.verify dt p) dt s (fun s => s.dictWrite p 0x5300 2 State.verifyCmd)

/-- 0x5300.03 (R451). -/
def execActivate (dt : Nat) (p : Pdu) (s : State) : Host.Outcome State Fault Refusal :=
  act (.activate dt p) dt s (fun s => s.dictWrite p 0x5300 3 State.activateCmd)

/-- 0x5300.04 (R406). -/
def execCommitSvn (dt : Nat) (p : Pdu) (s : State) : Host.Outcome State Fault Refusal :=
  act (.commitSvn dt p) dt s (fun s => s.dictWrite p 0x5300 4 State.commitSvnCmd)

/-- A stage of a live update is done (R452). -/
def execLiveUpdateStageDone (dt : Nat) (s : State) : Host.Outcome State Fault Refusal :=
  act (.liveUpdateStageDone dt) dt s (fun s => s.stageDone)

/-- A live update reverts (R453). -/
def execLiveUpdateRevert (dt : Nat) (s : State) : Host.Outcome State Fault Refusal :=
  act (.liveUpdateRevert dt) dt s (fun s => s.updateReverts)

/-- GET_VERSION (R409): 1.3 alone. -/
def execGetVersion (dt : Nat) (eid : Nat) (s : State) : Host.Outcome State Fault Refusal :=
  act (.getVersion dt eid) dt s (fun s => s.spdm eid (fun s => s.spdmSend eid 0x04 0 (le 1 0 ++ le 1 1 ++ le 2 0x1300)))

/-- GET_CAPABILITIES (R409): CERT_CAP, CHAL_CAP, signed MEAS_CAP. -/
def execGetCapabilities (dt : Nat) (eid : Nat) (s : State) : Host.Outcome State Fault Refusal :=
  act (.getCapabilities dt eid) dt s (fun s => s.spdm eid (fun s => s.spdmSend eid 0x61 0 (le 4 0x16)))

/-- NEGOTIATE_ALGORITHMS (R409): ECDSA P-384, SHA-384, SHA-384 of measurements. -/
def execNegotiateAlgorithms (dt : Nat) (eid : Nat) (s : State) : Host.Outcome State Fault Refusal :=
  act (.negotiateAlgorithms dt eid) dt s (fun s => s.spdm eid (fun s => s.spdmSend eid 0x63 0 (le 4 0x80 ++ le 4 2 ++ le 4 4)))

/-- GET_DIGESTS (R409): slot 0. -/
def execGetDigests (dt : Nat) (eid : Nat) (s : State) : Host.Outcome State Fault Refusal :=
  act (.getDigests dt eid) dt s (fun s => s.spdm eid (fun s => s.spdmSend eid 0x01 1 (sha384 (Config.certChain s.enc.aliasGen))))

/-- GET_CERTIFICATE (R408, R409): a portion of the chain of slot 0. -/
def execGetCertificate (dt : Nat) (eid slot offset length : Nat) (s : State) : Host.Outcome State Fault Refusal :=
  act (.getCertificate dt eid slot offset length) dt s (fun s => s.spdm eid (fun s =>
    if slot != 0 then s.spdmError eid 0x07
    else
      let c := Config.certChain s.enc.aliasGen
      let d := slice offset length c
      s.spdmSend eid 0x02 0 (le 2 d.length ++ le 2 (c.length - offset - d.length) ++ d)))

/-- CHALLENGE (R411). -/
def execChallenge (dt : Nat) (eid slot : Nat) (nonce : Bytes) (s : State) : Host.Outcome State Fault Refusal :=
  act (.challenge dt eid slot nonce) dt s (fun s => s.spdm eid (fun s =>
    if slot != 0 then s.spdmError eid 0x07 else s.spdmSigned eid 0x03 0 (sha384 (Config.certChain s.enc.aliasGen)) nonce))

/-- GET_MEASUREMENTS (R410, R411). -/
def execGetMeasurements (dt : Nat) (eid op : Nat) (signed : Bool) (nonce : Bytes) (s : State) : Host.Outcome State Fault Refusal :=
  act (.getMeasurements dt eid op signed nonce) dt s (fun s => s.spdm eid (fun s => s.measurements eid op signed nonce))

/-- 0x5200.01 (R418, R419). -/
def execInstall (dt : Nat) (p : Pdu) (s : State) : Host.Outcome State Fault Refusal :=
  act (.install dt p) dt s (fun s => s.dictWrite p 0x5200 1 State.installCmd)

/-- 0x5200.02 (R418). -/
def execKeyRevoke (dt : Nat) (p : Pdu) (s : State) : Host.Outcome State Fault Refusal :=
  act (.keyRevoke dt p) dt s (fun s => s.dictWrite p 0x5200 2 State.revokeKeyCmd)

/-- 0x5200.03 (R419). -/
def execReleaseOwnership (dt : Nat) (p : Pdu) (s : State) : Host.Outcome State Fault Refusal :=
  act (.releaseOwnership dt p) dt s (fun s => s.dictWrite p 0x5200 3 State.releaseCmd)

/-- 0x5200.04 (R421). -/
def execDebugUnlock (dt : Nat) (p : Pdu) (dbgEn : Bool) (s : State) : Host.Outcome State Fault Refusal :=
  act (.debugUnlock dt p dbgEn) dt s (fun s => s.dictWrite p 0x5200 4 (State.debugCmd dbgEn))

/-- 0x5000.10 (R423). -/
def execSelfTestRun (dt : Nat) (p : Pdu) (pass : Bool) (s : State) : Host.Outcome State Fault Refusal :=
  act (.selfTestRun dt p pass) dt s (fun s => s.dictWrite p 0x5000 0x10 (State.selfTestCmd pass))

/-- The entropy source fails its continuous test (R423). -/
def execEntropyHealthTestFailure (dt : Nat) (s : State) : Host.Outcome State Fault Refusal :=
  act (.entropyHealthTestFailure dt) dt s (fun s => if s.phase < 2 then s else s.enclaveFails)

/-- The debug port (R421, R502). -/
def execDebugPortAccess (dt : Nat) (a : DebugAccess) (rstLow dbgEn : Bool) (s : State) : Host.Outcome State Fault Refusal :=
  act (.debugPortAccess dt a rstLow dbgEn) dt s (fun s => s.debugPort a rstLow dbgEn)

end Sys2Proof.Machine
end

