-- ==== Sys2Proof/Machine/Values.lean ====
section
/-! DEFINITION. The values of status objects (R43, R66, R107, R236, R267, R289, R308, R337, R358, R396, R397, R454,
R507), as a half holds its part of them and as the dictionary reports them (R469), and gutter records as bytes (R393,
R394). -/

namespace Sys2Proof.Machine

/-- An Int as 32 bits of two's complement. -/
def int32 (x : Int) : Nat := (x % 2 ^ 32).toNat

namespace State

/-! ### Ports, lanes, modules -/

/-- 0x40D0+p.01. -/
def portStatus (s : State) (p : Nat) : Nat :=
  let t := s.port p
  s.roleOf p + 8 * ofBool t.link.up + 16 * ofBool t.relay + 32 * ofBool t.mismatch

/-- 0x4140+e.01 to .12. -/
def laneStatus (s : State) (n : Nat) : Nat :=
  let x := s.lane n
  x.st + 8 * (x.logical % 32) + 2 ^ 8 * (x.oma % 4096).toNat + 2 ^ 20 * (x.health.lastMark % 256) + 2 ^ 28 * min x.bads 15

/-- 0x4100+m.01 to .07. -/
def moduleStatus (s : State) (m sub : Nat) : Nat :=
  let x := s.laserModule m
  match sub with
  | 1 => x.st
  | 2 => min x.ratio 255
  | 3 => x.health.lastMark
  | 4 => x.hours
  | 5 => x.dark
  | 6 => x.temp % 256
  | _ => x.connector

/-- 0x40B0.01 and .02. -/
def endStatus (s : State) (e : Half) : Nat := (s.geled e).st + 8 * ofBool (s.geled e).half

/-! ### Values that are not counts -/

/-- What a half holds of something, or both halves together (R469). -/
def ofView (s : State) (view : Option Half) (f : HalfSt → Nat) : Nat :=
  match view with
  | some h => f (s.half h)
  | none => f s.west + f s.east

/-- A status value that is not a count, as seen by a half, or by the dictionary for the whole device (R469). -/
def statusView (s : State) (view : Option Half) (index sub : Nat) : Option Nat :=
  let h := view.getD s.holder
  let x := s.half h
  match index, sub with
  | 0x4020, 1 => some x.course
  | 0x4020, 2 => some (ofBool s.crs.silent)
  | 0x4020, 3 => some s.crs.stamp
  | 0x4030, 2 => some s.spc.invs.length
  | 0x4042, 1 => some (s.plc.state + 16 * ofBool (!s.cfgBit h 0x2070 1 0))
  | 0x4042, 2 => some s.crs.first
  | 0x4050, 0xE => some s.ylx.overs.length
  | 0x4080, 0xE => some (s.ofView view (fun x => (x.held.filter (fun w => w.acc.op != MemOp.pub)).length))
  | 0x4080, 0x11 => some s.itg.jobs.length
  | 0x4090, 1 => some s.rdg.mode
  | 0x4090, 2 => some s.rdg.cause
  | 0x4090, 3 => some (s.ofView view (fun x => x.dir.length))
  | 0x40A0, 6 => some (s.ofView view (fun x => x.caps.length))
  | 0x40B0, 1 => some (s.endStatus .west)
  | 0x40B0, 2 => some (s.endStatus .east)
  | 0x40C0, 1 => some s.loadNow
  | 0x40F0, 1 => some x.leaseHolder.num
  | 0x40F0, 2 => some x.leaseSeq
  | 0x40F0, 3 => some x.leaseCourse
  | 0x40F0, 4 => some (ofBool (!s.avl.purlinUp))
  | 0x40F0, 0xF => some s.avl.admission.st
  | 0x40F0, 0x10 => some s.clearCourse
  | 0x4110, 5 => some s.mgm.update
  | 0x4120, 1 => some (ofBool s.mon.railBit + 2 * ofBool s.mon.thermBit + 4 * ofBool s.mon.holdover)
  | 0x4120, 9 => some s.mon.power
  | 0x4120, 0xA => some (int32 s.mon.hotWest)
  | 0x4120, 0xB => some (int32 s.mon.hotEast)
  | _, _ =>
      if 0x40D0 ≤ index && index ≤ 0x40EF && sub == 1 then some (s.portStatus (index - 0x40D0))
      else if 0x4140 ≤ index && index ≤ 0x4151 && sub ≤ 0x12 then some (s.laneStatus (18 * (index - 0x4140) + sub - 1))
      else if 0x4100 ≤ index && index ≤ 0x4108 then some (s.moduleStatus (index - 0x4100) sub)
      else if index == 0x4120 && 2 ≤ sub && sub ≤ 8 then
        let r := s.mon.rails.getD (sub - 2) (0, 0)
        some (r.1 % 65536 + 65536 * (r.2 % 65536))
      else none

/-- A half's own part of a status object: its count, or its own view of a value that is not one (R469). -/
def statusPart (s : State) (h : Half) (index sub : Nat) : Nat :=
  match s.statusView (some h) index sub with
  | some v => v
  | none => tgetD (index, sub) 0 (s.half h).counts

/-- A status object as the dictionary reports it. -/
def statusValue (s : State) (index sub : Nat) : Nat :=
  match s.statusView none index sub with
  | some v => v
  | none => s.countVal index sub

/-! ### Health and engines (R397) -/

def healthWord (x : Health) (node : Nat) : Nat :=
  x.score % 256 + 2 ^ 8 * (x.clean % 2048) + 2 ^ 19 * ofBool x.expelled + 2 ^ 20 * ofBool x.suspect + 2 ^ 21 * ofBool x.hardDead +
    2 ^ 32 * (node % 2 ^ 14)

def engineWord (g : Eng) : Nat :=
  g.state % 8 + 8 * min g.fails 15 + 2 ^ 7 * ofBool g.checkerFirst + 2 ^ 8 * (g.passCourse % 2 ^ 48)

/-- The entries 0x6100 to 0x6142. -/
def healthValue (s : State) (index sub : Nat) : Nat :=
  let k := sub - 1
  match index with
  | 0x6120 => healthWord (s.port k).health 0
  | 0x6121 => healthWord (s.laserModule k).health 0
  | 0x6122 => (match s.peerOn k with
    | some n => healthWord (s.node n).health n
    | none => healthWord {} 0)
  | 0x6140 => engineWord (s.engOf ⟨.tile, k⟩)
  | 0x6141 => engineWord (s.engOf ⟨.yealm, k⟩)
  | 0x6142 => engineWord (s.engOf ⟨.update, k⟩)
  | _ => healthWord (s.lane (18 * (index - 0x6100) + k)).health 0

/-! ### Gutter records (R392 to R394) -/

/-- Two decimal digits. -/
def digits2 (n : Nat) : Bytes := [BitVec.ofNat 8 (48 + n / 10 % 10), BitVec.ofNat 8 (48 + n % 10)]

/-- FRU text of a part. -/
def partName (x : PartRef) : Bytes :=
  match x.kind with
  | 1 => ascii "LANE E" ++ digits2 (x.idx / 18) ++ ascii " L" ++ digits2 (x.idx % 18)
  | 2 => ascii "PORT " ++ digits2 x.idx
  | 3 => ascii "MODULE " ++ digits2 x.idx
  | 4 => ascii "PEER " ++ digits2 (x.idx / 10000) ++ digits2 (x.idx / 100) ++ digits2 x.idx
  | 5 => ascii "TILE " ++ digits2 x.idx
  | 6 => ascii "YEALM " ++ digits2 x.idx
  | 7 => ascii "UPDATE " ++ digits2 x.idx
  | 8 => ascii "STACK " ++ digits2 (x.idx / 33) ++ ascii " CH" ++ digits2 (x.idx % 33)
  | 9 => ascii "SRAM"
  | 0xA => ascii "RIDGE " ++ digits2 x.idx
  | 0xB => ascii "HALF " ++ digits2 x.idx
  | 0xC => ascii "PURLIN"
  | 0xD => ascii "ENCLAVE"
  | 0xE => ascii "CLOCK"
  | 0xF => ascii "SENSOR"
  | _ => ascii "MEMORY"

/-- Brodgabry's GUID as the UEFI specification lays a GUID out. -/
def brodgabryGuid : Bytes :=
  le 4 0xB6D1A3F0 ++ le 2 0x5C27 ++ le 2 0x4E8B ++ ([0xA9, 0x1D, 0x3F, 0x0C, 0x7E, 0x24, 0xB5, 0x9A] : List Nat).map (BitVec.ofNat 8)

/-- The vendor section (R394). -/
def vendorSection (s : State) (r : Gutter) : Bytes :=
  le 2 0x0100 ++ le 1 r.cls ++ le 1 r.part.kind ++ le 2 r.part.idx ++ le 2 s.nodeNum ++ le 1 r.action ++ le 1 r.flags ++ le 1 r.score ++
  le 1 0 ++ le 4 r.seq ++ le 8 (r.course % 2 ^ 48) ++ le 8 r.stamp ++ le 8 r.ga ++ le 2 r.ctx ++ le 2 r.job ++ le 4 r.count ++ fitTo 16 r.detail

/-- The 264 bytes of a record (R393). -/
def gutterBytes (s : State) (r : Gutter) : Bytes :=
  let header := ascii "CPER" ++ le 2 0x0101 ++ le 4 0xFFFFFFFF ++ le 2 1 ++ le 4 r.severity ++ le 4 0 ++ le 4 264 ++ zeros 8 ++ zeros 16 ++ zeros 16 ++
    brodgabryGuid ++ brodgabryGuid ++ le 8 (s.nodeNum % 2 ^ 14 * 2 ^ 32 + r.seq) ++ zeros 24
  let sect := le 4 200 ++ le 4 64 ++ le 2 0x0100 ++ le 2 0 ++ le 4 1 ++ brodgabryGuid ++ zeros 16 ++ le 4 r.severity ++ fitTo 20 (partName r.part)
  header ++ sect ++ s.vendorSection r

/-- The oldest sequence the ring still holds (R396). -/
def oldestGutter (s : State) : Nat :=
  if s.mgm.ring.length < 256 then (s.mgm.nextSeq + 2 ^ 32 - s.mgm.ring.length) % 2 ^ 32 else (s.mgm.nextSeq + 2 ^ 32 - 256) % 2 ^ 32

end State
end Sys2Proof.Machine
end

