-- ==== Sys2Proof/Machine/Startup.lean ====
section
/-! DEFINITION. From power-up to service (R473 to R486, R492 to R494, R501), and what power-off and reset leave. -/

namespace Sys2Proof.Machine
namespace State

/-! ### What survives (R486) -/

/-- A slot as the enclave's store keeps it: key, scope and reservation (R401, R416). -/
def storedSlot (x : Slot) : Slot := { key := x.key, scope := x.scope, last := x.reserved, reserved := x.reserved, kcv := x.kcv }

/-- A laser module's own memory, and that the module is there. -/
def storedModule (x : Module) : Module := { present := x.present, bol := x.bol, hours := x.hours }

/-- The device with every volatile store as power-up leaves it. -/
def volatileLost (s : State) : State :=
  { now := s.now, free := s.free, fuse := s.fuse,
    enc := { slots := s.enc.slots.map (fun k => (k.1, storedSlot k.2)), banks := s.enc.banks, active := s.enc.active,
             lmsNext := s.enc.lmsReserved, lmsReserved := s.enc.lmsReserved, aliasGen := s.enc.aliasGen },
    slt := { a := s.slt.a, b := s.slt.b },
    opt := { modules := s.opt.modules.map (fun m => (m.1, storedModule m.2)) } }

/-! ### The phases (R473)

The end of a phase that comes while a controller pair is halted is not taken: the phase is held (R475, log 108). -/

/-- PWR_RST_N is released: straps are sampled (R493, R501). -/
def released (s : State) (strap : Nat) (mfg : Bool) : State :=
  if s.phase != 0 && s.phase != 1 then s
  else { s with phase := 1, mgm.staticAddr := 0x30 + strap % 8, mon.mfg := mfg }

/-- All clocks have been locked for 100 µs; a device with STP_MFG high goes no further. -/
def locked (s : State) : State := if s.phase == 1 && !s.mon.mfg then { s with phase := 2 } else s

/-- Announce what the ring holds, oldest first (R485). -/
def announceHeld (s : State) : State :=
  (List.range s.mgm.ring.length).foldl (fun s i => s.announceRecord .west ((s.oldestGutter + i) % 2 ^ 32)) s

/-- Phase 0x03 ends: a slate is loaded, the half controllers run, the node number is taken (R434, R449). -/
def slateSelected (s : State) : State :=
  if s.phase != 3 || s.startupHeld then s
  else
    let s := s.loadSlate
    let s := { s with nodeNum := s.cfg .west 0x2000 1, phase := 4 }.modBoth (fun x => { x with running := true })
    s.announceHeld

/-- A channel that fails training (R476). -/
def trainingFailed (s : State) (n ch : Nat) : State :=
  let k := s.stackRec n
  let h := stackHalf n
  if k.spare == some ch || k.retired.contains ch then s
  else match k.spare with
    | none => ((s.modStack n (fun k => { k with spare := some ch })).count h 0x40F0 0x11).gutter h 0x03 0x08 (33 * n + ch) 0x02
    | some _ => (s.modStack n (fun k => { k with retired := k.retired ++ [ch] })).gutter h 0x04 0x08 (33 * n + ch) 0x04 (severity := 3)

/-- Phase 0x04 ends: every line poisoned, and metadata as R237 sets it; present laser modules begin to warm. -/
def stacksReady (s : State) (failed : List (Nat × Nat)) : State :=
  if s.phase != 4 || s.startupHeld then s
  else
    let s := failed.foldl (fun s x => s.trainingFailed x.1 x.2) s
    let warm := fun (m : Nat × Module) => (m.1, if m.2.present then { m.2 with st := 1, enable := true } else m.2)
    { s with near := { stackRecs := s.near.stackRecs }, opt.modules := s.opt.modules.map warm, phase := 5 }

/-- Phase 0x06 ends: both lease copies are set, or the halves go on split (R384, R477). -/
def purlinTry (s : State) (up : Bool) : State :=
  if s.phase != 6 || s.startupHeld then s
  else
    let first := fun (x : HalfSt) => { x with leaseHolder := .west, leaseSeq := 1, leaseCourse := noCourse }
    if up then { s with avl.purlinUp := true, avl.tries := 0, avl.heard := (s.now, s.now), phase := 7 }.modBoth first
    else if s.avl.tries + 1 < 3 then { s with avl.tries := s.avl.tries + 1 }
    else ({ s with avl.purlinUp := false, avl.tries := 0, phase := 7 }.modBoth first).gutter .west 0x13 0x0C 0 0x04 (severity := 2)

/-- Phase 0x07 ends (R268): the ridge is empty, agent 0 is registered, and the domain is strict. -/
def ridgeReady (s : State) : State :=
  if s.phase != 7 || s.startupHeld then s
  else
    let s := s.modBoth (fun x => { x with dir := [], pend := [], recalls := [], aged := [] })
    let s := { s with rdg := { mode := 1, cause := s.rdg.cause, nextId := s.rdg.nextId, blocked := s.rdg.blocked }, phase := 8, crs.silentBase := s.now }
    s.registerZero.resumeBlocked

/-- Every engine's first test is over (R479): none of them defines a clear course. -/
def firstTested (s : State) (failed : List Engine) : State :=
  if s.phase != 8 || s.avl.tested || s.startupHeld then s
  else
    let s := (halfEngines .west ++ halfEngines .east).foldl (fun s e =>
      let h := engHalf e
      let bad := failed.contains e
      let s := s.count h 0x40F0 0xA
      let s := s.modEng e (fun g => { g with state := if bad then 3 else 0, fails := if bad then min 15 (g.fails + 1) else g.fails, due := bad, forced := false, doneAt := s.now, doneCourse := s.courseOf h, testFrom := noCourse, passCourse := noCourse, outs := if bad then g.outs ++ [s.courseOf h] else g.outs })
      let s := s.count h 0x40F0 (if bad then 8 else 7)
      if bad then s.gutter h 0x0B (engKind e.cls) e.idx 0x04 (severity := 2) else s) s
    { s with avl.tested := true, phase := if s.crs.first == noCourse then 8 else 9 }

end State

/-- PWR_RST_N is released (R493, R501). -/
def execResetRelease (dt : Nat) (strapAddr : Nat) (mfg : Bool) (s : State) : Host.Outcome State Fault Refusal :=
  act (.resetRelease dt strapAddr mfg) dt s (fun s => s.released strapAddr mfg)

/-- A reset (R474): every block as at power-up, from phase 0x01; straps are sampled again at the release. -/
def execReset (dt : Nat) (s : State) : Host.Outcome State Fault Refusal :=
  run (Instr.reset dt).wf dt s (fun s => { s.volatileLost with phase := 1, mgm := { staticAddr := s.mgm.staticAddr }, mon := { rails := s.mon.rails, mfg := s.mon.mfg }, west := { regs := { shownPhase := 1 } }, east := { regs := { shownPhase := 1 } } })

/-- Power is lost or removed (R486, R494). -/
def execPowerLoss (dt : Nat) (s : State) : Host.Outcome State Fault Refusal :=
  run (Instr.powerLoss dt).wf dt s (fun s => s.volatileLost)

/-- The clocks are locked (R473). -/
def execClockLock (dt : Nat) (s : State) : Host.Outcome State Fault Refusal :=
  act (.clockLock dt) dt s (fun s => s.locked)

/-- The enclave's boot (R405, R423, R426). -/
def execEnclaveBootDone (dt : Nat) (testsPass : Bool) (s : State) : Host.Outcome State Fault Refusal :=
  act (.enclaveBootDone dt testsPass) dt s (fun s => s.enclaveBoots testsPass)

/-- Slate selection (R449). -/
def execSlateSelection (dt : Nat) (s : State) : Host.Outcome State Fault Refusal :=
  act (.slateSelection dt) dt s (fun s => s.slateSelected)

/-- The stacks are ready (R237, R476). -/
def execStackInitialisationDone (dt : Nat) (failed : List (Nat × Nat)) (s : State) : Host.Outcome State Fault Refusal :=
  act (.stackInitialisationDone dt failed) dt s (fun s => s.stacksReady failed)

/-- Every link has finished its first training attempt (R473). -/
def execOpticalTrainingDone (dt : Nat) (s : State) : Host.Outcome State Fault Refusal :=
  act (.opticalTrainingDone dt) dt s (fun s => if s.phase == 5 && !s.startupHeld then { s with phase := 6 } else s)

/-- An attempt to bring up the purlin ends (R473, R477). -/
def execPurlinBringupRetry (dt : Nat) (up : Bool) (s : State) : Host.Outcome State Fault Refusal :=
  act (.purlinBringupRetry dt up) dt s (fun s => s.purlinTry up)

/-- The ridge's walk is complete (R268). -/
def execRidgeInitialisation (dt : Nat) (s : State) : Host.Outcome State Fault Refusal :=
  act (.ridgeInitialisation dt) dt s (fun s => s.ridgeReady)

/-- The first field tests are over (R479). -/
def execFirstFieldTestsDone (dt : Nat) (failed : List Engine) (s : State) : Host.Outcome State Fault Refusal :=
  act (.firstFieldTestsDone dt failed) dt s (fun s => s.firstTested failed)

/-- Joining the roof is complete (R480): it begins at course s. -/
def execJoinComplete (dt : Nat) (s : State) : Host.Outcome State Fault Refusal :=
  act (.joinComplete dt) dt s (fun s => if s.crs.first == noCourse then s else { s with avl.joined := true })

/-- The receive side of a port cannot follow its stream: flashing retrains it (R314, R346). -/
def execStreamUnfollowable (dt : Nat) (p : Nat) (s : State) : Host.Outcome State Fault Refusal :=
  act (.streamUnfollowable dt p) dt s (fun s => (s.portDown p).startTraining (.port p))

end Sys2Proof.Machine
end

