-- ==== Sys2Proof/Machine/Courses.lean ====
section
/-! DEFINITION. Courses (R26 to R43): the course message, the beacon's edge with every event of R39 in order, and the
beacon's silence. -/

namespace Sys2Proof.Machine
namespace State

/-! ### The course message (R30 to R33) -/

/-- Whether a course message comes from the course source: the companion's hypervisor or one fabric port (R30, R300). -/
def fromSource (s : State) (via : Via) : Bool :=
  let v := s.cfg (viaHalf via) 0x2040 1
  match via with
  | .geled _ hv => hv && (v == 0 || 0x20 < v)
  | .port p => v == p + 1
  | .batch _ | .onward _ _ => false

/-- Arm an announcement in one half; one that is replaced is counted (R32). -/
def arm (s : State) (h : Half) (course : Nat) : State := s.modHalf h (fun x => { x with armed := some course })

/-- A course message (R30 to R33). -/
def courseHeard (s : State) (via : Via) (course : Nat) : State :=
  let s := s.countArrival via 3 5
  let h := viaHalf via
  let late := if s.avl.purlinUp then s.west.armed.isSome || s.east.armed.isSome else (s.half h).armed.isSome
  if !s.fromSource via || course == noCourse then s.count h 0x4020 6
  else
    let s := if late then s.count h 0x4020 6 else s
    if s.avl.purlinUp then (s.arm .west course).arm .east course else s.arm h course

/-! ### Step 1: the number (R32, R33) -/

/-- Number a half's edge after `prev` with the announcement `armed`: the course that begins, if one does, and the count
of 0x4020 that the edge adds to, with how much. -/
def numberOf (prev : Nat) (armed : Option Nat) : Option Nat × Option (Nat × Nat) :=
  if prev == noCourse then
    (match armed with
    | some a => (some a, none)
    | none => (none, some (5, 1)))
  else if prev + 1 == noCourse then (none, some (4, 1))
  else match armed with
    | none => (some (prev + 1), some (5, 1))
    | some a =>
        if a == prev + 1 then (some a, none)
        else if prev + 1 < a then (some a, some (7, a - (prev + 1)))
        else (some (prev + 1), some (6, 1))

/-- Set the number of one boundary in the halves that treat it as one (R29): `h` numbers it. -/
def numberEdge (s : State) (h : Half) (hs : List Half) (armed : Option Nat) : Bool × State :=
  let r := numberOf (s.courseOf h) armed
  let s := hs.foldl (fun (s : State) k => s.modHalf k (fun x => { x with armed := none, course := r.1.getD x.course })) s
  let s := match r.2 with
    | some (sub, n) => s.count h 0x4020 sub n
    | none => s
  (r.1.isSome, s)

/-- Halves that begin a course: one number for both, or while the purlin is lost each half by itself, if its pair runs
(R38, R386, R387). -/
def numberAll (s : State) : List Half × State :=
  if s.avl.purlinUp then
    let h := s.holder
    let (ok, s) := s.numberEdge h [.west, .east] (match (s.half h).armed with
      | some a => some a
      | none => (s.half h.other).armed)
    (if ok then [.west, .east] else [], s)
  else
    let one := fun (s : State) (h : Half) =>
      if (s.half h).running then s.numberEdge h [h] (s.half h).armed else (false, s)
    let (w, s) := one s .west
    let (e, s) := one s .east
    ((if w then [.west] else []) ++ (if e then [.east] else []), s)

/-! ### Step 2: the lease (R385) -/

/-- The holder renews its record and sends it. -/
def renewLease (s : State) : State :=
  let h := s.holder
  (s.modHalf h (fun x => { x with leaseHolder := h, leaseSeq := x.leaseSeq + 1, leaseCourse := x.course })).sendLease h

/-! ### Step 3: health scores (R354, R376 to R378) -/

/-- Score and clean count after a course with a mark, and whether the part is due for expulsion (R376, R378, R379). -/
def scoreCourse (mark : Nat) (dead : Bool) (h : Health) : Health :=
  let score := h.score - h.score / 8 + mark / 8
  let due := if score < 64 || dead then (if h.hardDead then 2 else min 2 (h.due + 1)) else 0
  { h with score := score, clean := if mark == 255 then min (h.clean + 1) 2047 else 0, lastMark := mark, mark := 255,
           hardDead := dead, due := due, held := h.held && due != 0 }

/-- A lane's deduction for its byte error ratio before FEC (R354). -/
def fecDeduction (x : Lane) : Nat :=
  if x.corr * 10 ^ 5 > x.cws * 272 then 96 else if x.corr * 10 ^ 6 > x.cws * 272 then 32 else 0

/-- A lane's deduction for its received OMA (R354). -/
def omaDeduction (x : Lane) (margin : Nat) : Nat :=
  if 2 * (x.oma + 120) < (margin : Int) then 96 else if x.oma + 120 < (margin : Int) then 32 else 0

/-- Whether no light reaches a lane (R340, R353): it is bad, and so is the other lane of its laser, or the light received is below
the level at which R349 declares it bad. DEDUCED (log entry 134). -/
def laneDark (s : State) (n : Nat) : Bool :=
  (s.lane n).st == 4 && (bitOf (s.laserModule (laneModule n)).dark (n / 18 % 2 * 9 + n % 18 % 9) || (s.lane n).oma < -120)

/-- A lane at the end of a course (R354, R376, R378). -/
def laneCourse (s : State) (n : Nat) : Lane :=
  let x := s.lane n
  let lit := x.st == 2 || x.st == 3 || x.st == 5
  let mark := x.health.mark - fecDeduction x - (if lit then omaDeduction x (s.cfg (opticHalf (n / 18)) 0x20E0 4) else 0)
  let dark := s.laneDark n
  { x with cws := 0, corr := 0, darkCourse := dark,
           health := scoreCourse mark (if x.health.expelled then x.health.hardDead else dark && x.darkCourse) x.health }

/-- Lowest mark of a port's lanes that count: the Active ones, or while the port is expelled all that are not Off. -/
def lowestMark (s : State) (p : Nat) : Nat :=
  let counts := fun (n : Nat) => if (s.port p).health.expelled then (s.lane n).st != 0 else (s.lane n).st == 3
  ((linkLanes (.port p)).filter counts).foldl (fun m n => min m (s.lane n).health.lastMark) 255

/-- A port at the end of a course, after its lanes. -/
def portCourse (s : State) (p : Nat) : Port :=
  let x := s.port p
  let l := x.link
  let own := if l.wasDown then 0 else x.health.mark - (if l.width7 then 64 else 0) - (if 16 < l.replays then 32 else 0)
  let down := s.roleOf p != 0 && !l.up && !x.draining && !l.planned
  let dead := if x.health.expelled then x.health.hardDead else down && l.downEdge
  let h := if x.health.expelled then scoreCourse (s.lowestMark p) dead x.health
           else scoreCourse (min own (s.lowestMark p)) dead x.health
  { x with health := h, link := { l with replays := 0, wasDown := false, width7 := l.up && l.width == 7, downEdge := down } }

/-- A laser module at the end of a course; an expelled one is not monitored (R379). -/
def moduleCourse (s : State) (m : Nat) : Module :=
  let x := s.laserModule m
  if x.health.expelled then x
  else
    let lit := 2 ≤ x.st && x.st ≤ 4
    let dark := ((List.range 18).filter (bitOf x.dark)).length
    let mark := x.health.mark - (if lit && x.flagged then 96 else 0) - (if lit then 128 * dark else 0)
    { x with health := scoreCourse mark ((x.st == 0 && x.health.hardDead) || (lit && dark == 18)) x.health }

/-- Every score is updated from the mark of the course that has ended (R376). -/
def scoreAll (s : State) : State :=
  let s := { s with opt.lanes := (List.range 324).map (fun n => (n, s.laneCourse n)) }
  let s := { s with fab.ports := (List.range 32).map (fun p => (p, s.portCourse p)) }
  let s := { s with opt.modules := (List.range 9).map (fun m => (m, s.moduleCourse m)) }
  s.roofPeers.foldl (fun (s : State) n =>
    s.modNode n.1 (fun x => { x with health := scoreCourse x.health.mark x.health.hardDead x.health })) s

/-! ### Step 5: slate and firmware activation (R38, R388, R447, R452) -/

/-- What the non-holder takes over at the first edge after the purlin is back (R388). -/
def rejoinLists (s : State) : State :=
  if !s.crs.rejoined then s
  else
    let h := s.holder
    let k := h.other
    let s := { s with crs.rejoined := false }.modHalf k (fun x => { x with events := (s.half h).events, unacked := (s.half h).unacked })
    if (s.half k).slate = (s.half h).slate then s else s.putSlate [k] (s.half h).slate

/-- An event as the digest takes it in. DESIGN CHOICE (log entry 124): R38 does not lay the list out; kind U8, course U64. -/
def eventBytes : Ev → Bytes
  | .slate c => le 1 1 ++ le 8 c
  | .firmware c => le 1 2 ++ le 8 c
  | .admission c => le 1 3 ++ le 8 c

/-- The digest of a list: an entry count and a CRC-32C (R38). -/
def listDigest (l : List Ev) : Nat × BitVec 32 := (l.length, crc32c ((l.map eventBytes).flatten))

/-- Compare the halves' lists by their digests (R38): with a mismatch the holder's list is the list of both, and what
the other half had besides is entered again after this boundary. -/
def compareLists (s : State) : List Ev × State :=
  let h := s.holder
  let a := s.eligible h
  let b := s.eligible h.other
  let k := s.half h.other
  if !s.avl.purlinUp || listDigest a = listDigest b then ([], s)
  else (b.filter (fun e => !a.contains e),
    (s.modHalf h.other (fun x => { x with events := a ++ k.events.filter k.unacked.contains })).count h 0x4020 8)

def isFirmwareDue (c : Nat) : Ev → Bool
  | .firmware e => decide (e ≤ c)
  | _ => false

def isSlateDue (c : Nat) : Ev → Bool
  | .slate e => decide (e ≤ c)
  | _ => false

def isAdmissionDue (c : Nat) : Ev → Bool
  | .admission e => decide (e ≤ c)
  | _ => false

/-- The events of the lists whose course has come (R35): firmware first, then the slate (R447). A live update needs
both halves, and waits while they are split. -/
def applyLists (s : State) (hs : List Half) : State :=
  let h := s.holder
  let c := s.course
  let s := if s.avl.purlinUp && (s.eligible h).any (isFirmwareDue c) then
      (s.dropEvents hs (isFirmwareDue c)).updateStarts else s
  let s := if hs.contains h && (s.eligible h).any (isSlateDue c) then
      (s.dropEvents (if s.avl.purlinUp then [.west, .east] else [h]) (isSlateDue c)).slateTakes c else s
  -- during a split the other half applies its own list
  let k := h.other
  if s.avl.purlinUp || !hs.contains k || !(s.eligible k).any (isSlateDue (s.courseOf k)) then s
  else (s.dropEvents [k] (isSlateDue (s.courseOf k))).putSlate [k] (if s.slt.scheduled.isSome then s.pendingRecs else (s.half h).slate)

/-! ### Step 6: expulsions and readmissions (R379 to R382) -/

/-- Every part that has a score. -/
def scoredParts (s : State) : List PartRef :=
  (List.range 324).map (fun n => ⟨1, n⟩) ++ (List.range 32).map (fun n => ⟨2, n⟩) ++ (List.range 9).map (fun n => ⟨3, n⟩) ++
    s.roofPeers.map (fun n => ⟨4, n.1⟩)

/-- The class window a part belongs to (R380): lanes by port or Geled end, the others by device. -/
def windowOf (x : PartRef) : Nat × Nat :=
  if x.kind == 1 then (match laneLink x.idx with
    | .port p => (1, p)
    | .geled e => (1, 32 + e.num))
  else (x.kind, 0)

/-- Whether the brake holds a part's expulsion at the edge of a course (R380). -/
def braked (s : State) (x : PartRef) (course : Nat) : Bool :=
  match tget (windowOf x) s.avl.brakes with
  | some c => decide (course < c + 256)
  | none => false

/-- Parts of a class that would be left in service (R381). -/
def othersLeft (s : State) (x : PartRef) : Nat :=
  match x.kind with
  | 1 => ((linkLanes (laneLink x.idx)).filter (fun n => n != x.idx && ((s.lane n).st == 2 || (s.lane n).st == 3))).length
  | 2 => ((List.range 32).filter (fun p => p != x.idx && s.roleOf p != 0 && !(s.port p).health.expelled)).length
  | 3 => ((List.range 9).filter (fun m => m != x.idx && 2 ≤ (s.laserModule m).st && (s.laserModule m).st ≤ 4)).length
  | _ => (s.roofPeers.filter (fun n => n.1 != x.idx && !(s.node n.1).health.expelled)).length

/-- Whether an expulsion would go below the class floor (R381). -/
def belowFloor (s : State) (x : PartRef) : Bool := s.othersLeft x < s.cfg (s.partHalf x) 0x20F0 (5 + x.kind)

/-- Mark a part suspect instead (R381). -/
def markSuspect (s : State) (x : PartRef) : State :=
  let h := s.healthOf x
  if h.suspect then s
  else ((s.modHealth x (fun h => { h with suspect := true })).count (s.partHalf x) 0x40F0 0xE).gutter (s.partHalf x) 0 x.kind x.idx 0x06 (severity := 3) (flags := 4 + 2 * ofBool h.hardDead) (score := h.score)

/-- A due part that the brake holds (R380). -/
def holdByBrake (s : State) (x : PartRef) : State :=
  let h := s.healthOf x
  if h.held then s
  else ((s.modHealth x (fun h => { h with held := true })).count (s.partHalf x) 0x40F0 0xD).gutter (s.partHalf x) 0 x.kind x.idx 0x0B (severity := 3) (score := h.score)

/-- A part due since an earlier edge: suspect, held, or expelled with its class window opened (R379 to R381). -/
def expelDue (s : State) (course : Nat) (x : PartRef) : State :=
  if s.belowFloor x then s.markSuspect x
  else if !(s.healthOf x).hardDead && s.braked x course then s.holdByBrake x
  else { s with avl.brakes := tput (windowOf x) course s.avl.brakes }.expel x 0

/-- Whether a part may be expelled: by its score where that is enabled, or as hard-dead. -/
def mayExpel (s : State) (x : PartRef) : Bool :=
  let h := s.healthOf x
  !h.expelled && (h.hardDead || s.cfgBit (s.partHalf x) 0x20F0 1 2)

/-- Step 6 (R379 to R382). -/
def expelAll (s : State) (course : Nat) : State :=
  let lt := fun (a b : PartRef) =>
    a.kind < b.kind || (a.kind == b.kind && ((s.healthOf a).score < (s.healthOf b).score ||
      ((s.healthOf a).score == (s.healthOf b).score && a.idx < b.idx)))
  let parts := s.scoredParts
  let s := (sortBy lt (parts.filter (fun x => (s.healthOf x).due == 2 && s.mayExpel x))).foldl (fun s x => s.expelDue course x) s
  -- a part due from this edge on whose window is shut at the next is held from now
  let s := (parts.filter (fun x => (s.healthOf x).due == 1 && s.mayExpel x && !(s.healthOf x).hardDead && s.braked x (course + 1))).foldl holdByBrake s
  let back := fun (x : PartRef) => let h := s.healthOf x
    h.expelled && x.kind != 3 && 1024 ≤ h.clean && 160 < h.score && s.cfgBit (s.partHalf x) 0x20F0 1 3
  (parts.filter back).foldl (fun s x => s.readmit x false 0) s

/-! ### Step 10: admission (R390, R391) -/

/-- The repaired device's side: once it is ready and its course has come it takes over, and tells its partner, which serves
until then. DESIGN CHOICE (log entry 123): no packet tells the partner the course; a space answer that answers no request,
for each page, does. -/
def admitHere (s : State) (course : Nat) : State :=
  let a := s.avl.admission
  if a.st == 0 || 3 < a.st then s
  else if s.admissionBroken then s.admissionFails
  else if a.st == 3 && (s.eligible s.holder).any (isAdmissionDue course) then
    let s := { s with avl.admission := { a with st := 4 } }.dropEvents [.west, .east] isAdmission
    a.ranges.foldl (fun s r => (List.range r.2.2).foldl (fun s k => s.coordinate a.partner 2 0 0 0 (mkGa a.partner (r.1 + k * 65536))) s) s
  else s

/-! ### The boundary (R39) -/

/-- At the edge of course s joining the roof begins: every peer port that is up is announced (R480). -/
def joinBegins (s : State) : State :=
  let s := { s with crs.first := s.course, phase := if s.phase == 8 && s.avl.tested && !s.startupHeld then 9 else s.phase }
  s.roofPeers.foldl (fun s n => if s.portUp n.2 then s.sendPortState n.1 n.2 true else s) s

/-- Service entry, after every step of the edge (R481). -/
def enterService (s : State) : State :=
  if s.phase == 9 && s.avl.joined && s.avl.tested && s.crs.first < s.course && !s.startupHeld then
    { s with phase := 0xA, rdg.mode := if s.rdg.mode == 1 then 2 else s.rdg.mode }
  else s

/-- Every event of a boundary in the order of R39; `hs` are the halves that begin a course. -/
def boundary (s : State) (hs : List Half) : State :=
  let c := s.course
  let s := if s.crs.first == noCourse && c != noCourse then s.joinBegins else s
  let s := s.renewLease
  let s := (hs.foldl (fun (s : State) h => s.snapCounters h (s.courseOf h)) s).snapLoads.scoreAll
  let (extra, s) := s.rejoinLists.compareLists
  let s := s.applyLists hs
  let s := (s.expelAll c).retireForwards.commitRows.commitPages.endDraining.admitHere c
  let s := (s.avl.serving.filter (·.due)).foldl switchServed s
  let s := ((s.milestones c).ageStaged.selectAll.selectAllRows.predict .west).predict .east
  (extra.foldl addEvent s).enterService

/-- Core cycles of 50 µs (R27) and of 10 s (R42). -/
def edgeSpacing : Nat := 80000

def silenceLimit : Nat := 16000000000

/-- An edge on the beacon (R26, R27, R478). -/
def beaconEdge (s : State) : State :=
  if s.phase < 8 || 0xA < s.phase then s
  else if (match s.crs.lastEdge with
      | some t => decide (s.now < t + edgeSpacing)
      | none => false) then s.count s.holder 0x4020 4
  else
    let s := { s with crs.lastEdge := some s.now, crs.stamp := s.now, crs.silentBase := s.now, crs.silent := false }
    let s := (s.raiseEvt .west 1).raiseEvt .east 1
    let (hs, s) := s.numberAll
    if hs.isEmpty then s else s.boundary hs

/-- No edge has been accepted for 10 s (R42). -/
def beaconSilent (s : State) : State :=
  if s.phase < 8 || 0xA < s.phase || s.crs.silent || s.now < s.crs.silentBase + silenceLimit then s
  else
    let s := (({ s with crs.silent := true }.raiseEvt .west 2).raiseEvt .east 2)
    s.gutter s.holder 0x18 0x0E 0 0x09 (severity := 3)

end State

/-- A rising edge on the course beacon (R26, R39). -/
def execCourseBeaconEdge (dt : Nat) (s : State) : Host.Outcome State Fault Refusal :=
  act (.courseBeaconEdge dt) dt s (fun s => s.beaconEdge)

/-- A course message (R30 to R33). -/
def execCourseMessage (dt : Nat) (via : Via) (course : Nat) (s : State) : Host.Outcome State Fault Refusal :=
  act (.courseMessage dt via course) dt s (fun s => s.orPass via (.course course) (fun v s => s.courseHeard v course))

/-- The beacon has been silent for 10 s (R42). -/
def execBeaconSilenceTimeout (dt : Nat) (s : State) : Host.Outcome State Fault Refusal :=
  act (.beaconSilenceTimeout dt) dt s (fun s => s.beaconSilent)

end Sys2Proof.Machine
end

