-- ==== Sys2Proof/Machine/Batch.lean ====
section
/-! DEFINITION. Batches that arrive on a gateway port (R325). -/

namespace Sys2Proof.Machine
namespace State

/-- One inner packet is handled as if it had entered on a peer port. -/
def innerPacket (s : State) (p : Nat) (x : Inner) : State :=
  let v := Via.batch p
  match x with
  | .onward t x => if s.isSelf t.dst then s.innerPacket p x else s.passOn p t x
  | .mem .bput q => s.bputSegment { q with via := v }
  | .mem op q => s.receive op { q with via := v }
  | .caprel src sid job tag status => s.caprelArrive v src sid job tag status
  | .rsp r => s.response { r with port := p }
  | .bdata r => s.segment { r with port := p }
  | .bdone r => s.response { r with port := p }
  | .srsp r => s.snoopReply { r with via := v }
  | .submit cls j => s.submitJob cls { j with via := v }
  | .forwarded src sid cls j => s.jobForwarded src sid cls { j with via := v }
  | .part x => s.partArrive { x with via := v }
  | .partAnswer x => s.partAnswered { x with via := v }
  | .rowUpdate x => s.rowArrive { x with via := v }
  | .spaceRequest src c ga => s.spaceRequested src c ga
  | .integrity op m =>
      let m := { m with via := v }
      (match op with
      | 1 => s.confirmMsg m
      | 2 => s.retractMsg m
      | 3 => s.jobEndMsg m
      | 4 => s.commitMsg m
      | _ => s.countMalformed v)   -- a reserved op (R215)
  | .invalidation src op c seq addr pages => s.invalidate v src op c seq addr pages
  | .invalidationAck src seq => s.invAcknowledge v src seq
  | .hint _ d => s.hintMsg v d
  | .pub q region version node => s.publish { q with via := v } region version node
  | .spaceAnswer src ga accept => s.spaceAnswered src ga accept
  | .frameRequest src t n ga => s.frameRequested src t n ga
  | .frameAnswer src t n _ accept => s.frameAnswered src t n accept
  | .fencePlaced src ga pages => s.fencePlaced src ga pages
  | .fenceDone src ga pages drops => s.fenceReported src ga pages drops
  | .portState src node up rcvd => s.portStateMsg src node up rcvd
  | .course n => s.courseHeard v n

/-- A batch arrives (R325): one already acknowledged is discarded. -/
def batchArrive (s : State) (p near bseq vc units : Nat) (inner : List Inner) : State :=
  let s := s.portArrival p vc (4 + units)
  if s.roleOf p != 4 || s.fab.acked.contains (near, bseq) then s
  else
    let s := inner.foldl (fun s x => s.innerPacket p x) s
    { s with fab.acked := s.fab.acked ++ [(near, bseq)] }.control near 0 (.batchAck bseq)

end State

/-- A batch (R325). -/
def execBatch (dt : Nat) (p near bseq vc units : Nat) (inner : List Inner) (s : State) : Host.Outcome State Fault Refusal :=
  act (.batch dt p near bseq vc units inner) dt s (fun s => s.batchArrive p near bseq vc units inner)

end Sys2Proof.Machine
end

