-- ==== Sys2Proof/Machine/Management.lean ====
section
/-! DEFINITION. Announcements (R440), MCTP control (R441), management ports (R434) and the monitors of rails, junctions
and clocks (R491, R495, R497). -/

namespace Sys2Proof.Machine
namespace State

/-! ### Announcements (R440) -/

/-- A subscriber's ack: the record's sequence bits and its place in the ring name it. -/
def announceAcked (s : State) (sub tag idx : Nat) : State :=
  { s with mgm.announces := s.mgm.announces.filter (fun a => !(a.sub == sub && a.seq % 65536 == tag && 0x6800 + a.seq % 256 == idx)) }

/-- One second without an ack: the announcement goes again, until it has been sent eight times. -/
def announceAgain (s : State) (sub seq : Nat) : State :=
  match s.mgm.announces.find? (fun a => a.sub == sub && a.seq == seq) with
  | none => s
  | some a =>
      if 8 ≤ a.sends then { s with mgm.announces := s.mgm.announces.filter (fun x => !(x.sub == sub && x.seq == seq)) }.count .west 0x4110 3
      else
        let up := fun (x : Announce) => if x.sub == sub && x.seq == seq then { x with sends := x.sends + 1 } else x
        { s with mgm.announces := s.mgm.announces.map up }.emit (.announce (if s.mgm.ports.1.up then 0 else 1) sub seq)

/-! ### MCTP control (R441) -/

/-- The I3C target answers MCTP from the end of phase 0x02, and in recovery (R405, R483). -/
def mctpHeard (s : State) : Bool := (3 ≤ s.phase && s.phase ≤ 0xA) || s.phase == 0xF0

def mctp (s : State) (f : State → State) : State := if s.mctpHeard then f (s.count .west 0x1102 3) else s

/-- Set Endpoint ID: 0 and 0xFF name no endpoint. -/
def setEid (s : State) (src eid : Nat) : State :=
  if eid == 0 || eid == 0xFF then s.emit (.mctp src 1 2 [])
  else { s with mgm.eid := eid }.emit (.mctp src 1 0 (le 1 0 ++ le 1 eid ++ le 1 0))

def getEid (s : State) (src : Nat) : State := s.emit (.mctp src 2 0 (le 1 s.mgm.eid ++ le 1 0 ++ le 1 0))

/-- The version of a message type's specification; the manual gives none, so the number is free. -/
def mctpVersion (s : State) (src typ : Nat) : State :=
  if typ == 0 || typ == 5 || typ == 0x7F || typ == 0xFF then
    let (v, s) := s.drawFree
    s.emit (.mctp src 4 0 (le 1 1 ++ le 4 v))
  else s.emit (.mctp src 4 0x80 [])

def mctpTypes (s : State) (src : Nat) : State := s.emit (.mctp src 5 0 (le 1 3 ++ le 1 0 ++ le 1 5 ++ le 1 0x7F))

/-! ### Management ports (R434, R440) -/

/-- The link of a port changes; before phase 0x03 the ports are silent (R483). -/
def mgmtLink (s : State) (p : Nat) (up gigabit : Bool) : State :=
  if s.phase < 3 then s
  else
    let x : MPort := ⟨up, up && gigabit⟩
    if p == 0 then { s with mgm.ports := (x, s.mgm.ports.2) } else { s with mgm.ports := (s.mgm.ports.1, x) }

/-! ### Monitors (R491, R495) -/

/-- Nominal voltage of each rail in mV. -/
def railNominal : List Nat := [1800, 750, 700, 1050, 750, 900, 1800]

/-- More than 3% from nominal. -/
def railOut (i mv : Nat) : Bool :=
  let n := railNominal.getD i 0
  mv * 100 < n * 97 || n * 103 < mv * 100

def hottest (l : List Int) (old : Int) : Int :=
  match l with
  | [] => old
  | x :: t => t.foldl max x

/-- An excursion: counted, and recorded (class 0x17). -/
def excursion (s : State) (h : Half) (idx : Nat) : State :=
  (s.count h 0x4120 0xC).gutter h 0x17 0x0F idx 0x09 (severity := 3)

/-- A sample of every rail, junction sensor and the package power. Limits are in mV and tenths of a degree. -/
def sample (s : State) (rails : List (Nat × Nat)) (junctions : List Int) (power : Nat) : State :=
  let outs := (rails.zipIdx).map (fun r => railOut r.2 r.1.1)
  let overs := (outs.zipIdx).map (fun o => if o.1 then min 10 (s.mon.overs.getD o.2 0 + 1) else 0)
  let fresh := (overs.zipIdx).filter (fun o => o.1 == 10 && s.mon.overs.getD o.2 0 == 9)
  let hot := junctions.any (fun j => decide (1000 < j))
  let goodRails := if outs.any id then 0 else min 1000 (s.mon.goodRails + 1)
  let goodHeat := if hot then 0 else min 1000 (s.mon.goodHeat + 1)
  let was := s.mon.thermBit
  let west := junctions.take 32
  let s := { s with mon.rails := rails, mon.power := power, mon.overs := overs, mon.goodRails := goodRails, mon.goodHeat := goodHeat,
                    mon.hotWest := hottest west s.mon.hotWest, mon.hotEast := hottest (junctions.drop 32) s.mon.hotEast,
                    mon.railBit := overs.contains 10 || (s.mon.railBit && goodRails != 1000),
                    mon.thermBit := hot || (was && goodHeat != 1000), mon.therm := hot || (was && goodHeat != 1000),
                    mon.trip := s.mon.trip || junctions.any (fun j => decide (1150 ≤ j)) }
  let s := fresh.foldl (fun s o => s.excursion .west o.2) s
  if hot && !was then
    let k := (junctions.findIdx (fun j => decide (1000 < j)))
    s.excursion (halfIf (k < 32)) (7 + k)
  else s

/-! ### Reference clock (R497) -/

/-- The reference is lost: holdover; an end that lost its frame alignment changes width at unchanged width. -/
def clockLost (s : State) (west east : Bool) : State :=
  if s.mon.holdover then s
  else
    let s := { s with mon.holdover := true }.gutter s.holder 0x16 0x0E 0 0x09 (severity := 3)
    let realign := fun (h : Half) (lost : Bool) (s : State) =>
      if lost && s.endUp h then
        let s := (s.modGeled h (fun g => { g with st := 2, inits := 0 })).count h 0x40B0 4
        if s.endUp h.other then s else { s with gel.downSince := some (s.gel.downSince.getD s.now) }
      else s
    realign .east east (realign .west west s)

end State

/-- A subscriber's ack (R440). -/
def execAnnounceAck (dt : Nat) (sub tag idx : Nat) (s : State) : Host.Outcome State Fault Refusal :=
  act (.announceAck dt sub tag idx) dt s (fun s => s.announceAcked sub tag idx)

/-- An announcement is still unacknowledged (R440). -/
def execAnnounceResend (dt : Nat) (sub seq : Nat) (s : State) : Host.Outcome State Fault Refusal :=
  act (.announceResend dt sub seq) dt s (fun s => s.announceAgain sub seq)

/-- Set Endpoint ID (R441). -/
def execSetEndpointId (dt : Nat) (src eid : Nat) (s : State) : Host.Outcome State Fault Refusal :=
  act (.setEndpointId dt src eid) dt s (fun s => s.mctp (fun s => s.setEid src eid))

/-- Get Endpoint ID (R441). -/
def execGetEndpointId (dt : Nat) (src : Nat) (s : State) : Host.Outcome State Fault Refusal :=
  act (.getEndpointId dt src) dt s (fun s => s.mctp (fun s => s.getEid src))

/-- Get MCTP Version Support (R441). -/
def execGetMctpVersionSupport (dt : Nat) (src typ : Nat) (s : State) : Host.Outcome State Fault Refusal :=
  act (.getMctpVersionSupport dt src typ) dt s (fun s => s.mctp (fun s => s.mctpVersion src typ))

/-- Get Message Type Support (R441). -/
def execGetMessageTypeSupport (dt : Nat) (src : Nat) (s : State) : Host.Outcome State Fault Refusal :=
  act (.getMessageTypeSupport dt src) dt s (fun s => s.mctp (fun s => s.mctpTypes src))

/-- The controller gives the target its dynamic address (R441); before phase 0x02 I3C is silent (R473). -/
def execI3cDynamicAddress (dt : Nat) (addr : Nat) (s : State) : Host.Outcome State Fault Refusal :=
  act (.i3cDynamicAddress dt addr) dt s (fun s => if s.phase < 2 then s else { s with mgm.dynAddr := addr })

/-- A management port's link changes (R434, R440). -/
def execManagementPortLinkChange (dt : Nat) (p : Nat) (up gigabit : Bool) (s : State) : Host.Outcome State Fault Refusal :=
  act (.managementPortLinkChange dt p up gigabit) dt s (fun s => s.mgmtLink p up gigabit)

/-- The monitors' sample (R495). -/
def execMonitorSample (dt : Nat) (rails : List (Nat × Nat)) (junctions : List Int) (power : Nat) (s : State) :
    Host.Outcome State Fault Refusal :=
  act (.monitorSample dt rails junctions power) dt s (fun s => s.sample rails junctions power)

/-- The reference clock is lost (R497). -/
def execReferenceClockLost (dt : Nat) (lostWest lostEast : Bool) (s : State) : Host.Outcome State Fault Refusal :=
  act (.referenceClockLost dt lostWest lostEast) dt s (fun s => s.clockLost lostWest lostEast)

/-- The reference clock has been back for 1 ms (R497). -/
def execReferenceClockReturn (dt : Nat) (s : State) : Host.Outcome State Fault Refusal :=
  act (.referenceClockReturn dt) dt s (fun s => { s with mon.holdover := false })

end Sys2Proof.Machine
end

