-- ==== Sys2Proof/Machine/Registers.lean ====
section
/-! DEFINITION. The register windows (R301, R455 to R472): what every register shows, and the effects of writes. -/

namespace Sys2Proof.Machine

/-- What an offset reaches: the slot, and the position in it that the decoded bits give (R460, R461). -/
def regSlot (off : Nat) : Nat := off / 65536 % 256

def regMask (slot : Nat) : Nat := if slot == 0 then 0x7C else if 0x10 ≤ slot && slot ≤ 0x16 then 0xFFC else 0xC

def regPos (off : Nat) : Nat := (off % 65536) &&& regMask (regSlot off)

/-- Whether a slot is decoded (R460, R462). -/
def slotDecoded (slot : Nat) : Bool := slot == 0 || (0x10 ≤ slot && slot ≤ 0x16) || (0x20 ≤ slot && slot ≤ 0x60)

/-- Objects at the positions of a holding block (R467). -/
def holdingIndex (h : Half) (slot k : Nat) : Option Nat :=
  match slot with
  | 0x10 => if k == 0 then none else ([0x4020, 0x4030, 0x4040, 0x4041, 0x4042] : List Nat)[k - 1]?
  | 0x11 => ([0x4050, 0x4060, 0x4070] : List Nat)[k]?
  | 0x12 => ([0x4080, 0x4090, 0x40A0] : List Nat)[k]?
  | 0x13 => ([0x40B0, 0x40C0, 0x40F0, 0x4110] : List Nat)[k]?
  | 0x14 => if k < 16 then some (0x40D0 + 16 * h.num + k) else none
  | 0x15 => if k < 9 then some (0x4140 + 9 * h.num + k) else none
  | 0x16 => if k < 5 then some (0x4100 + 4 * h.num + k) else none
  | _ => none

/-- Every object and subindex that a half's holding blocks map. -/
def heldObjects (h : Half) : List (Nat × Nat) :=
  let indices := (([0x10, 0x11, 0x12, 0x13, 0x14, 0x15, 0x16] : List Nat).map (fun slot => (List.range 16).filterMap (holdingIndex h slot))).flatten
  (indices.map (fun i => (List.range 32).filterMap (fun k => if (findObj (statusA ++ statusB) i (k + 1)).isSome then some (i, k + 1) else none))).flatten

/-- Bits of a word. -/
def word (parts : List (Nat × Nat × Nat)) : Nat := parts.foldl (fun n p => n + p.2.2 % 2 ^ p.2.1 * 2 ^ p.1) 0

namespace State

/-! ### What the registers show -/

/-- HID (R463). -/
def regHid (s : State) (h : Half) (pos : Nat) : Nat :=
  let x := s.half h
  let r := x.regs
  match pos / 4 with
  | 0 => word [(0, 1, h.num), (4, 8, stepping), (16, 16, 0x0B33)]
  | 1 => s.nodeNum % 2 ^ 14
  | 2 => word [(0, 8, r.shownPhase), (8, 2, r.shownDomain), (10, 1, r.shownHolder.num), (11, 1, ofBool (!s.avl.purlinUp)),
               (12, 1, ofBool (!x.running)), (13, 1, ofBool r.farRst), (16, 3, s.enc.st), (19, 1, ofBool s.crs.silent), (20, 3, s.mgm.update),
               (31, 1, ofBool (r.evtStat &&& r.evtMask != 0))]
  | 3 => r.scratch0.toNat
  | 4 => r.scratch1.toNat
  | 6 => word [(1, 1, ofBool r.pair), (2, 1, ofBool r.single)]
  | 7 => r.snapSeq
  | 8 => r.evtStat.toNat
  | 9 => r.evtMask.toNat
  | 10 => r.badacc
  | _ => 0

/-- A holding block (R467, R468). -/
def regHolding (s : State) (h : Half) (slot pos : Nat) : Nat :=
  let r := (s.half h).regs
  let k := pos / 256
  let v := if slot == 0x10 && k == 0 then
      (match pos % 256 / 8 with
      | 0 => r.snapSeq
      | 1 => if r.snapSeq == 0 then 0 else r.snapCourse
      | 2 => r.snapStamp
      | 3 => if r.snapSeq == 0 then 0 else h.num
      | _ => 0)
    else match holdingIndex h slot k with
      | some i => tgetD (i, pos % 256 / 8 + 1) 0 r.holding
      | none => 0
  if pos % 8 == 0 then v % 2 ^ 32 else v / 2 ^ 32 % 2 ^ 32

def engCode : EngClass → Nat
  | .tile => 1
  | .yealm => 2
  | .update => 3

/-- Job-local sequence number of a descriptor (R119, R155, R177). -/
def descSeq (e : Engine) (d : Bytes) : Nat := if e.cls = .tile then field 8 4 d else field 4 4 d

/-- An engine block (R471). -/
def regEngine (s : State) (e : Engine) (pos : Nat) : Nat :=
  let g := s.engOf e
  match pos / 4, g.run with
  | 0, r => word [(0, 3, g.state), (3, 1, ofBool r.isSome), (4, 2, engCode e.cls), (8, 8, min g.queue.length 255), (16, 5, e.idx)]
  | 1, some w => word [(0, 16, w.job), (16, 10, w.ctx), (31, 1, 1)]
  | 2, some w => descSeq e w.desc
  | 3, _ => if g.passCourse == noCourse then 0 else g.passCourse % 2 ^ 32
  | _, none => 0
  | _, _ => 0

/-- A memory controller block (R471). -/
def regMemory (s : State) (k pos : Nat) : Nat :=
  let x := tgetD k {} s.near.stackRecs
  match pos / 4 with
  | 0 => word [(0, 1, ofBool x.spare.isSome), (1, 6, x.spare.getD 0), (7, 1, ofBool x.copying), (8, 1, ofBool (s.cfgBit (stackHalf k) 0x20F0 1 0)),
               (9, 6, x.retired.length)]
  | 1 => min 4095 (s.rdg.blocked.filter (fun b => stackOf b.2.off == k)).length
  | 2 => x.scrub % 2 ^ 25
  | _ => 0

/-- Bit map of a port's nine lanes in some of the states. -/
def laneMap (s : State) (lanes : List Nat) (p : Nat → Bool) : Nat :=
  (lanes.zipIdx).foldl (fun n x => if p (s.lane x.1).st then n + 2 ^ x.2 else n) 0

/-- A fabric port block (R471). -/
def regPort (s : State) (p pos : Nat) : Nat :=
  let t := s.port p
  match pos / 4 with
  | 0 => word [(0, 3, s.roleOf p), (3, 1, ofBool t.link.up), (4, 1, ofBool t.relay), (5, 1, ofBool t.mismatch), (6, 4, t.link.width), (16, 8, t.health.score)]
  | 1 => word [(0, 14, t.farNode), (16, 3, t.farRole), (31, 1, ofBool t.farValid)]
  | 2 => word [(0, 4, s.loadNow), (4, 4, (s.node t.farNode).ld), (8, 1, ofBool (!t.queue.isEmpty))]
  | _ =>
      let l := linkLanes (.port p)
      word [(0, 9, s.laneMap l (· == 3)), (9, 9, s.laneMap l (· == 2)), (18, 9, s.laneMap l (fun x => x == 4 || x == 5))]

/-- A Geled end block (R471). -/
def regEnd (s : State) (h : Half) (pos : Nat) : Nat :=
  let g := s.geled h
  match pos / 4 with
  | 0 => word [(0, 3, g.st), (3, 1, ofBool g.half), (4, 18, s.laneMap (linkLanes (.geled h)) (fun x => x == 2 || x == 3))]
  | 1 => word [(0, 16, g.sent), (16, 16, g.rcvd)]
  | 2 => word [(0, 16, creditOf g.credits 0), (16, 16, creditOf g.credits 1)]
  | _ => word [(0, 16, creditOf g.credits 2), (16, 16, creditOf g.credits 3)]

/-- The word at an offset of a window: reading changes nothing (R456, R460 to R462). -/
def regRead (s : State) (h : Half) (off : Nat) : BitVec 32 :=
  let slot := regSlot off
  let pos := regPos off
  let i := fun (base n : Nat) => n * h.num + (slot - base)
  BitVec.ofNat 32 (
    if slot == 0 then s.regHid h pos
    else if 0x10 ≤ slot && slot ≤ 0x16 then s.regHolding h slot pos
    else if 0x20 ≤ slot && slot ≤ 0x27 then s.regEngine ⟨.tile, i 0x20 8⟩ pos
    else if 0x28 ≤ slot && slot ≤ 0x37 then s.regEngine ⟨.yealm, i 0x28 16⟩ pos
    else if 0x38 ≤ slot && slot ≤ 0x47 then s.regEngine ⟨.update, i 0x38 16⟩ pos
    else if 0x48 ≤ slot && slot ≤ 0x4F then s.regMemory (i 0x48 8) pos
    else if 0x50 ≤ slot && slot ≤ 0x5F then s.regPort (i 0x50 16) pos
    else if slot == 0x60 then s.regEnd h pos
    else 0)

/-! ### Writes (R456, R465, R466) -/

def modRegs (s : State) (h : Half) (f : Regs → Regs) : State := s.modHalf h (fun x => { x with regs := f x.regs })

/-- Copy every mapped object of a half into its holding registers (R466, R468). -/
def snapHalf (s : State) (h : Half) (seq : Nat) (pair single : Bool) : State :=
  let vals := (heldObjects h).map (fun o => (o, s.statusPart h o.1 o.2))
  (s.modRegs h (fun r => { r with holding := vals, snapSeq := seq, pair := pair, single := single, snapCourse := s.courseOf h, snapStamp := s.now })).raiseEvt h 12

/-- The next snapshot sequence: it wraps to 1. -/
def nextSnap (n : Nat) : Nat := if n + 1 ≥ 2 ^ 32 then 1 else n + 1

/-- A snapshot of one half, or of both (R466). -/
def snapshot (s : State) (h : Half) (both : Bool) : State :=
  if both && s.avl.purlinUp then
    let q := nextSnap (max s.west.regs.snapSeq s.east.regs.snapSeq)
    (s.snapHalf .west q true false).snapHalf .east q true false
  else s.snapHalf h (nextSnap (s.half h).regs.snapSeq) false both

/-- A write that nothing takes (R456, R462). -/
def badWrite (s : State) (h : Half) : State := s.modRegs h (fun r => { r with badacc := min (r.badacc + 1) (2 ^ 32 - 1) })

/-- A write of a word of a window: each field takes it by its own access code. -/
def regWrite (s : State) (h : Half) (off : Nat) (v : BitVec 32) : State :=
  let slot := regSlot off
  if slot != 0 then s.badWrite h
  else match regPos off / 4 with
    | 3 => s.modRegs h (fun r => { r with scratch0 := v })
    | 4 => s.modRegs h (fun r => { r with scratch1 := v })
    | 5 => if v.getLsbD 0 then s.snapshot h (v.getLsbD 1) else s
    | 8 => s.modRegs h (fun r => { r with evtStat := r.evtStat &&& ~~~v })
    | 9 => s.modRegs h (fun r => { r with evtMask := v &&& 0x3FFF#32 })
    | _ => s.badWrite h

/-- A register write message (R301, R455): its access, and its response on the end it came by, which carries none before it is Up
(R472). -/
def regMessage (s : State) (e : Half) (hv : Bool) (tag : Nat) (win : Half) (f : State → State) : State :=
  if !s.endUp e then s
  else if !hv then s.toCompanion e hv (.register tag .rightsFault 0)
  else if win ≠ e && !s.avl.purlinUp then s.toCompanion e hv (.register tag .nodeUnreachable 0)
  else ((f s).count e 0x40B0 0xA).toCompanion e hv (.register tag .ok 0)

/-- A register read message: nothing changes but its count (R301, R456). -/
def regReadMessage (s : State) (e : Half) (hv : Bool) (tag : Nat) (win : Half) (off : Nat) : State :=
  if !s.endUp e then s
  else if !hv then s.toCompanion e hv (.register tag .rightsFault 0)
  else if win ≠ e && !s.avl.purlinUp then s.toCompanion e hv (.register tag .nodeUnreachable 0)
  else (s.count e 0x40B0 0xA).toCompanion e hv (.register tag .ok (s.regRead win off))

end State

/-- A register write (R456). -/
def execRegisterWrite (dt : Nat) (e : Half) (hv : Bool) (tag : Nat) (win : Half) (off : Nat) (data : BitVec 32) (s : State) :
    Host.Outcome State Fault Refusal :=
  act (.registerWrite dt e hv tag win off data) dt s (fun s => s.regMessage e hv tag win (fun s => s.regWrite win off data))

/-- SNAP_CTL with go (R466). -/
def execSnapshot (dt : Nat) (e : Half) (hv : Bool) (tag : Nat) (win : Half) (s : State) : Host.Outcome State Fault Refusal :=
  act (.snapshot dt e hv tag win) dt s (fun s => s.regMessage e hv tag win (fun s => s.regWrite win 0x14 1))

/-- SNAP_CTL with go and both (R466). -/
def execSnapshotBoth (dt : Nat) (e : Half) (hv : Bool) (tag : Nat) (win : Half) (s : State) : Host.Outcome State Fault Refusal :=
  act (.snapshotBoth dt e hv tag win) dt s (fun s => s.regMessage e hv tag win (fun s => s.regWrite win 0x14 3))

/-- EVT_STAT (R465). -/
def execEvtStatClear (dt : Nat) (e : Half) (hv : Bool) (tag : Nat) (win : Half) (data : BitVec 32) (s : State) :
    Host.Outcome State Fault Refusal :=
  act (.evtStatClear dt e hv tag win data) dt s (fun s => s.regMessage e hv tag win (fun s => s.regWrite win 0x20 data))

end Sys2Proof.Machine
end

