-- ==== Sys2Proof/Machine/Dictionary.lean ====
section
/-! DEFINITION. The dictionary read, described and written by index (R427 to R442, R448): the value of every object,
the effect of a write of any object, and the mailbox (R302). -/

namespace Sys2Proof.Machine
namespace State

/-! ### Values by group -/

/-- Identity (R433). -/
def identityValue (s : State) (sub : Nat) : Bytes :=
  match sub with
  | 1 => ascii "BG-YX3-1536"
  | 2 => le 1 0x20
  | 3 => fitTo 12 Config.lotSerial
  | 4 => ascii "BRODGABRY"
  | 5 => le 2 Config.dateCode
  | 6 => le 4 1001004
  | 7 => le 2 s.nodeNum
  | 8 => le 1 s.phase
  | _ => le 4 0x10000

/-- Communication status (R434). The global address is the static one; no rule gives a router's prefix. -/
def commValue (s : State) (index sub : Nat) : Bytes :=
  if index == 0x1102 then
    (match sub with
    | 1 => le 1 s.mgm.dynAddr
    | 2 => le 1 s.mgm.eid
    | _ => le 8 (s.countVal index sub))
  else
    let i := index - 0x1100
    let p := if i == 0 then s.mgm.ports.1 else s.mgm.ports.2
    match sub with
    | 1 => le 1 (ofBool p.up + 2 * ofBool p.gigabit)
    | 2 => fitTo 6 (Config.macAddress i)
    | 3 => fitTo 16 (Config.linkLocal i)
    | 4 => s.effectBytes (0x2010 + i) 2
    | 7 => le 4 (s.countVal index sub)
    | _ => le 8 (s.countVal index sub)

/-- Slate control (R448). -/
def slateControlValue (s : State) (sub : Nat) : Bytes :=
  match sub with
  | 1 => le 1 s.slt.active
  | 2 => le 4 s.slt.seq
  | 3 => le 1 s.slateCode
  | 4 => le 8 (s.slt.scheduled.getD noCourse)
  | 5 => le 1 s.slt.report
  | _ => le 4 s.slt.ignored

/-- A context descriptor (R49, R83, R336). -/
def ctxValue (s : State) (c sub : Nat) : Bytes :=
  let x := s.ctx c
  match sub with
  | 1 => le 1 (if c == 0 then 1 else ofBool x.on)
  | 2 => le 8 x.s1root
  | 3 => le 1 x.s1geo
  | 4 => le 8 x.s2root
  | 5 => le 1 x.s2geo
  | 6 => le 8 x.mask
  | 9 => le 4 x.lastFault
  | 0xA => le 8 x.lastVa
  | 0xB => le 4 x.faults
  | 0x10 => le 4 x.nearQuota
  | 0x11 => le 4 (s.nearUsed c)
  | 0x12 => le 4 (s.spacePages c)
  | 0x13 => le 4 (s.copiesHeld c)
  | 0x14 => le 4 x.bulkQuota
  | 0x15 => le 4 x.bulkUsed
  | 0x16 => le 1 x.flags
  | 0x17 => le 4 x.promRefused
  | _ => le 2 x.bucketRate

/-- An extent record (R68). -/
def extentValue (s : State) (n sub : Nat) : Bytes :=
  let x := s.extent n
  match sub with
  | 1 => le 1 x.state
  | 2 => le 2 x.ctx
  | 3 => le 8 x.base
  | 4 => le 4 x.pages
  | 5 => le 2 x.grantNode
  | 6 => le 2 x.revokeNode
  | 7 => le 4 x.late
  | _ => le 1 x.path

/-- A region record (R80). -/
def regionValue (s : State) (r sub : Nat) : Bytes :=
  match tget r s.plc.regions with
  | none => zeros (match sub with
      | 1 => 1
      | 2 => 2
      | 3 => 8
      | _ => 4)
  | some x =>
      match sub with
      | 1 => le 1 (match x.drain with
        | none => x.cls
        | some cls => 0x80 + cls)
      | 2 => le 2 x.ctx
      | 3 => le 8 x.base
      | 4 => le 4 x.pages
      | _ => le 4 (s.regionCopies x)

/-- A fallback record (R102). -/
def fallbackValue (s : State) (k sub : Nat) : Bytes :=
  let x := tgetD k ⟨0, 0, 0, 0, 0⟩ s.plc.fallbacks
  match sub with
  | 1 => le 1 (ofBool (thas k s.plc.fallbacks))
  | 2 => le 2 x.ctx
  | 3 => le 8 x.base
  | 4 => le 4 x.pages
  | 5 => le 8 x.copy
  | _ => le 1 x.ratio

/-- A table record (R115). -/
def tableValue (s : State) (n sub : Nat) : Bytes :=
  let len := match sub with
    | 2 | 7 | 9 => 2
    | 3 | 0xB | 0xC | 0xD => 4
    | 4 | 0xA => 8
    | _ => 1
  match tget n s.ylx.tables with
  | none => zeros len
  | some t =>
      le len (match sub with
        | 1 => t.state
        | 2 => t.ctx
        | 3 => t.tag
        | 4 => t.rows
        | 5 => t.rowlog
        | 6 => t.fmt
        | 7 => t.dim
        | 8 => t.flags
        | 9 => t.shards.length
        | 0xA => t.spillBase
        | 0xB => t.frames
        | 0xC => (s.ylx.spills.filter (fun f => f.1.1 == n)).length
        | _ => (s.ylx.moves.filter (fun m => m.t == n)).length)

/-- An agent record (R240). -/
def agentValue (s : State) (a : Nat) : Bytes :=
  let g := tgetD a {} s.rdg.agents
  le 1 g.state ++ zeros 1 ++ le 2 g.node ++ le 2 g.tag ++ le 2 (min g.timeouts 65535) ++ le 8 g.snoops

/-- A publication region's record (R260). -/
def pubValue (s : State) (p : Nat) : Bytes :=
  match tget p s.rdg.regions with
  | none => zeros 27
  | some r => le 1 1 ++ le 2 r.ctx ++ le 8 r.base ++ le 4 r.pages ++ le 4 r.version ++ le 4 r.accepted ++ le 4 r.conflicts

/-- State of a key slot (R417, R425). -/
def slotState (x : Slot) : Nat :=
  if x.key.isNone then 0 else if x.last == lastCounter then 3 else if x.throttle.isSome then 2 else 1

/-- Security objects (R425). -/
def securityValue (s : State) (index sub : Nat) : Bytes :=
  if index == 0x5000 then
    (match sub with
    | 1 => le 1 s.enc.st
    | 2 => le 8 Config.uid
    | 3 => le 1 (ofBool s.approved)
    | 4 => le 1 (ofBool s.owned)
    | 5 => le 1 s.enc.debug
    | 6 => le 4 s.enc.version
    | 7 => le 2 s.enc.svn
    | 8 => le 2 s.fuse.minSvn
    | 9 => le 1 (s.enc.active + 0x80 * ofBool (s.bank s.inactiveBank).verified)
    | 0xA => le 1 (s.fuse.revoke % 16)
    | 0xB => le 4 (lmsLeaves - s.enc.lmsNext)
    | 0x10 => le 1 0
    | _ => le 4 (s.countVal index sub))
  else
    let x := s.slot (index - 0x5100)
    match sub with
    | 1 => le 1 (slotState x)
    | 2 => le 1 (if x.key.isNone then 0 else s.scopeOf (index - 0x5100))
    | 3 => le 8 x.last
    | 4 => le 4 x.fails
    | _ => le 4 x.kcv

/-- Gutter sequence numbers and the ring (R392, R396). -/
def ringValue (s : State) (index sub : Nat) : Bytes :=
  if index == 0x6000 then
    (match sub with
    | 1 => le 4 s.mgm.nextSeq
    | 2 => le 4 s.oldestGutter
    | _ => le 4 (s.countVal index sub))
  else match tget (index - 0x6800) s.mgm.ring with
    | some r => s.gutterBytes r
    | none => []

/-- The value of an object that has one; a command object reads as a zero-length value (R429). -/
def objectValue (s : State) (o : Obj) (index sub : Nat) : Bytes :=
  if sub == 0 && !(0x6800 ≤ index && index ≤ 0x68FF) then le 1 o.dflt
  else if index == 0x1000 then s.identityValue sub
  else if index < 0x2000 then s.commValue index sub
  else if index ≤ 0x2EFF then s.effectBytes index sub
  else if index == 0x2F00 then s.slateControlValue sub
  else if 0x3000 ≤ index && index ≤ 0x33FF then s.ctxValue (index - 0x3000) sub
  else if 0x3400 ≤ index && index ≤ 0x37FF then s.extentValue (index - 0x3400) sub
  else if 0x3800 ≤ index && index ≤ 0x3BFF then tgetD (index - 0x3800) [] s.spc.reports
  else if 0x3C00 ≤ index && index ≤ 0x3DFF then s.regionValue (index - 0x3C00) sub
  else if 0x3E00 ≤ index && index ≤ 0x3EFF then s.fallbackValue (index - 0x3E00) sub
  else if 0x3F40 ≤ index && index ≤ 0x3FBF then s.tableValue (index - 0x3F40) sub
  else if index == 0x3FD0 then s.agentValue (sub - 1)
  else if index == 0x3FE0 then s.pubValue (sub - 1)
  else if 0x4000 ≤ index && index ≤ 0x4FFF then le o.ty.len (s.statusValue index sub)
  else if 0x5000 ≤ index && index ≤ 0x51FF then s.securityValue index sub
  else if index == 0x6000 || (0x6800 ≤ index && index ≤ 0x68FF) then s.ringValue index sub
  else if 0x6100 ≤ index && index ≤ 0x6142 then le 8 (s.healthValue index sub)
  else []

/-! ### Reads and descriptions (R436, R437) -/

/-- A gutter record that has been read (R392). -/
def markRead (s : State) (index : Nat) : State :=
  match (if 0x6800 ≤ index && index ≤ 0x68FF then tget (index - 0x6800) s.mgm.ring else none) with
  | some r => { s with mgm.ring := tput (index - 0x6800) { r with readBy := true } s.mgm.ring }
  | none => s

/-- Keep a reply and send it. -/
def answerRead (s : State) (p : Pdu) (kind index sub : Nat) (r : WReply) : State :=
  (s.keepReply p kind index sub (some r)).sendWaest p r

/-- A description (R436): 16 bytes. -/
def describe (o : Obj) : Bytes :=
  let plain := o.ty == .str || o.ty == .domain
  le 1 o.ty.code ++ le 1 o.acc.code ++ zeros 2 ++ le 4 o.ty.len ++ le 8 (if plain then 0 else o.dflt)

/-- A read or describe request of an object that this path may read. -/
def readObject (s : State) (p : Pdu) (kind index sub : Nat) (o : Obj) : State :=
  if kind == 3 then s.answerRead p kind index sub (replyPdu p index sub { data := describe o } 0 16)
  else
    let v := s.objectValue o index sub
    let rest := v.drop p.offset
    let part := rest.take (min (pduLimit p) (if p.total == 0 then rest.length else p.total))
    (s.markRead index).answerRead p kind index sub (replyPdu p index sub { data := part } p.offset v.length)

/-- A read (kind 1) or describe (kind 3) PDU (R431, R436 to R439). -/
def dictRead (s : State) (p : Pdu) (kind index sub : Nat) : State :=
  let refuse := fun (s : State) (x : Result) => s.answerRead p kind index sub (replyPdu p index sub x 0 0)
  match s.phaseGate p index sub with
  | .silent => s
  | .refuse x => refuse (s.takePdu p) x
  | .go =>
      let s := s.takePdu p
      if s.phase == 0xF0 then refuse s busy
      else if !pduGood p then refuse (s.countPort p 7) (outcome .translationFault dMalformed)
      else match s.keptReply p kind index sub with
        | some k =>
            (match k.reply with
            | some r => (s.count .west 0x4110 1).sendWaest p r
            | none => s)
        | none =>
            let s := if p.trailer.isSome then s.count .west 0x4110 4 else s
            match objAt index sub with
            | none => refuse s (outcome .translationFault dNoObject)
            | some o =>
                if !mayRead p index then refuse s (outcome .rightsFault dPath) else s.readObject p kind index sub o

/-- 0x2F01.04 (R448). DESIGN CHOICE (log entry 135): of an object outside the slated range, whose value no slate holds, it
completes TRANSLATION_FAULT with detail VALUE. -/
def pendingCmd (d : Bytes) (s : State) : Result × State :=
  let index := field 0 2 d
  let sub := field 2 1 d
  match objAt index sub with
  | none => (outcome .translationFault dNoObject, s)
  | some o =>
      if index < 0x2000 || 0x2EFF < index then (outcome .translationFault dValue, s)
      else ({ data := if sub != 0 then s.pendingBytes index sub else s.objectValue o index sub }, s)

/-! ### Writes by index (R428 to R431) -/

/-- A level or verdict that the command does not carry: a free value (R421, R423). -/
def freeBit (s : State) : Bool × State :=
  let (v, s) := s.drawFree
  (bitOf v 0, s)

/-- Effects of the command objects below 0x3FFF. -/
def tenantEffect (p : Pdu) (index sub : Nat) (d : Bytes) (s : State) : Result × State :=
  match index, sub with
  | 0x3F00, 1 => s.grant d
  | 0x3F00, 2 => revoke p d s
  | 0x3F00, _ => acknowledge d s
  | 0x3F10, _ => shelfGrant d s
  | 0x3F20, 1 => regionCmd d s
  | 0x3F20, 2 => fallbackCmd d s
  | 0x3F20, _ => hintObject p d s
  | 0x3F30, 1 => defineTable d s
  | 0x3F30, _ => freeTable d s
  | 0x3FC0, 1 => reopenJob d s
  | 0x3FC0, 2 => commitCmd p d s
  | 0x3FC0, _ => queryJob d s
  | 0x3FF0, 1 => registerAgent d s
  | 0x3FF0, 2 => deregisterAgent d s
  | 0x3FF0, 3 => setMode d s
  | 0x3FF0, 4 => rebuildCmd p d s
  | 0x3FF0, 5 => defineRegion d s
  | 0x3FF0, _ => freeRegion d s
  | _, _ => ctxWrite (index - 0x3000) sub d s

/-- Effects of the other command objects. -/
def deviceEffect (p : Pdu) (index sub : Nat) (d : Bytes) (s : State) : Result × State :=
  match index, sub with
  | 0x2F01, 2 => slateActivateCmd d s
  | 0x2F01, 3 => slateDiscardCmd d s
  | 0x2F01, _ => s.pendingCmd d
  | 0x5000, _ => (let (b, s) := s.freeBit
                  selfTestCmd b d s)
  | 0x5200, 1 => installCmd d s
  | 0x5200, 2 => revokeKeyCmd d s
  | 0x5200, 3 => releaseCmd d s
  | 0x5200, _ => (let (b, s) := s.freeBit
                  debugCmd b d s)
  | 0x5300, 1 => segmentCmd d s
  | 0x5300, 2 => verifyCmd d s
  | 0x5300, 3 => activateCmd d s
  | 0x5300, _ => commitSvnCmd d s
  | 0x6F00, 1 => testCommand d s
  | 0x6F00, 2 => overrideCommand d s
  | 0x6F00, 3 => admissionCommand d s
  | _, _ => moduleCommand p d s

/-- What a complete value written to an object does. -/
def writeEffect (p : Pdu) (index sub : Nat) (d : Bytes) (s : State) : Result × State :=
  if 0x2000 ≤ index && index ≤ 0x2EFF then slateWrite index sub d s
  else if 0x3000 ≤ index && index ≤ 0x3FFF then tenantEffect p index sub d s
  else deviceEffect p index sub d s

/-! ### The mailbox (R302, R442) -/

/-- The trailer that follows the data (R414, R436). -/
def trailerAt (off : Nat) (b : Bytes) : Trailer := { slot := field off 1 b, counter := field (off + 8) 8 b, tag := slice (off + 16) 32 b }

/-- A PDU in a mailbox message; one whose parts do not fill it is malformed. -/
def parsePdu (path : Path) (src : Nat) (b : Bytes) : Pdu :=
  let n := field 20 2 b
  let flags := field 9 1 b
  let at' := 24 + n + padTo8 n
  let whole := at' + (if bitOf flags 0 then 48 else 0) == b.length && field 10 2 b == 0
  { path := path, src := src, magic := if whole then field 0 2 b else 0, version := field 2 1 b, tag := field 4 2 b, flags := flags,
    offset := field 12 4 b, total := field 16 4 b, data := slice 24 n b,
    trailer := if bitOf flags 0 then some (trailerAt at' b) else none }

/-- A mailbox request: RETRY to a 17th, or the request of its kind. -/
def mailboxAsked (s : State) (e : Half) (hv : Bool) (c tag : Nat) (b : Bytes) : State :=
  let p := parsePdu (.mailbox e hv c) tag b
  let index := field 6 2 b
  let sub := field 8 1 b
  let before := s.mgm.mailbox.length
  if !s.endUp e then s
  else if 16 ≤ s.mgm.mailbox.length then (s.count e 0x40B0 0xB).toCompanion e hv (.mailboxRetry tag)
  else
    let s := { s with mgm.mailbox := s.mgm.mailbox ++ [tag] }
    let s := match field 3 1 b with
      | 1 => s.dictRead p 1 index sub
      | 2 => s.dictWrite p index sub (writeEffect p index sub)
      | 3 => s.dictRead p 3 index sub
      | k => s.dictRead { p with magic := 0 } k index sub
    -- it is held on only while its reply is still to come
    if s.mgm.mailbox.length ≤ before || s.mgm.kept.any (fun k => k.reply.isNone && sameKept k p 2 index sub) then s
    else { s with mgm.mailbox := s.mgm.mailbox.erase tag }

end State

/-- A Waest read (R436). -/
def execWaestRead (dt : Nat) (p : Pdu) (index sub : Nat) (s : State) : Host.Outcome State Fault Refusal :=
  act (.waestRead dt p index sub) dt s (fun s => s.dictRead p 1 index sub)

/-- A Waest describe (R436). -/
def execWaestDescribe (dt : Nat) (p : Pdu) (index sub : Nat) (s : State) : Host.Outcome State Fault Refusal :=
  act (.waestDescribe dt p index sub) dt s (fun s => s.dictRead p 3 index sub)

/-- A write of an object (R428 to R431, R446). -/
def execObjectWrite (dt : Nat) (p : Pdu) (index sub : Nat) (s : State) : Host.Outcome State Fault Refusal :=
  act (.objectWrite dt p index sub) dt s (fun s => s.dictWrite p index sub (State.writeEffect p index sub))

/-- 0x2F01.04 (R448). -/
def execPendingRead (dt : Nat) (p : Pdu) (s : State) : Host.Outcome State Fault Refusal :=
  act (.pendingRead dt p) dt s (fun s => s.dictWrite p 0x2F01 4 (fun d s => s.pendingCmd d))

/-- A mailbox request (R302). -/
def execMailboxRequest (dt : Nat) (e : Half) (hv : Bool) (ctx tag : Nat) (pdu : Bytes) (s : State) :
    Host.Outcome State Fault Refusal :=
  act (.mailboxRequest dt e hv ctx tag pdu) dt s (fun s => s.mailboxAsked e hv ctx tag pdu)

end Sys2Proof.Machine
end

