-- ==== Sys2Proof/Machine/Dispatch.lean ====
section
/-! DEFINITION. The commands' meanings, one arm per row of spec/opcode_table.json. -/

namespace Sys2Proof.Machine

def exec (i : Instr) (s : State) : Host.Outcome State Fault Refusal :=
  match i with
  | .courseBeaconEdge dt => Sys2Proof.Machine.execCourseBeaconEdge dt s
  | .courseMessage dt via course => Sys2Proof.Machine.execCourseMessage dt via course s
  | .beaconSilenceTimeout dt => Sys2Proof.Machine.execBeaconSilenceTimeout dt s
  | .contextDescriptorWrite dt c sub p => Sys2Proof.Machine.execContextDescriptorWrite dt c sub p s
  | .read dt q => Sys2Proof.Machine.execRead dt q s
  | .write dt q => Sys2Proof.Machine.execWrite dt q s
  | .walkReadResponse dt r => Sys2Proof.Machine.execWalkReadResponse dt r s
  | .mismatchRecordExpiry dt h src sid tag block => Sys2Proof.Machine.execMismatchRecordExpiry dt h src sid tag block s
  | .add dt q => Sys2Proof.Machine.execAdd dt q s
  | .smin dt q => Sys2Proof.Machine.execSmin dt q s
  | .smax dt q => Sys2Proof.Machine.execSmax dt q s
  | .umin dt q => Sys2Proof.Machine.execUmin dt q s
  | .umax dt q => Sys2Proof.Machine.execUmax dt q s
  | .and dt q => Sys2Proof.Machine.execAnd dt q s
  | .or dt q => Sys2Proof.Machine.execOr dt q s
  | .xor dt q => Sys2Proof.Machine.execXor dt q s
  | .swap dt q => Sys2Proof.Machine.execSwap dt q s
  | .cas dt q => Sys2Proof.Machine.execCas dt q s
  | .fadd dt q => Sys2Proof.Machine.execFadd dt q s
  | .vadd dt q => Sys2Proof.Machine.execVadd dt q s
  | .bget dt q => Sys2Proof.Machine.execBget dt q s
  | .bputSegment dt q => Sys2Proof.Machine.execBputSegment dt q s
  | .bdataSegment dt r => Sys2Proof.Machine.execBdataSegment dt r s
  | .bdone dt r => Sys2Proof.Machine.execBdone dt r s
  | .caprel dt via src sid job tag status => Sys2Proof.Machine.execCaprel dt via src sid job tag status s
  | .rsp dt r => Sys2Proof.Machine.execRsp dt r s
  | .homeBlockCheck dt ga errs => Sys2Proof.Machine.execHomeBlockCheck dt ga errs s
  | .stallThreshold dt sid tag retraining => Sys2Proof.Machine.execStallThreshold dt sid tag retraining s
  | .fallbackThreshold dt sid tag => Sys2Proof.Machine.execFallbackThreshold dt sid tag s
  | .invalidation dt via src tag op ctx seq addr pages => Sys2Proof.Machine.execInvalidation dt via src tag op ctx seq addr pages s
  | .invalidationAck dt via src seq => Sys2Proof.Machine.execInvalidationAck dt via src seq s
  | .grant dt p => Sys2Proof.Machine.execGrant dt p s
  | .zeroingComplete dt n => Sys2Proof.Machine.execZeroingComplete dt n s
  | .revoke dt p => Sys2Proof.Machine.execRevoke dt p s
  | .revocationDrainEnd dt n => Sys2Proof.Machine.execRevocationDrainEnd dt n s
  | .revocationDrainLimit dt n => Sys2Proof.Machine.execRevocationDrainLimit dt n s
  | .acknowledge dt p => Sys2Proof.Machine.execAcknowledge dt p s
  | .regionCommand dt p => Sys2Proof.Machine.execRegionCommand dt p s
  | .shelfGrant dt p => Sys2Proof.Machine.execShelfGrant dt p s
  | .fallbackRecordCommand dt p => Sys2Proof.Machine.execFallbackRecordCommand dt p s
  | .placementHint dt h payload => Sys2Proof.Machine.execPlacementHint dt h payload s
  | .spaceRequest dt src ctx ga => Sys2Proof.Machine.execSpaceRequest dt src ctx ga s
  | .spaceAnswer dt src ga accept => Sys2Proof.Machine.execSpaceAnswer dt src ga accept s
  | .pageCopyComplete dt ga => Sys2Proof.Machine.execPageCopyComplete dt ga s
  | .fencePlacedCopies dt src ga pages => Sys2Proof.Machine.execFencePlacedCopies dt src ga pages s
  | .fenceDone dt src ga pages drops => Sys2Proof.Machine.execFenceDone dt src ga pages drops s
  | .frameRequest dt src t n ga => Sys2Proof.Machine.execFrameRequest dt src t n ga s
  | .frameAnswer dt src t n ga accept => Sys2Proof.Machine.execFrameAnswer dt src t n ga accept s
  | .forwardedJob dt src sid cls j => Sys2Proof.Machine.execForwardedJob dt src sid cls j s
  | .tableDefinition dt p => Sys2Proof.Machine.execTableDefinition dt p s
  | .tableFree dt p => Sys2Proof.Machine.execTableFree dt p s
  | .gather dt j => Sys2Proof.Machine.execGather dt j s
  | .scatterAdd dt j => Sys2Proof.Machine.execScatterAdd dt j s
  | .scatterSet dt j => Sys2Proof.Machine.execScatterSet dt j s
  | .prefetch dt j => Sys2Proof.Machine.execPrefetch dt j s
  | .partRequest dt x => Sys2Proof.Machine.execPartRequest dt x s
  | .partAnswer dt x => Sys2Proof.Machine.execPartAnswer dt x s
  | .rowUpdate dt x => Sys2Proof.Machine.execRowUpdate dt x s
  | .rowBlockCopyComplete dt t b => Sys2Proof.Machine.execRowBlockCopyComplete dt t b s
  | .tileJob dt j => Sys2Proof.Machine.execTileJob dt j s
  | .gangStart dt leader => Sys2Proof.Machine.execGangStart dt leader s
  | .partialAccumulator dt leader member p n => Sys2Proof.Machine.execPartialAccumulator dt leader member p n s
  | .panelDelivery dt tile panel => Sys2Proof.Machine.execPanelDelivery dt tile panel s
  | .checkVerdict dt tile upset => Sys2Proof.Machine.execCheckVerdict dt tile upset s
  | .recomputationComplete dt tile upset => Sys2Proof.Machine.execRecomputationComplete dt tile upset s
  | .updateProgram dt j => Sys2Proof.Machine.execUpdateProgram dt j s
  | .windowComplete dt unit => Sys2Proof.Machine.execWindowComplete dt unit s
  | .confirm dt m => Sys2Proof.Machine.execConfirm dt m s
  | .confirmSend dt serial => Sys2Proof.Machine.execConfirmSend dt serial s
  | .retract dt m => Sys2Proof.Machine.execRetract dt m s
  | .jobEnd dt m => Sys2Proof.Machine.execJobEnd dt m s
  | .courseCommit dt m => Sys2Proof.Machine.execCourseCommit dt m s
  | .holdWaitResume dt idx => Sys2Proof.Machine.execHoldWaitResume dt idx s
  | .reopen dt p => Sys2Proof.Machine.execReopen dt p s
  | .courseCommitCommand dt p => Sys2Proof.Machine.execCourseCommitCommand dt p s
  | .jobRecordQuery dt p => Sys2Proof.Machine.execJobRecordQuery dt p s
  | .register dt p => Sys2Proof.Machine.execRegister dt p s
  | .deregister dt p => Sys2Proof.Machine.execDeregister dt p s
  | .deregistrationWalkEnd dt a => Sys2Proof.Machine.execDeregistrationWalkEnd dt a s
  | .domainModeCommand dt p => Sys2Proof.Machine.execDomainModeCommand dt p s
  | .domainRebuild dt p => Sys2Proof.Machine.execDomainRebuild dt p s
  | .rebuildProceed dt => Sys2Proof.Machine.execRebuildProceed dt s
  | .publicationRegionDefine dt p => Sys2Proof.Machine.execPublicationRegionDefine dt p s
  | .publicationRegionFree dt p => Sys2Proof.Machine.execPublicationRegionFree dt p s
  | .rds dt q => Sys2Proof.Machine.execRds dt q s
  | .rdo dt q => Sys2Proof.Machine.execRdo dt q s
  | .upg dt q => Sys2Proof.Machine.execUpg dt q s
  | .wbd dt q => Sys2Proof.Machine.execWbd dt q s
  | .evc dt q => Sys2Proof.Machine.execEvc dt q s
  | .srsp dt r => Sys2Proof.Machine.execSrsp dt r s
  | .pub dt q region version node => Sys2Proof.Machine.execPub dt q region version node s
  | .publishReady dt src sid job tag => Sys2Proof.Machine.execPublishReady dt src sid job tag s
  | .pq dt e fseq tag rd line void => Sys2Proof.Machine.execPq dt e fseq tag rd line void s
  | .snoopTimeout dt h line => Sys2Proof.Machine.execSnoopTimeout dt h line s
  | .reclaimWalkEnd dt a => Sys2Proof.Machine.execReclaimWalkEnd dt a s
  | .agedHeadTimeout dt h line => Sys2Proof.Machine.execAgedHeadTimeout dt h line s
  | .geledFrame dt e fseq creq crsp ccoh cctl replayed query units => Sys2Proof.Machine.execGeledFrame dt e fseq creq crsp ccoh cctl replayed query units s
  | .endWidthChange dt e good => Sys2Proof.Machine.execEndWidthChange dt e good s
  | .endLost dt e => Sys2Proof.Machine.execEndLost dt e s
  | .endLostMessage dt e lost fseq => Sys2Proof.Machine.execEndLostMessage dt e lost fseq s
  | .linkLossTimeout dt => Sys2Proof.Machine.execLinkLossTimeout dt s
  | .registerWrite dt e hv tag win off data => Sys2Proof.Machine.execRegisterWrite dt e hv tag win off data s
  | .snapshot dt e hv tag win => Sys2Proof.Machine.execSnapshot dt e hv tag win s
  | .snapshotBoth dt e hv tag win => Sys2Proof.Machine.execSnapshotBoth dt e hv tag win s
  | .evtStatClear dt e hv tag win data => Sys2Proof.Machine.execEvtStatClear dt e hv tag win data s
  | .mailboxRequest dt e hv ctx tag pdu => Sys2Proof.Machine.execMailboxRequest dt e hv ctx tag pdu s
  | .linkWord dt p cr0 cr1 cr2 cr3 => Sys2Proof.Machine.execLinkWord dt p cr0 cr1 cr2 cr3 s
  | .batch dt p near bseq vc units inner => Sys2Proof.Machine.execBatch dt p near bseq vc units inner s
  | .batchAck dt p bseq => Sys2Proof.Machine.execBatchAck dt p bseq s
  | .batchCloseTime dt p vc => Sys2Proof.Machine.execBatchCloseTime dt p vc s
  | .portState dt src node up rcvd => Sys2Proof.Machine.execPortState dt src node up rcvd s
  | .portDown dt p => Sys2Proof.Machine.execPortDown dt p s
  | .portUp dt p => Sys2Proof.Machine.execPortUp dt p s
  | .loadLevelRecompute dt => Sys2Proof.Machine.execLoadLevelRecompute dt s
  | .flashReceived dt l cws => Sys2Proof.Machine.execFlashReceived dt l cws s
  | .replayTimeout dt l => Sys2Proof.Machine.execReplayTimeout dt l s
  | .spareRequest dt l log phy sw => Sys2Proof.Machine.execSpareRequest dt l log phy sw s
  | .spareAnswer dt l log phy sw => Sys2Proof.Machine.execSpareAnswer dt l log phy sw s
  | .widthRequest dt l width sw => Sys2Proof.Machine.execWidthRequest dt l width sw s
  | .widthAnswer dt l width sw => Sys2Proof.Machine.execWidthAnswer dt l width sw s
  | .retrainRequest dt l phy => Sys2Proof.Machine.execRetrainRequest dt l phy s
  | .plannedDown dt l => Sys2Proof.Machine.execPlannedDown dt l s
  | .plannedDownAnswer dt l => Sys2Proof.Machine.execPlannedDownAnswer dt l s
  | .powerReport dt l txp oma => Sys2Proof.Machine.execPowerReport dt l txp oma s
  | .powerReportSend dt l txp => Sys2Proof.Machine.execPowerReportSend dt l txp s
  | .laneMessageResend dt l => Sys2Proof.Machine.execLaneMessageResend dt l s
  | .linkTrainingStart dt l => Sys2Proof.Machine.execLinkTrainingStart dt l s
  | .trainingStepDone dt lane step pass oma rec => Sys2Proof.Machine.execTrainingStepDone dt lane step pass oma rec s
  | .trainingRepeat dt l => Sys2Proof.Machine.execTrainingRepeat dt l s
  | .laneDeclaredBad dt lane => Sys2Proof.Machine.execLaneDeclaredBad dt lane s
  | .badLaneRetry dt lane => Sys2Proof.Machine.execBadLaneRetry dt lane s
  | .laserModuleFlag dt m laser ratio overLimit => Sys2Proof.Machine.execLaserModuleFlag dt m laser ratio overLimit s
  | .laserModuleDrain dt p => Sys2Proof.Machine.execLaserModuleDrain dt p s
  | .laserDrainCancel dt p => Sys2Proof.Machine.execLaserDrainCancel dt p s
  | .laserDrainComplete dt m => Sys2Proof.Machine.execLaserDrainComplete dt m s
  | .moduleRemoved dt m => Sys2Proof.Machine.execModuleRemoved dt m s
  | .modulePresent dt m bol hours => Sys2Proof.Machine.execModulePresent dt m bol hours s
  | .moduleWarm dt m bias temp => Sys2Proof.Machine.execModuleWarm dt m bias temp s
  | .scrub dt stk errs => Sys2Proof.Machine.execScrub dt stk errs s
  | .directoryScrub dt h bad => Sys2Proof.Machine.execDirectoryScrub dt h bad s
  | .channelFailure dt stk ch unreadable => Sys2Proof.Machine.execChannelFailure dt stk ch unreadable s
  | .spareCopyComplete dt stk unreadable => Sys2Proof.Machine.execSpareCopyComplete dt stk unreadable s
  | .fieldTestDue dt e => Sys2Proof.Machine.execFieldTestDue dt e s
  | .fieldTestForced dt e => Sys2Proof.Machine.execFieldTestForced dt e s
  | .dormerSlot dt e => Sys2Proof.Machine.execDormerSlot dt e s
  | .fieldTestComplete dt e pass step sig => Sys2Proof.Machine.execFieldTestComplete dt e pass step sig s
  | .fieldTestRequest dt p => Sys2Proof.Machine.execFieldTestRequest dt p s
  | .peerProbe dt h => Sys2Proof.Machine.execPeerProbe dt h s
  | .probeTimeout dt h node => Sys2Proof.Machine.execProbeTimeout dt h node s
  | .requestUnanswered dt sid tag => Sys2Proof.Machine.execRequestUnanswered dt sid tag s
  | .peerSilence dt node => Sys2Proof.Machine.execPeerSilence dt node s
  | .expelNow dt p => Sys2Proof.Machine.execExpelNow dt p s
  | .readmitNow dt p => Sys2Proof.Machine.execReadmitNow dt p s
  | .clearSuspect dt p => Sys2Proof.Machine.execClearSuspect dt p s
  | .returnEngine dt p => Sys2Proof.Machine.execReturnEngine dt p s
  | .leaseRecord dt dest holder seq course => Sys2Proof.Machine.execLeaseRecord dt dest holder seq course s
  | .lockstepMismatch dt h => Sys2Proof.Machine.execLockstepMismatch dt h s
  | .halfControllerRestarted dt h => Sys2Proof.Machine.execHalfControllerRestarted dt h s
  | .purlinHeartbeat dt h => Sys2Proof.Machine.execPurlinHeartbeat dt h s
  | .purlinLost dt => Sys2Proof.Machine.execPurlinLost dt s
  | .purlinRetrain dt => Sys2Proof.Machine.execPurlinRetrain dt s
  | .purlinRejoin dt => Sys2Proof.Machine.execPurlinRejoin dt s
  | .admission dt p => Sys2Proof.Machine.execAdmission dt p s
  | .admissionTestingDone dt pass => Sys2Proof.Machine.execAdmissionTestingDone dt pass s
  | .admissionLoadingDone dt ok => Sys2Proof.Machine.execAdmissionLoadingDone dt ok s
  | .announceAck dt sub tag idx => Sys2Proof.Machine.execAnnounceAck dt sub tag idx s
  | .announceResend dt sub seq => Sys2Proof.Machine.execAnnounceResend dt sub seq s
  | .monitorSample dt rails junctions power => Sys2Proof.Machine.execMonitorSample dt rails junctions power s
  | .referenceClockLost dt lostWest lostEast => Sys2Proof.Machine.execReferenceClockLost dt lostWest lostEast s
  | .referenceClockReturn dt => Sys2Proof.Machine.execReferenceClockReturn dt s
  | .enclaveLockstepMismatch dt => Sys2Proof.Machine.execEnclaveLockstepMismatch dt s
  | .enclaveRestarted dt testsPass => Sys2Proof.Machine.execEnclaveRestarted dt testsPass s
  | .segment dt p => Sys2Proof.Machine.execSegment dt p s
  | .verify dt p => Sys2Proof.Machine.execVerify dt p s
  | .activate dt p => Sys2Proof.Machine.execActivate dt p s
  | .commitSvn dt p => Sys2Proof.Machine.execCommitSvn dt p s
  | .liveUpdateStageDone dt => Sys2Proof.Machine.execLiveUpdateStageDone dt s
  | .liveUpdateRevert dt => Sys2Proof.Machine.execLiveUpdateRevert dt s
  | .getVersion dt eid => Sys2Proof.Machine.execGetVersion dt eid s
  | .getCapabilities dt eid => Sys2Proof.Machine.execGetCapabilities dt eid s
  | .negotiateAlgorithms dt eid => Sys2Proof.Machine.execNegotiateAlgorithms dt eid s
  | .getDigests dt eid => Sys2Proof.Machine.execGetDigests dt eid s
  | .getCertificate dt eid slot offset length => Sys2Proof.Machine.execGetCertificate dt eid slot offset length s
  | .challenge dt eid slot nonce => Sys2Proof.Machine.execChallenge dt eid slot nonce s
  | .getMeasurements dt eid op signed nonce => Sys2Proof.Machine.execGetMeasurements dt eid op signed nonce s
  | .install dt p => Sys2Proof.Machine.execInstall dt p s
  | .keyRevoke dt p => Sys2Proof.Machine.execKeyRevoke dt p s
  | .releaseOwnership dt p => Sys2Proof.Machine.execReleaseOwnership dt p s
  | .debugUnlock dt p dbgEn => Sys2Proof.Machine.execDebugUnlock dt p dbgEn s
  | .selfTestRun dt p pass => Sys2Proof.Machine.execSelfTestRun dt p pass s
  | .waestRead dt p index sub => Sys2Proof.Machine.execWaestRead dt p index sub s
  | .waestDescribe dt p index sub => Sys2Proof.Machine.execWaestDescribe dt p index sub s
  | .objectWrite dt p index sub => Sys2Proof.Machine.execObjectWrite dt p index sub s
  | .slateActivate dt p => Sys2Proof.Machine.execSlateActivate dt p s
  | .slateDiscard dt p => Sys2Proof.Machine.execSlateDiscard dt p s
  | .pendingRead dt p => Sys2Proof.Machine.execPendingRead dt p s
  | .slateHeaderWritten dt => Sys2Proof.Machine.execSlateHeaderWritten dt s
  | .setEndpointId dt src eid => Sys2Proof.Machine.execSetEndpointId dt src eid s
  | .getEndpointId dt src => Sys2Proof.Machine.execGetEndpointId dt src s
  | .getMctpVersionSupport dt src typ => Sys2Proof.Machine.execGetMctpVersionSupport dt src typ s
  | .getMessageTypeSupport dt src => Sys2Proof.Machine.execGetMessageTypeSupport dt src s
  | .i3cDynamicAddress dt addr => Sys2Proof.Machine.execI3cDynamicAddress dt addr s
  | .resetRelease dt strapAddr mfg => Sys2Proof.Machine.execResetRelease dt strapAddr mfg s
  | .reset dt => Sys2Proof.Machine.execReset dt s
  | .clockLock dt => Sys2Proof.Machine.execClockLock dt s
  | .enclaveBootDone dt testsPass => Sys2Proof.Machine.execEnclaveBootDone dt testsPass s
  | .slateSelection dt => Sys2Proof.Machine.execSlateSelection dt s
  | .stackInitialisationDone dt failed => Sys2Proof.Machine.execStackInitialisationDone dt failed s
  | .opticalTrainingDone dt => Sys2Proof.Machine.execOpticalTrainingDone dt s
  | .purlinBringupRetry dt up => Sys2Proof.Machine.execPurlinBringupRetry dt up s
  | .ridgeInitialisation dt => Sys2Proof.Machine.execRidgeInitialisation dt s
  | .firstFieldTestsDone dt failed => Sys2Proof.Machine.execFirstFieldTestsDone dt failed s
  | .joinComplete dt => Sys2Proof.Machine.execJoinComplete dt s
  | .powerLoss dt => Sys2Proof.Machine.execPowerLoss dt s
  | .streamUnfollowable dt p => Sys2Proof.Machine.execStreamUnfollowable dt p s
  | .entropyHealthTestFailure dt => Sys2Proof.Machine.execEntropyHealthTestFailure dt s
  | .managementPortLinkChange dt p up gigabit => Sys2Proof.Machine.execManagementPortLinkChange dt p up gigabit s
  | .debugPortAccess dt a rstLow dbgEn => Sys2Proof.Machine.execDebugPortAccess dt a rstLow dbgEn s

end Sys2Proof.Machine
end

