-- ==== Sys2Proof/Safety.lean ====
section
/-! DEFINITION. The terms claims are stated in: the canonical form of memory, a device with nothing left over from an
earlier command, and when a dictionary write or command is taken. -/

namespace Sys2Proof.Machine
/-- What came by a port has come for this device, not for another node (R319). -/
def forUs (v : Via) : Bool :=
  match v with
  | .onward _ _ => false
  | _ => true

/-- The command that brings a packet by a port on its way to another node (R319, R321); memory and coherence requests, which
also pass by the pages they name, are not among them. -/
def onwardCommand (dt p : Nat) (w : Transit) : Inner → Option Instr
  | .caprel src sid job tag status => some (.caprel dt (.onward p w) src sid job tag status)
  | .rsp r => some (.rsp dt { r with port := p, on := some w })
  | .bdata r => some (.bdataSegment dt { r with port := p, on := some w })
  | .bdone r => some (.bdone dt { r with port := p, on := some w })
  | .srsp r => some (.srsp dt { r with via := .onward p w })
  | .forwarded src sid cls j => some (.forwardedJob dt src sid cls { j with via := .onward p w })
  | .part x => some (.partRequest dt { x with via := .onward p w })
  | .partAnswer x => some (.partAnswer dt { x with via := .onward p w })
  | .rowUpdate x => some (.rowUpdate dt { x with via := .onward p w })
  | .integrity op m =>
      let m := { m with via := .onward p w }
      if op = 1 then some (.confirm dt m) else if op = 2 then some (.retract dt m) else if op = 3 then some (.jobEnd dt m)
      else if op = 4 then some (.courseCommit dt m) else none
  | .invalidation src op ctx seq addr pages => some (.invalidation dt (.onward p w) src 0 op ctx seq addr pages)
  | .invalidationAck src seq => some (.invalidationAck dt (.onward p w) src seq)
  | .hint src payload => some (.placementHint dt (.msg (.onward p w) src) payload)
  | .spaceRequest src ctx ga => some (.spaceRequest dt ⟨.onward p w, src⟩ ctx ga)
  | .spaceAnswer src ga accept => some (.spaceAnswer dt ⟨.onward p w, src⟩ ga accept)
  | .frameRequest src t n ga => some (.frameRequest dt ⟨.onward p w, src⟩ t n ga)
  | .frameAnswer src t n ga accept => some (.frameAnswer dt ⟨.onward p w, src⟩ t n ga accept)
  | .fencePlaced src ga pages => some (.fencePlacedCopies dt ⟨.onward p w, src⟩ ga pages)
  | .fenceDone src ga pages drops => some (.fenceDone dt ⟨.onward p w, src⟩ ga pages drops)
  | .portState src node up rcvd => some (.portState dt ⟨.onward p w, src⟩ node up rcvd)
  | .course n => some (.courseMessage dt (.onward p w) n)
  | .mem _ _ | .submit _ _ | .pub _ _ _ _ | .onward _ _ => none

/-- A packet with its way in it as its command has it. -/
def onwardPacket (p : Nat) (w : Transit) : Inner → Inner
  | .rsp r => .rsp { r with port := p, on := some w }
  | .bdata r => .bdata { r with port := p, on := some w }
  | .bdone r => .bdone { r with port := p, on := some w }
  | .srsp r => .srsp { r with via := .onward p w }
  | .forwarded src sid cls j => .forwarded src sid cls { j with via := .onward p w }
  | .part x => .part { x with via := .onward p w }
  | .partAnswer x => .partAnswer { x with via := .onward p w }
  | .rowUpdate x => .rowUpdate { x with via := .onward p w }
  | .integrity op m => .integrity op { m with via := .onward p w }
  | x => x

namespace State

/-- Near memory is in its canonical form: equal memories are equal lists. -/
abbrev MemOk (s : State) : Prop := memWf s.near.mem = true

/-- Nothing of an earlier command is still to be done: no request of the device waits to be sent again, no front end works on
a descriptor, no request waits behind another, no fence or switchover holds one, and no retract is still to be sent. -/
structure Quiet (s : State) : Prop where
  todo : s.todo = []
  retries : s.eng.retries = []
  fronts : s.eng.fronts = []
  behind : s.near.behind = []
  fences : s.plc.fences = []
  waiting : s.plc.waiting = []
  retracts : s.itg.retracts = []

/-- Every fuse closed in `f` is closed, and the minimum SVN is at least that of `f`. -/
def FusesAbove (s : State) (f : Fuses) : Prop :=
  (∀ i, f.revoke.testBit i = true → s.fuse.revoke.testBit i = true) ∧ f.minSvn ≤ s.fuse.minSvn

/-- The state as a command's effect finds it: time has passed, and what the last command sent is gone. -/
def begun (s : State) (dt : Nat) : State := { s with out := [], now := s.now + dt }

/-- The state after a command on `s` whose effect left `u`: the register windows have noted what changed, the queue is
as it was, and no fuse has closed again. -/
def after (s : State) (dt : Nat) (u : State) : State :=
  { noteEvents (s.begun dt) u with pending := s.pending, now := s.now + dt, fuse := joinFuses s.fuse u.fuse }

/-- A write PDU is whole in itself, well formed, new to the reply cache, and comes by a path that may write the object
now (R428 to R439, R483). -/
def Takes (s : State) (p : Pdu) (index sub : Nat) : Prop :=
  s.phaseGate p index sub = .go ∧ pduGood p = true ∧ bitOf p.flags 1 = false ∧ p.offset = 0 ∧ p.total = p.data.length ∧
  p.total ≤ 131072 ∧ s.keptReply p 2 index sub = none ∧ (∀ r ∈ s.mgm.reasm, sameReasm r p index sub = false) ∧
  (∀ r ∈ s.mgm.evicted, sameReasm r p index sub = false) ∧ s.fencedOff p = false ∧ s.startupBusy index sub p.data = false ∧
  ∃ o, objAt index sub = some o ∧ o.acc ≠ .const ∧ o.acc ≠ .ro ∧ s.mayWrite p index sub o p.data = true ∧
    lengthOk o index sub p.data = true

/-- The trailer of a critical command is good: an active slot that is not throttled, the right tag, a counter above the
last, and a scope that covers the command's class (R415); `k` is the slot and `c` the counter. -/
def Authorized (s : State) (p : Pdu) (index sub k c : Nat) : Prop :=
  s.enc.st = 1 ∧ s.slateBusy index sub = false ∧ (s.avl.purlinUp = true ∨ s.holder = .west) ∧
  ∃ t cls key, p.trailer = some t ∧ t.slot = k ∧ t.counter = c ∧ cmdClass index sub p.data = some cls ∧ k ≤ 15 ∧
    s.firstClaim p index sub t p.data = false ∧
    (s.slot k).key = some key ∧ (s.slot k).last ≠ lastCounter ∧ (s.slot k).throttle = none ∧
    t.tag = tag256 key (cmdMessage index sub t p.data) ∧ (s.slot k).last < c ∧ bitOf (s.scopeOf k) cls = true

/-- The state in which a critical command's effect happens: its request is counted and its counter is used (R415). -/
def authorized (s : State) (p : Pdu) (k c : Nat) : State := ((s.takePdu p).tagGood k).useCounter k c

/-- The state after a command's effect `v` and its reply `x`. -/
def answered (v : State) (p : Pdu) (index sub : Nat) (x : Result) : State := (v.countAuth x).answerWrite p index sub x

/-- The state in which a request that has come by the fabric is looked at: it has been counted on its port. -/
def heard (s : State) (dt : Nat) (q : Req) : State := (s.begun dt).countArrival q.via 0 q.len

/-- A request of another node for `n` bytes at near offset `off` of a granted page, with nothing in its way: the device
is in service and whole, no page or row block is placed elsewhere or being moved, no agent holds a line, nothing of the
home half waits, the page is not counted, and its stack has lost no channel (R20, R67, R71, R275, R331, R481). -/
structure Served (s : State) (q : Req) (off n : Nat) : Prop where
  quiet : s.Quiet
  fabric : s.entersHere q.via = false
  dst : s.isSelf q.dst = true
  bucket : ∀ p, (q.via = .port p ∨ q.via = .batch p ∨ ∃ t, q.via = .onward p t) → s.cfgBit (portHalf p) 0x20D0 1 2 = false
  service : s.phase = 0xA
  ctx : q.ctx ≠ 0
  job : q.job ≠ 0xFFFF
  cap : q.cap = false
  taint : q.u = false
  fresh : q.rc < 8
  number : s.nodeNum ≠ 0x3FFF
  home : gaNode q.addr = s.nodeNum
  place : gaOff q.addr = off
  some' : 0 < n
  near : off + n ≤ nearSize
  purlin : s.avl.purlinUp = true
  mode : s.rdg.mode ≠ 0
  space : s.inSpace off = false
  granted : ∃ k x, s.extentAt q.ctx off = some (k, x) ∧ x.state = 2
  placed : s.plc.here = [] ∧ s.plc.away = [] ∧ s.plc.backs = [] ∧ s.plc.moves = []
  rows : s.ylx.overs = [] ∧ s.ylx.tables = []
  serving : s.avl.serving = []
  ridge : s.rdg.regions = [] ∧ s.rdg.blocked = []
  lines : (s.half (offHalf off)).dir = [] ∧ (s.half (offHalf off)).aged = []
  waits : ∀ h, (s.half h).caps = [] ∧ (s.half h).held = [] ∧ (s.half h).retried = []
  groups : s.itg.waits = []
  staged : s.west.staged = [] ∧ s.east.staged = []
  uncounted : s.cfgBit (offHalf off) 0x2070 1 0 = false
  stack : s.near.stackRecs = []
  confirmed : ∀ b ∈ blocksOf off n, (s.metaOf b).st = 0

/-- A half without any cached translation of a context: its shared cache, its engines' and ports' caches and its walk
caches (R19, R51). -/
def without (c : Nat) (x : HalfSt) : HalfSt :=
  { x with tlb := x.tlb.filter (fun t => !(t.ctx == c)), unitTlb := x.unitTlb.map (fun u => (u.1, u.2.filter (fun t => !(t.ctx == c)))),
           walkCache := x.walkCache.filter (fun w => !(w.1 == c)) }

/-- A block as a bulk answer carries it when it is not unconfirmed (R210, R317). -/
def blkAt (s : State) (b : Nat) : Blk :=
  { data := s.loadBytes (b * 4096) 4096, poison := s.poisonMask b, spar := ⟨(s.metaOf b).crc, (s.metaOf b).tag⟩,
    st := (s.metaOf b).st, void := (s.metaOf b).void }

/-- Every line of a range can be read. -/
def Clean (s : State) (off n : Nat) : Prop := ∀ l ∈ linesOf off n, s.poisoned l = false

end State
end Sys2Proof.Machine
end

