-- ==== Sys2Proof/Certificates/Slice0/Obligations.lean ====
section
/-! DEFINITION. The statements for the provers. -/

open Sys2Proof Sys2Proof.Machine

/-! ### The block as a whole -/

/-- A step takes the command at the front of the queue and performs it on the state with the queue's rest. -/
def Obligations.StepTakesFront : Prop :=
  ∀ (c : Instr) (rest : List Instr) (s : State), step { s with pending := c :: rest } = exec c { s with pending := rest }

/-- Every command completes, whatever the state: it leaves the queue as it is and never turns time back. One that no sender
can put on the pins has no effect but that time passes (log entry 4). -/
def Obligations.WellFormedCompletes : Prop :=
  ∀ (c : Instr) (s : State),
    (∃ t, exec c s = .next t ∧ t.pending = s.pending ∧ s.now ≤ t.now) ∧
    (c.wf = false → ∃ d, exec c s = .next (s.begun d))

/-- No step closes a fuse again: the fused revoke mask keeps every bit and the fused minimum SVN never falls
(R402, R406). -/
def Obligations.StepKeepsFuses : Prop :=
  ∀ (f : Fuses) (s t : State), s.FusesAbove f → step s = .next t → t.FusesAbove f

/-- The fuses of the reset state are those of a part none of whose key sets is revoked; the values are the model's
choice (log entry 30). -/
def Obligations.ResetFuses : Prop := State.reset.FusesAbove {}

/-- What power-up leaves (R398, R216, R33, R236): no course, scores of 255 with a clean count of 0, no part expelled or
suspect, every engine in service with its test due, no job record and no hold group, and an empty gutter ring. -/
def Obligations.ResetState : Prop :=
  (∀ n, (State.reset.lane n).health = { score := 255, clean := 0, expelled := false, suspect := false }) ∧
  (∀ p, (State.reset.port p).health = { score := 255, clean := 0, expelled := false, suspect := false }) ∧
  (∀ m, (State.reset.laserModule m).health = { score := 255, clean := 0, expelled := false, suspect := false }) ∧
  (∀ n, (State.reset.node n).health = { score := 255, clean := 0, expelled := false, suspect := false }) ∧
  (∀ e, (State.reset.engOf e).state = 0 ∧ (State.reset.engOf e).due = true) ∧
  State.reset.mgm.ring = [] ∧ State.reset.itg.jobs = [] ∧ State.reset.itg.groups = [] ∧
  (∀ h, State.reset.courseOf h = 0xFFFF_FFFF_FFFF) ∧ State.reset.pending = [] ∧ State.reset.MemOk

/-! ### Near memory -/

/-- Every operation on near memory keeps its canonical form. -/
def Obligations.MemoryStaysCanonical : Prop :=
  ∀ s : State, s.MemOk →
    (∀ off bs, (s.storeBytes off bs).MemOk) ∧ (∀ l, (s.poisonLine l).MemOk) ∧ (∀ off bs, (s.writeNear off bs).MemOk) ∧
    (∀ b d crc tag p st hold, (s.writeBlock b d crc tag p st hold).MemOk) ∧ (∀ b, (s.zeroBlock b).MemOk)

/-- A write outside the retired channels reads back whole and leaves every other byte as it was; a block written whole
takes the spar, poison and state it came with, and every line it does not poison can be read; a block of a retired channel
keeps what it has (R202, R207, R208, R364). -/
def Obligations.WriteReadsBack : Prop :=
  (∀ (s : State) (off : Nat) (bs : Bytes), s.MemOk → bs.length ≤ 4096 →
     (∀ a, off ≤ a → a < off + bs.length → s.retiredAt a = false) →
     (s.writeNear off bs).loadBytes off bs.length = bs ∧
     ∀ a, (a < off ∨ off + bs.length ≤ a) → memGet a (s.writeNear off bs).near.mem = memGet a s.near.mem) ∧
  (∀ (s : State) (b : Nat) (d : Bytes) (crc : BitVec 32) (tag poison st hold : Nat), s.MemOk → d.length = 4096 →
     poison < 2 ^ 32 → s.retiredAt (b * 4096) = false →
     (s.writeBlock b d crc tag poison st hold).loadBytes (b * 4096) 4096 = d ∧
     (s.writeBlock b d crc tag poison st hold).metaOf b = { crc := crc, tag := tag, st := st, hold := hold, void := poison != 0 } ∧
     (∀ i, i < 32 → (s.writeBlock b d crc tag poison st hold).poisoned (b * 32 + i) = bitOf poison i) ∧
     (∀ a, (a < b * 4096 ∨ b * 4096 + 4096 ≤ a) → memGet a (s.writeBlock b d crc tag poison st hold).near.mem = memGet a s.near.mem)) ∧
  (∀ (s : State) (b : Nat) (d : Bytes) (crc : BitVec 32) (tag poison st hold : Nat), s.retiredAt (b * 4096) = true →
     s.writeBlock b d crc tag poison st hold = s)

/-- A write without a spar keeps the crc of a block that is not void the CRC-32C of what the block holds, by linearity
(R200, R202). -/
def Obligations.PartialWriteKeepsCrc : Prop :=
  ∀ (s : State) (off : Nat) (bs : Bytes), s.MemOk → off % 4096 + bs.length ≤ 4096 →
    (s.metaOf (off / 4096)).void = false → (s.metaOf (off / 4096)).crc = s.blockCrc (off / 4096) →
    (∀ i, i < 32 → s.poisoned (off / 4096 * 32 + i) = false) →
    ((s.writeInBlock off bs).metaOf (off / 4096)).crc = (s.writeInBlock off bs).blockCrc (off / 4096)

/-! ### Memory requests of other nodes -/

/-- READ of another node (R20, R270, R312): the bytes go back with the tag of the block, and nothing else changes. -/
def Obligations.ReadAnswersNode : Prop :=
  ∀ (dt : Nat) (q : Req) (s : State) (off : Nat), (Instr.read dt q).wf = true → State.wellFormed .read q = true →
    s.Served q off q.size → s.Clean off q.size →
    exec (.read dt q) s = .next (s.after dt ((s.heard dt q).sendTo (.node q.src q.sid) 1 (4 + State.unitsOf q.size)
      (.mem { tag := q.tag, ld := s.fab.loadLevel, data := s.loadBytes off q.size, tg := (s.metaOf (off / 4096)).tag })))

/-- WRITE of another node (R202, R207, R209, R270): the bytes are in place, a line that came poisoned is poisoned, and the
answer is OK. A line written in part must be readable. -/
def Obligations.WriteStoresForNode : Prop :=
  ∀ (dt : Nat) (q : Req) (s : State) (off : Nat), (Instr.write dt q).wf = true → State.wellFormed .write q = true →
    s.Served q off q.size →
    (∀ l ∈ State.linesOf off q.size, ¬ (off ≤ l * 128 ∧ l * 128 + 128 ≤ off + q.size) → s.poisoned l = false) →
    exec (.write dt q) s = .next (s.after dt ((((s.heard dt q).writeNear off (fitTo q.size q.data)).poisonCarried off q.size q.pz).sendTo
      (.node q.src q.sid) 1 4 (.mem { tag := q.tag, ld := s.fab.loadLevel })))

/-- Atomics of another node (R270, R283 to R285), with the operations allowed at the home: the operand is combined with what
memory holds, the old value goes back where it is asked for, the operation is counted, and nothing else changes. -/
def Obligations.AtomicsUpdateMemory : Prop :=
  ∀ (dt : Nat) (q : Req) (s : State) (off : Nat) (c : Instr),
    c ∈ [Instr.add dt q, .smin dt q, .smax dt q, .umin dt q, .umax dt q, .and dt q, .or dt q, .xor dt q, .swap dt q, .cas dt q,
         .fadd dt q, .vadd dt q] →
    c.wf = true → State.wellFormed .atomic q = true → s.Served q off (aopSize q.aop) → s.Clean off (aopSize q.aop) →
    s.cfg (offHalf off) 0x20C0 1 ≠ 0 →
    exec c s = .next (s.after dt ((((s.heard dt q).writeNear off (atomicApply q.aop (s.loadBytes off (aopSize q.aop)) q.data)).count
        (offHalf off) 0x40A0 1).sendTo (.node q.src q.sid) 1 (4 + State.unitsOf (if aopFetch q.aop then aopSize q.aop else 0))
      (.mem { tag := q.tag, ld := s.fab.loadLevel, data := if aopFetch q.aop then s.loadBytes off (aopSize q.aop) else [],
              tg := (s.metaOf (off / 4096)).tag })))

/-- BGET of another node (R210, R317): every block with its poison, spar and state, in segments of 256 bytes. -/
def Obligations.BgetSendsBlocks : Prop :=
  ∀ (dt : Nat) (q : Req) (s : State) (off : Nat), (Instr.bget dt q).wf = true → State.wellFormed .bget q = true →
    s.Served q off (4096 * q.size) →
    exec (.bget dt q) s = .next (s.after dt ((State.bulkSegments
        { tag := q.tag, ld := s.fab.loadLevel, blks := (State.blocksOf off (4096 * q.size)).map s.blkAt }).foldl
      (fun t r => t.sendTo (.node q.src q.sid) 1 (State.replyUnits r) (.bdata r)) (s.heard dt q)))

/-! ### From power-up to service -/

/-- Releasing PWR_RST_N ends phase 0x00 and samples the straps; the clocks lock; training of every link ends phase
0x05; the purlin's bring-up, successful, ends phase 0x06 with both lease copies set (R384, R473, R493, R501).
Phase 0x07 ends with an empty directory, the companion as agent 0, and the domain
strict; phase 0x08 ends when every engine's first test has passed and course s has begun; joining ends once course s
has begun (R256, R268, R307, R473, R479, R480). While a controller pair is halted the phase is held (R475; log 108 for the
reports that come meanwhile). -/
def Obligations.StartUpPhases : Prop :=
  (∀ (dt : Nat) (s : State), s.Quiet → s.startupHeld = false →
     (∀ strap mfg, strap < 8 → s.phase = 0 → exec (.resetRelease dt strap mfg) s =
       .next (s.after dt { s.begun dt with phase := 1, mgm.staticAddr := 0x30 + strap, mon.mfg := mfg })) ∧
     (s.phase = 1 → s.mon.mfg = false → exec (.clockLock dt) s = .next (s.after dt { s.begun dt with phase := 2 })) ∧
     (s.phase = 1 → s.mon.mfg = true → exec (.clockLock dt) s = .next (s.after dt (s.begun dt))) ∧
     (s.phase = 5 → exec (.opticalTrainingDone dt) s = .next (s.after dt { s.begun dt with phase := 6 })) ∧
     (s.phase = 6 → exec (.purlinBringupRetry dt true) s = .next (s.after dt
       { s.begun dt with avl.purlinUp := true, avl.tries := 0, avl.heard := (s.now + dt, s.now + dt), phase := 7,
                         west := { s.west with leaseHolder := .west, leaseSeq := 1, leaseCourse := noCourse },
                         east := { s.east with leaseHolder := .west, leaseSeq := 1, leaseCourse := noCourse } })) ∧
     (s.phase = 6 → s.avl.tries < 2 → exec (.purlinBringupRetry dt false) s =
       .next (s.after dt { s.begun dt with avl.tries := s.avl.tries + 1 }))) ∧
  (∀ (dt : Nat) (s : State), s.Quiet → s.startupHeld = true → ∀ c ∈ [Instr.slateSelection dt, .opticalTrainingDone dt,
     .purlinBringupRetry dt true, .purlinBringupRetry dt false, .ridgeInitialisation dt], exec c s = .next (s.after dt (s.begun dt))) ∧
  (∀ (dt : Nat) (s : State), s.Quiet → s.startupHeld = false →
     (s.phase = 7 → s.rdg.blocked = [] → ∃ t, exec (.ridgeInitialisation dt) s = .next t ∧ t.phase = 8 ∧ t.rdg.mode = 1 ∧
       t.west.dir = [] ∧ t.east.dir = [] ∧ t.west.pend = [] ∧ t.east.pend = [] ∧ t.west.aged = [] ∧ t.east.aged = [] ∧
       t.agentRec 0 = { state := 1, node := s.nodeNum } ∧
       t.near = s.near ∧ t.itg = s.itg) ∧
     (s.phase = 8 → s.avl.tested = false → ∃ t, exec (.firstFieldTestsDone dt []) s = .next t ∧ t.avl.tested = true ∧
       t.phase = (if s.crs.first = noCourse then 8 else 9) ∧ (∀ e : Engine, e.wf = true → (t.engOf e).state = 0 ∧ (t.engOf e).due = false) ∧
       t.near = s.near ∧ t.itg = s.itg ∧ t.rdg = s.rdg) ∧
     (s.crs.first ≠ noCourse → exec (.joinComplete dt) s = .next (s.after dt { s.begun dt with avl.joined := true })))

/-- The enclave's boot ends phase 0x02 (R405, R423, R426, R473): a failed self-test stops the device; an active image
that verifies runs at debug level 0 with every counter at its reservation; with no valid bank the device is in
recovery. -/
def Obligations.EnclaveBoot : Prop :=
  ∀ (dt : Nat) (s : State), s.Quiet → s.phase = 2 →
    (∃ t, exec (.enclaveBootDone dt false) s = .next t ∧ t.phase = 0xF1 ∧ t.enc = { s.enc with st := 2, testsOk := false, debug := 0 }) ∧
    (s.enc.active < 2 → ∃ t, exec (.enclaveBootDone dt true) s = .next t ∧ t.fuse = s.fuse ∧ t.near = s.near ∧ t.spc = s.spc ∧ t.slt = s.slt ∧
      (imageOk s.fuse (s.bank s.enc.active) = true → t.phase = 3 ∧ t.enc.st = 1 ∧ t.enc.debug = 0 ∧
        t.enc.active = s.enc.active ∧ t.enc.version = imageVersion (s.bank s.enc.active) ∧
        t.enc.svn = imageSvn (s.bank s.enc.active) ∧ (t.bank s.enc.active).verified = true ∧
        t.enc.aliasGen = s.enc.aliasGen + 1 ∧ t.enc.lmsNext = s.enc.lmsReserved ∧
        t.enc.slots = s.enc.slots.map (fun k => (k.1, { k.2 with fails := 0, throttle := none, last := k.2.reserved }))) ∧
      (imageOk s.fuse (s.bank s.enc.active) = false → imageOk s.fuse (s.bank s.inactiveBank) = true →
        t.phase = 3 ∧ t.enc.st = 1 ∧ t.enc.active = s.inactiveBank) ∧
      (imageOk s.fuse (s.bank 0) = false → imageOk s.fuse (s.bank 1) = false → t.phase = 0xF0 ∧ t.enc.st = 4))

/-- Phase 0x03 ends with a slate loaded and the node number taken from it, and phase 0x04 with every line of near memory
poisoned, every metadata word confirmed with tag 0x00 and void 1, and the present laser modules warming (R237, R352,
R434, R449, R473). -/
def Obligations.SlateAndStacks : Prop :=
  ∀ (dt : Nat) (s : State), s.Quiet → s.startupHeld = false →
    (s.phase = 3 → ∃ t, exec (.slateSelection dt) s = .next t ∧ t.phase = 4 ∧ t.nodeNum = t.cfg .west 0x2000 1 ∧
      t.west.running = true ∧ t.east.running = true ∧ t.west.slate = t.east.slate ∧
      (∀ i, State.slateChosen s.slt.a s.slt.b = some i → t.slt.active = i ∧
        t.west.slate = (s.slateReg i).recs.filter recordKnown) ∧
      (State.slateChosen s.slt.a s.slt.b = none → t.west.slate = []) ∧ t.near = s.near ∧ t.fuse = s.fuse) ∧
    (s.phase = 4 → ∃ t, exec (.stackInitialisationDone dt []) s = .next t ∧ t.phase = 5 ∧
      (∀ l, t.poisoned l = true) ∧ (∀ b, t.metaOf b = { crc := 0, tag := 0, st := 0, hold := 0, void := true }) ∧
      (∀ m, (s.laserModule m).present = true → (t.laserModule m).st = 1 ∧ (t.laserModule m).enable = true) ∧
      (∀ m, (s.laserModule m).present = false → t.laserModule m = s.laserModule m) ∧
      t.near.stackRecs = s.near.stackRecs ∧ t.fuse = s.fuse ∧ t.slt = s.slt)

/-- Power loss and reset (R474, R486, R494): only slates, the enclave's store, the fuses and the laser modules' own
memories keep their contents; reset begins at phase 0x01. -/
def Obligations.PowerLossAndReset : Prop :=
  ∀ (dt : Nat) (s : State), ∃ t, exec (.powerLoss dt) s = .next t ∧ ∃ u, exec (.reset dt) s = .next u ∧
    t.phase = 0 ∧ u.phase = 1 ∧ t.pending = s.pending ∧ u.pending = s.pending ∧
    (∀ v, v = t ∨ v = u → v.fuse = s.fuse ∧ v.slt = { a := s.slt.a, b := s.slt.b } ∧
      v.enc = { slots := s.enc.slots.map (fun k => (k.1, State.storedSlot k.2)), banks := s.enc.banks, active := s.enc.active,
                lmsNext := s.enc.lmsReserved, lmsReserved := s.enc.lmsReserved, aliasGen := s.enc.aliasGen } ∧
      v.opt = { modules := s.opt.modules.map (fun m => (m.1, State.storedModule m.2)) } ∧ v.near = {} ∧ v.spc = {} ∧ v.plc = {} ∧
      v.ylx = {} ∧ v.itg = {} ∧ v.rdg = {} ∧ v.eng = {} ∧ v.fab = {} ∧ v.gel = {} ∧ v.avl = {} ∧ v.crs = {} ∧
      v.nodeNum = 0x3FFF ∧ v.out = [] ∧ v.todo = [] ∧ v.mgm.ring = [] ∧ v.mgm.kept = [] ∧ v.mgm.eid = 0)

/-! ### Courses -/

/-- The number of an accepted edge, and what it is counted in, with a course begun before (R32). -/
def Obligations.EdgeNumber : Prop :=
  ∀ prev a : Nat, prev + 1 < noCourse →
    State.numberOf prev none = (some (prev + 1), some (5, 1)) ∧
    (a = prev + 1 → State.numberOf prev (some a) = (some (prev + 1), none)) ∧
    (prev + 1 < a → State.numberOf prev (some a) = (some a, some (7, a - (prev + 1)))) ∧
    (a ≤ prev → State.numberOf prev (some a) = (some (prev + 1), some (6, 1)))

/-- A course message from the course source arms an announcement for the next edge in both halves; one that replaces
another is counted in 0x4020.06, and one from elsewhere only counts there (R30, R32). -/
def Obligations.CourseMessageArms : Prop :=
  ∀ (dt : Nat) (via : Via) (c : Nat) (s : State), s.Quiet → (Instr.courseMessage dt via c).wf = true → forUs via = true → c ≠ noCourse →
    s.avl.purlinUp = true →
    (s.fromSource via = true → s.west.armed = none → s.east.armed = none →
      exec (.courseMessage dt via c) s = .next (s.after dt
        (((s.begun dt).countArrival via 3 5).modBoth (fun x => { x with armed := some c })))) ∧
    (s.fromSource via = true → s.west.armed ≠ none →
      exec (.courseMessage dt via c) s = .next (s.after dt
        ((((s.begun dt).countArrival via 3 5).count (viaHalf via) 0x4020 6).modBoth (fun x => { x with armed := some c })))) ∧
    (s.fromSource via = false →
      exec (.courseMessage dt via c) s = .next (s.after dt
        (((s.begun dt).countArrival via 3 5).count (viaHalf via) 0x4020 6)))

/-- An edge less than 50 µs after the last accepted one is ignored and counted in 0x4020.04 (R27); before phase 0x08 an
edge is not seen at all (R478). -/
def Obligations.EarlyEdgeIgnored : Prop :=
  ∀ (dt t : Nat) (s : State), s.Quiet →
    (8 ≤ s.phase → s.phase ≤ 0xA → s.crs.lastEdge = some t → s.now + dt < t + 80000 →
      exec (.courseBeaconEdge dt) s = .next (s.after dt ((s.begun dt).count s.holder 0x4020 4))) ∧
    (s.phase < 8 → exec (.courseBeaconEdge dt) s = .next (s.after dt (s.begun dt)))

/-- 10 s without an accepted edge set the beacon-silent flag, and nothing else but the event and the gutter record that
tell of it: no edge and no course number is made up (R42). -/
def Obligations.BeaconSilence : Prop :=
  ∀ (dt : Nat) (s : State), s.Quiet → 8 ≤ s.phase → s.phase ≤ 0xA → s.crs.silent = false →
    s.crs.silentBase + 16000000000 ≤ s.now + dt →
    ∃ t, exec (.beaconSilenceTimeout dt) s = .next t ∧ t.crs = { s.crs with silent := true } ∧ t.west.course = s.west.course ∧
      t.east.course = s.east.course ∧ t.west.regs.evtStat.getLsbD 2 = true ∧ t.east.regs.evtStat.getLsbD 2 = true ∧
      t.mgm.nextSeq = (s.mgm.nextSeq + 1) % 2 ^ 32 ∧ t.near = s.near ∧ t.plc = s.plc ∧ t.itg = s.itg ∧ t.rdg = s.rdg ∧ t.fab = s.fab

/-! ### The enclave -/

/-- Key commands (R412, R415, R416, R418, R419, R421): an install by the owner puts the unwrapped key in its slot and
answers its check value; a revocation empties the slot but keeps its counters; a release empties every slot and derives
the Alias key again; a debug unlock with DBG_EN high raises the level. The trailer's counter is used in each. -/
def Obligations.KeyCommands : Prop :=
  ∀ (dt k c : Nat) (p : Pdu) (s b : State), s.Quiet → p.wf = true → b = (s.begun dt).authorized p k c →
    (∀ x : Bytes → Slot, (s.begun dt).Takes p 0x5200 1 → (s.begun dt).Authorized p 0x5200 1 k c → b.owned = true →
      field 0 1 p.data ≤ 15 → field 1 1 p.data % 128 ≠ 0 →
      (∀ key, x key = ({ key := some key, scope := if field 0 1 p.data = 0 then 0x7F else field 1 1 p.data % 128,
                         kcv := field 0 4 (hmac384 key (ascii "BGYX3KCV")) } : Slot)) →
      exec (.install dt p) s = .next (s.after dt (match Config.unwrapKey (slice 4 96 p.data) (slice 100 56 p.data) with
        | some key => ({ b with enc.slots := tput (field 0 1 p.data) (x key) b.enc.slots } : State).answered p 0x5200 1 { data := le 4 (x key).kcv }
        | none => b.answered p 0x5200 1 { status := .authFailed }))) ∧
    ((s.begun dt).Takes p 0x5200 2 → (s.begun dt).Authorized p 0x5200 2 k c → 1 ≤ field 0 1 p.data → field 0 1 p.data ≤ 15 →
      exec (.keyRevoke dt p) s = .next (s.after dt
        ((b.modSlot (field 0 1 p.data) (fun x => { last := x.last, reserved := x.reserved })).answered p 0x5200 2 {}))) ∧
    ((s.begun dt).Takes p 0x5200 3 → (s.begun dt).Authorized p 0x5200 3 k c →
      exec (.releaseOwnership dt p) s = .next (s.after dt
        (({ b with enc.slots := [], enc.aliasGen := b.enc.aliasGen + 1 } : State).answered p 0x5200 3 {}))) ∧
    ((s.begun dt).Takes p 0x5200 4 → (s.begun dt).Authorized p 0x5200 4 k c → b.enc.debug < field 0 1 p.data →
      field 0 1 p.data ≤ 2 → (field 0 1 p.data = 2 → s.phase ≠ 0xA) →
      exec (.debugUnlock dt p true) s = .next (s.after dt
        (({ b with enc.debug := field 0 1 p.data, enc.aliasGen := b.enc.aliasGen + 1 } : State).answered p 0x5200 4 {})))

/-- A critical command whose tag is wrong changes nothing but the slot's count of failures, which throttles the slot
from the sixteenth on, and is answered AUTH_FAILED; a counter not above the last one used is refused, whatever the
command (R415, R417). -/
def Obligations.TrailerRefusals : Prop :=
  (∀ (s : State) (p : Pdu) (index sub cls : Nat) (t : Trailer) (key d : Bytes), p.trailer = some t → s.enc.st = 1 →
     t.slot ≤ 15 → (s.slot t.slot).key = some key → (s.slot t.slot).last ≠ State.lastCounter → (s.slot t.slot).throttle = none →
     t.tag ≠ tag256 key (State.cmdMessage index sub t d) →
     ∃ u, s.verify p index sub cls d = (some { status := .authFailed }, u) ∧
       (u.slot t.slot).last = (s.slot t.slot).last ∧ (u.slot t.slot).key = some key ∧
       (u.slot t.slot).fails = min ((s.slot t.slot).fails + 1) (2 ^ 32 - 1) ∧
       ((u.slot t.slot).throttle = if 15 ≤ (s.slot t.slot).fails then some s.now else none) ∧
       (∀ j, j ≠ t.slot → u.slot j = s.slot j) ∧ { u with enc := s.enc } = s) ∧
  (∀ (s : State) (p : Pdu) (index sub cls : Nat) (t : Trailer) (key d : Bytes), p.trailer = some t → s.enc.st = 1 →
     t.slot ≤ 15 → (s.slot t.slot).key = some key → (s.slot t.slot).last ≠ State.lastCounter → (s.slot t.slot).throttle = none →
     t.tag = tag256 key (State.cmdMessage index sub t d) → t.counter ≤ (s.slot t.slot).last →
     ∃ u, s.verify p index sub cls d = (some { status := .counterStale }, u) ∧ (u.slot t.slot).last = (s.slot t.slot).last)

/-- Image commands (R404, R406, R451): a segment replaces what it covers in the inactive bank and unverifies it; a
verification that passes marks the bank; an activation schedules the switch for at least two courses on; the minimum SVN
rises to the running image's. -/
def Obligations.ImageCommands : Prop :=
  ∀ (dt k c : Nat) (p : Pdu) (s : State), s.Quiet → p.wf = true → 3 < s.phase → s.phase ≤ 0xA →
    (∀ x, p.trailer = none → (s.begun dt).Takes p 0x5300 1 → s.enc.st ≠ 3 → field 0 4 p.data % 4096 = 0 →
      field 0 4 p.data + (p.data.length - 4) ≤ 2 ^ 25 →
      x = (s.bank s.inactiveBank).image.filter (fun g => !(g.1 == field 0 4 p.data && g.2.length ≤ (p.data.drop 4).length)) →
      exec (.segment dt p) s = .next (s.after dt
        ((((s.begun dt).takePdu p).setBank s.inactiveBank { image := x ++ [(field 0 4 p.data, p.data.drop 4)], verified := false }).answered
          p 0x5300 1 {}))) ∧
    (∀ x, p.trailer = none → (s.begun dt).Takes p 0x5300 2 → s.enc.st ≠ 3 → s.enc.st ≠ 4 → x = s.bank s.inactiveBank →
      exec (.verify dt p) s = .next (s.after dt (if imageOk s.fuse x then
        (((s.begun dt).takePdu p).setBank s.inactiveBank { x with verified := true }).answered p 0x5300 2
          { data := le 4 (imageVersion x) ++ le 2 (imageSvn x) }
        else (((s.begun dt).takePdu p).setBank s.inactiveBank { x with verified := false }).answered p 0x5300 2
          { status := .authFailed }))) ∧
    (∀ x u, (s.begun dt).Takes p 0x5300 3 → (s.begun dt).Authorized p 0x5300 3 k c → s.mgm.update = 0 →
      x = s.bank s.inactiveBank → x.verified = true → u = (s.begun dt).authorized p k c →
      exec (.activate dt p) s = .next (s.after dt (
        if imageOk s.fuse x = false then u.answered p 0x5300 3 { status := .authFailed }
        else if s.enc.version < Config.imageBeside (imagePayload x) then u.answered p 0x5300 3 { status := .rightsFault }
        else (({ u with mgm.update := 1, mgm.oldBank := some s.enc.active } : State).addEvent
            (.firmware (max (field 0 8 p.data) (s.course + 2)))).answered p 0x5300 3
          { data := le 8 (max (field 0 8 p.data) (s.course + 2)) }))) ∧
    ((s.begun dt).Takes p 0x5300 4 → (s.begun dt).Authorized p 0x5300 4 k c →
      exec (.commitSvn dt p) s = .next (s.after dt
        (({ (s.begun dt).authorized p k c with fuse := { s.fuse with minSvn := max s.fuse.minSvn s.enc.svn } } : State).answered
          p 0x5300 4 { data := le 2 (max s.fuse.minSvn s.enc.svn) })))

/-- The enclave halts on a mismatch and restarts on the active image, with every counter at its reservation; a failed
self-test at the restart, at a self-test command or of the entropy source leaves it in error state; a self-test command
that passes is noted (R400, R416, R423). -/
def Obligations.EnclaveFailures : Prop :=
  (∀ (dt : Nat) (s : State), s.Quiet → 3 ≤ s.phase → s.phase ≤ 0xA →
     (s.enc.st = 1 ∨ s.enc.st = 3 → ∃ t, exec (.enclaveLockstepMismatch dt) s = .next t ∧ t.enc = { s.enc with st := 3 } ∧
       t.mgm.nextSeq = (s.mgm.nextSeq + 1) % 2 ^ 32 ∧ t.phase = s.phase ∧ t.near = s.near) ∧
     (s.enc.st = 3 → s.mgm.update = 0 → s.enc.active < 2 → ∃ t, exec (.enclaveRestarted dt true) s = .next t ∧ t.phase = s.phase ∧
       t.near = s.near ∧ (imageOk s.fuse (s.bank s.enc.active) = true → t.enc.st = 1 ∧ t.enc.active = s.enc.active ∧
         t.enc.slots = s.enc.slots.map (fun k => (k.1, { k.2 with last := k.2.reserved })) ∧ t.enc.lmsNext = s.enc.lmsReserved) ∧
       (imageOk s.fuse (s.bank 0) = false → imageOk s.fuse (s.bank 1) = false → t.enc = { s.enc with st := 4 })) ∧
     (s.enc.st = 3 → exec (.enclaveRestarted dt false) s = .next (s.after dt { s.begun dt with enc.st := 2, enc.testsOk := false })) ∧
     exec (.entropyHealthTestFailure dt) s = .next (s.after dt { s.begun dt with enc.st := 2, enc.testsOk := false })) ∧
  (∀ (dt : Nat) (pass : Bool) (p : Pdu) (s : State), s.Quiet → p.wf = true → p.trailer = none → 3 < s.phase → s.phase ≤ 0xA →
     (s.begun dt).Takes p 0x5000 0x10 → field 0 1 p.data = 1 → s.enc.st = 1 →
     exec (.selfTestRun dt p pass) s = .next (s.after dt
       (({ (s.begun dt).takePdu p with enc := if pass then { s.enc with testsOk := true } else { s.enc with st := 2, testsOk := false } }
         : State).answered p 0x5000 0x10 {})))

/-- SPDM requests over MCTP from phase 0x03 to service, with the enclave operational (R408 to R411): each is counted in
0x1102.03 and answered; only a signed answer uses a leaf of the LMS key. Response codes and layouts are the model's, from
SPDM 1.3 (log entry 33). -/
def Obligations.SpdmAnswers : Prop :=
  ∀ (dt eid off len op : Nat) (nonce : Bytes) (s u : State), s.Quiet → eid < 256 → off < 65536 → len < 65536 → nonce.length = 32 →
    3 ≤ s.phase → s.phase ≤ 0xA → s.enc.st = 1 → u = (s.begun dt).count .west 0x1102 3 →
    exec (.getVersion dt eid) s = .next (s.after dt (u.emit (.spdm eid 0x04 0 (le 1 0 ++ le 1 1 ++ le 2 0x1300)))) ∧
    exec (.getCapabilities dt eid) s = .next (s.after dt (u.emit (.spdm eid 0x61 0 (le 4 0x16)))) ∧
    exec (.negotiateAlgorithms dt eid) s = .next (s.after dt (u.emit (.spdm eid 0x63 0 (le 4 0x80 ++ le 4 2 ++ le 4 4)))) ∧
    exec (.getDigests dt eid) s = .next (s.after dt (u.emit (.spdm eid 0x01 1 (sha384 (Config.certChain s.enc.aliasGen))))) ∧
    (∀ d, d = slice off len (Config.certChain s.enc.aliasGen) → exec (.getCertificate dt eid 0 off len) s = .next (s.after dt
      (u.emit (.spdm eid 0x02 0 (le 2 d.length ++ le 2 ((Config.certChain s.enc.aliasGen).length - off - d.length) ++ d))))) ∧
    (1 ≤ op → op ≤ 6 → exec (.getMeasurements dt eid op false nonce) s =
      .next (s.after dt (u.emit (.spdm eid 0x60 0 (s.measureBlock op))))) ∧
    (s.enc.lmsNext < 2 ^ 20 → s.enc.lmsNext < s.enc.lmsReserved → exec (.challenge dt eid 0 nonce) s = .next (s.after dt
      (({ u with enc.lmsNext := s.enc.lmsNext + 1 } : State).emit (.spdm eid 0x03 0
        (sha384 (Config.certChain s.enc.aliasGen) ++
          Config.ecdsaSign s.enc.aliasGen (sha384 (Config.certChain s.enc.aliasGen) ++ nonce) ++
          Config.lmsSign s.enc.lmsNext (sha384 (Config.certChain s.enc.aliasGen) ++ nonce)))))) ∧
    (2 ^ 20 ≤ s.enc.lmsNext → exec (.challenge dt eid 0 nonce) s = .next (s.after dt (u.emit (.spdm eid 0x7F 0x05 []))))

/-- Debug level 0 gives the IDCODE and nothing inside: a read, a trace, a halt or a write does nothing. Level 2 halts a
half controller pair and writes to the halted pair, and a read gives what was written (R421, R502). -/
def Obligations.DebugPortLevels : Prop :=
  ∀ (dt a v : Nat) (h : Half) (s : State), s.Quiet → a < 2 ^ 32 → v < 2 ^ 32 →
    (∀ acc, acc ∈ [DebugAccess.trace h, .read h a, .halt h, .write h a v] → s.enc.debug = 0 →
      exec (.debugPortAccess dt acc false false) s = .next (s.after dt (s.begun dt))) ∧
    (∃ low, exec (.debugPortAccess dt .idcode false false) s = .next (s.after dt
      (({ s.begun dt with free := s.free + 1 } : State).emit (.debug (0x20B33000 + low)))) ∧ low < 2 ^ 12) ∧
    (s.enc.debug = 2 → exec (.debugPortAccess dt (.halt h) false false) s = .next (s.after dt
      ((s.begun dt).modHalf h (fun x => { x with running := false, ctlMem := [] })))) ∧
    (s.enc.debug = 2 → exec (.debugPortAccess dt (.write h a v) false false) s = .next (s.after dt
      ((s.begun dt).modHalf h (fun x => { x with ctlMem := tput a v x.ctlMem })))) ∧
    (s.enc.debug = 2 → (s.half h).running = false → tget a (s.half h).ctlMem = some v →
      exec (.debugPortAccess dt (.read h a) false false) s = .next (s.after dt ((s.begun dt).emit (.debug v))))

/-! ### Slates -/

/-- Slate commands (R446, R447): an activation once a course has begun is scheduled for at least two courses on; a discard
closes the open slate; the header, once written, makes the slate the active one; an edit of a slated object writes the
inactive slate and nothing that is in effect, and the first edit copies the active slate's records, which are none while no slate has been loaded (R449). -/
def Obligations.SlateCommands : Prop :=
  (∀ (dt k c : Nat) (p : Pdu) (s b : State), s.Quiet → p.wf = true → b = (s.begun dt).authorized p k c →
     ((s.begun dt).Takes p 0x2F01 2 → (s.begun dt).Authorized p 0x2F01 2 k c → s.slt.openSeq.isSome = true →
       s.slt.writing = none → s.course ≠ noCourse →
       exec (.slateActivate dt p) s = .next (s.after dt
         ((({ b with slt.scheduled := some (max (field 0 8 p.data) (s.course + 2)) } : State).addEvent
           (.slate (max (field 0 8 p.data) (s.course + 2)))).answered p 0x2F01 2
             { data := le 8 (max (field 0 8 p.data) (s.course + 2)) }))) ∧
     ((s.begun dt).Takes p 0x2F01 3 → (s.begun dt).Authorized p 0x2F01 3 k c → s.slt.openSeq.isSome = true →
       s.slt.scheduled = none → s.slt.writing = none →
       exec (.slateDiscard dt p) s = .next (s.after dt
         (({ b with slt.openSeq := none } : State).answered p 0x2F01 3 {}))) ∧
     (∀ eff q, s.slt.writing = some eff → s.slt.openSeq = some q → s.slt.active < 2 →
       ∃ t, exec (.slateHeaderWritten dt) s = .next t ∧ t.slt.active = 1 - s.slt.active ∧ t.slt.seq = q ∧
         t.slt.openSeq = none ∧ t.slt.writing = none ∧
         (t.slateReg (1 - s.slt.active)).hdr = some (makeHdr (1 - s.slt.active) q eff (s.slateReg (1 - s.slt.active)).recs) ∧
         t.slateReg s.slt.active = s.slateReg s.slt.active ∧ t.west.slate = s.west.slate ∧ t.east.slate = s.east.slate)) ∧
  (∀ (index sub : Nat) (d : Bytes) (s : State), s.slt.active < 2 →
     (d.length ≤ 8 → slateValueBad index sub (ofLe d) = false) →
     (∃ t, s.slateWrite index sub d = ({}, t) ∧ t.slt.openSeq.isSome = true ∧ t.slt.active = s.slt.active ∧
       (t.slateReg (1 - s.slt.active)).recs = State.editRecs
         (if s.slt.openSeq.isSome then (s.slateReg (1 - s.slt.active)).recs else s.activeRecs)
         index sub (slateValue index sub d) ∧
       (t.slateReg (1 - s.slt.active)).hdr = none ∧ t.slateReg s.slt.active = s.slateReg s.slt.active ∧
       t.west = s.west ∧ t.east = s.east) ∨
     s.slateWrite index sub d = ({ status := .quotaExceeded }, s))

/-! ### The ridge -/

/-- A coherent read of a line that no agent holds is granted from memory (R247): an RDS is granted Exclusive, an RDO or
UPG Modified, with the line's data, and the directory names the agent. -/
def Obligations.CoherentGrants : Prop :=
  ∀ (dt x : Nat) (q : Req) (s : State) (off : Nat) (c : Instr) (op : MemOp) (e : Entry) (g : Nat),
    (c, op, e, g) ∈ [(Instr.rds dt q, MemOp.rds, (⟨3, x, 0⟩ : Entry), 2), (.rdo dt q, .rdo, ⟨4, x, 0⟩, 3), (.upg dt q, .upg, ⟨4, x, 0⟩, 3)] →
    c.wf = true → State.wellFormed op q = true → s.Served q off 128 → off % 128 = 0 → s.Clean off 128 →
    s.agentFor q = some x → s.ylx.moves = [] → s.tainted q.ctx q.job = false →
    exec c s = .next (s.after dt (((s.heard dt q).setEntry (offHalf off) (off / 128) (some e)).sendTo (.node q.src q.sid) 1 21
      (.data (q.addr / 128) { tag := q.tag, ld := s.fab.loadLevel, grant := g, data := s.loadBytes off 128,
                              tg := (s.metaOf (off / 4096)).tag })))

/-- A write-back by the agent that owns the line puts its data in memory, and one by any other agent is dropped and
counted in 0x4090.0B; an eviction notice by a holder clears the line's entry. Each is acknowledged (R246, R247). -/
def Obligations.WriteBackAndEvict : Prop :=
  ∀ (dt x u : Nat) (q : Req) (s b : State) (off : Nat), s.Quiet → (Instr.wbd dt q).wf = true → off % 128 = 0 →
    ({ s with west.dir := [], east.dir := [] } : State).Served q off 128 → s.backAgent q = some x → q.pz % 2 = 0 →
    (s.half (offHalf off)).pend = [] → b = (s.begun dt).countArrival q.via 2 q.len →
    ((s.half (offHalf off)).dir = [(off / 128, ⟨4, x % 64, u⟩)] → x < 64 → State.wellFormed .wbd q = true →
      exec (.wbd dt q) s = .next (s.after dt
        (((b.setEntry (offHalf off) (off / 128) none).writeNear off (fitTo 128 q.data)).sendTo (.node q.src q.sid) 1 5
          (.ack (q.addr / 128) { tag := q.tag, ld := s.fab.loadLevel })))) ∧
    ((s.half (offHalf off)).dir = [] → State.wellFormed .wbd q = true →
      exec (.wbd dt q) s = .next (s.after dt ((b.count (offHalf off) 0x4090 0xB).sendTo (.node q.src q.sid) 1 5
        (.ack (q.addr / 128) { tag := q.tag, ld := s.fab.loadLevel })))) ∧
    ((s.half (offHalf off)).dir = [(off / 128, ⟨3, x % 64, u⟩)] → x < 64 → State.wellFormed .evc q = true →
      exec (.evc dt q) s = .next (s.after dt ((b.setEntry (offHalf off) (off / 128) none).sendTo (.node q.src q.sid) 1 5
        (.ack (q.addr / 128) { tag := q.tag, ld := s.fab.loadLevel }))))

/-- Agents (R239, R240, R256, R257, R259, R260): registration, deregistration and its end, the mode, a rebuild's request
and the end of a reclaim walk, on a device whose directory is empty; and the rebuild of a domain that is down, which ends in
strict mode with every lost line poisoned, an empty directory and presence filter, and no dead agent's record. -/
def Obligations.AgentCommands : Prop :=
  (∀ (dt k c a : Nat) (p : Pdu) (s b : State), s.Quiet → p.wf = true → b = (s.begun dt).authorized p k c →
     s.west.dir = [] → s.east.dir = [] → s.west.pend = [] → s.east.pend = [] → s.west.recalls = [] → s.east.recalls = [] →
     ((s.begun dt).Takes p 0x3FF0 1 → (s.begun dt).Authorized p 0x3FF0 1 k c → field 0 1 p.data = a → 1 ≤ a → a < 64 →
       s.rdg.agents = [] →
       exec (.register dt p) s = .next (s.after dt
         (({ b with rdg.agents := [(a, { state := 1, node := field 1 2 p.data % 2 ^ 14, tag := field 3 2 p.data })] } : State).answered
           p 0x3FF0 1 { data := le 1 a }))) ∧
     ((s.begun dt).Takes p 0x3FF0 2 → (s.begun dt).Authorized p 0x3FF0 2 k c → field 0 1 p.data = a → 1 ≤ a →
       (s.agentRec a).state = 1 →
       exec (.deregister dt p) s = .next (s.after dt
         (({ b with rdg.agents := tput a { s.agentRec a with state := 2 } s.rdg.agents } : State).answered p 0x3FF0 2 {}))) ∧
     (1 ≤ a → a < 64 → (s.agentRec a).state = 2 → (s.agentRec 0).state = 1 →
       exec (.deregistrationWalkEnd dt a) s = .next (s.after dt { s.begun dt with rdg.agents := tdel a s.rdg.agents })) ∧
     (1 ≤ a → a < 64 → (s.agentRec a).state = 3 → (s.agentRec 0).state = 1 →
       exec (.reclaimWalkEnd dt a) s = .next (s.after dt { s.begun dt with rdg.agents := tdel a s.rdg.agents })) ∧
     (∀ m, (s.begun dt).Takes p 0x3FF0 3 → (s.begun dt).Authorized p 0x3FF0 3 k c → field 0 1 p.data = m → (m = 1 ∨ m = 2) →
       s.rdg.mode ≠ 0 →
       exec (.domainModeCommand dt p) s = .next (s.after dt (({ b with rdg.mode := m } : State).answered p 0x3FF0 3 {}))) ∧
     ((s.begun dt).Takes p 0x3FF0 4 → (s.begun dt).Authorized p 0x3FF0 4 k c → s.rdg.mode = 0 → s.rdg.rebuild = none →
       exec (.domainRebuild dt p) s = .next (s.after dt
         (({ b with rdg.rebuild := some p } : State).answered p 0x3FF0 4 { later := true })))) ∧
  (∀ (dt : Nat) (p : Pdu) (s : State), s.Quiet → s.rdg.mode = 0 → s.rdg.rebuild = some p → s.rdg.blocked = [] →
     s.plc.moves = [] → s.ylx.moves = [] →
     ∃ t, exec (.rebuildProceed dt) s = .next t ∧ t.rdg.mode = 1 ∧ t.rdg.rebuild = none ∧ t.rdg.downLines = [] ∧
       t.rdg.filter = [] ∧ t.west.dir = [] ∧ t.east.dir = [] ∧ t.west.pend = [] ∧ t.east.pend = [] ∧
       (∀ l ∈ s.rdg.downLines, t.poisoned l = true) ∧ (∀ l, l ∉ s.rdg.downLines → t.poisoned l = s.poisoned l) ∧
       t.near.mem = s.near.mem ∧ (∀ x, x ≠ 0 → (t.agentRec x).state ≠ 3 ∧ (t.agentRec x).state ≠ 4))

/-- Publication regions and publishes (R260 to R263): a region's definition writes its version line, a publish of the next
version is accepted when it is ready and any other is a conflict; freeing forgets the region. -/
def Obligations.Publication : Prop :=
  ∀ (dt k c i off : Nat) (p : Pdu) (r : PubRegion) (q : Req) (w : Held) (s b : State), s.Quiet → p.wf = true →
    b = (s.begun dt).authorized p k c → off = gaOff r.base → s.near.stackRecs = [] →
    ((s.begun dt).Takes p 0x3FF0 6 → (s.begun dt).Authorized p 0x3FF0 6 k c → field 0 1 p.data = i → tget i s.rdg.regions = some r →
      exec (.publicationRegionFree dt p) s = .next (s.after dt
        (({ b with rdg.regions := tdel i s.rdg.regions } : State).answered p 0x3FF0 6 {}))) ∧
    ((s.begun dt).Takes p 0x3FF0 5 → (s.begun dt).Authorized p 0x3FF0 5 k c → field 0 1 p.data = i → i < 128 → s.rdg.regions = [] →
      s.plc.regions = [] → s.plc.moves = [] → s.ylx.moves = [] → s.avl.serving = [] → s.west.staged = [] → s.east.staged = [] →
      r = { ctx := field 1 2 p.data, base := mkGa s.nodeNum (gaOff (field 3 8 p.data % 2 ^ 62)), pages := field 11 4 p.data, version := field 15 4 p.data } →
      r.ctx ≠ 0 → r.ctx ≤ 1023 → field 3 8 p.data % 65536 = 0 → r.pages ≠ 0 → s.nodeNum ≠ 0x3FFF →
      gaNode (field 3 8 p.data) = s.nodeNum → s.grantedRange r.ctx off r.pages = true →
      (s.half (offHalf off)).dir = [] →
      exec (.publicationRegionDefine dt p) s = .next (s.after dt
        ((({ b with rdg.regions := [(i, r)] } : State).writeNear off
          (State.versionBytes r.version 0x3FFF 0xFFFF (s.courseOf (offHalf off)))).answered p 0x3FF0 5 { data := le 1 i }))) ∧
    (s.rdg.mode ≠ 0 → s.rdg.regions = [(i, r)] → w.acc.op = .pub → w.acc.region = i → w.released = true → w.acc.q = q → q.u = false →
      w.acc.hold = false → w.acc.org = .remote (.node q.src q.sid) → (s.half .west).held = [w] → s.east.held = [] → offHalf off = .west →
      s.west.dir = [] → s.west.retried = [] → s.west.aged = [] →
      s.isSelf (gaNode w.acc.ga) = true → r.ctx = q.ctx → s.extentCheck q.ctx w.acc.ga off = none → q.src < 2 ^ 14 → q.sid < 256 → q.job < 2 ^ 16 → q.tag < 2 ^ 20 →
      (w.acc.version = (r.version + 1) % 2 ^ 32 → ∃ t, exec (.publishReady dt q.src q.sid q.job q.tag) s = .next t ∧
        t.west.held = [] ∧ t.rdg.regions = [(i, { r with version := w.acc.version, accepted := min (r.accepted + 1) (2 ^ 32 - 1) })] ∧
        (s.MemOk → t.loadBytes off 128 = State.versionBytes w.acc.version q.src q.job s.west.course)) ∧
      (w.acc.version ≠ (r.version + 1) % 2 ^ 32 → ∃ t, exec (.publishReady dt q.src q.sid q.job q.tag) s = .next t ∧
        t.west.held = [] ∧ t.rdg.regions = [(i, { r with conflicts := min (r.conflicts + 1) (2 ^ 32 - 1) })] ∧ t.near = s.near))

/-- The ridge's own events: a publish that arrives waits until it is ready (R262); an answer to the last snoop of a recall
writes its dirty data and clears the line (R246, R247); a snoop unanswered for the first timeout is sent again (R250); a
queued Aged request that does not come back leaves the queue (R252); a presence query of a line outside the filter's reach
answers hit (R264). -/
def Obligations.RidgeEvents : Prop :=
  ∀ (dt : Nat) (s : State), s.Quiet →
    (∀ (h : Half) (line x : Nat) (p : Pend) (r : Srsp) (port : Nat), r.via = .batch port → r.u = false → (Instr.srsp dt r).wf = true →
      s.locateHere (r.line * 128) = .near (line * 128) → offHalf (line * 128) = h → (s.half h).pend = [(line, p)] →
      s.avl.purlinUp = true → (s.half h).recalls = [] → p.await = [x] → p.why = .move → p.wbd = [] → p.dirty = none → p.discard = false →
      s.plc.moves = [] → s.answering r [x] = some x →
      ∃ t, exec (.srsp dt r) s = .next t ∧ (t.half h).pend = [] ∧ t.entryOf h line = tget line (tdel line (s.half h).dir) ∧
        (s.MemOk → s.near.stackRecs = [] → r.dirty = true → t.loadBytes (line * 128) 128 = fitTo 128 r.data) ∧ (r.dirty = false → t.near = s.near)) ∧
    (∀ (h : Half) (line x : Nat) (p : Pend), lineOk line = true → tget line (s.half h).pend = some p → p.await = [x] → x < 64 → p.resent = false →
      p.stamp + max 1600 (s.cfg h 0x20B0 1) ≤ s.now + dt → exec (.snoopTimeout dt h line) s = .next (s.after dt
        ((({ s.begun dt with rdg.agents := tmod x {} (fun g => { g with timeouts := min (g.timeouts + 1) 65535 }) s.rdg.agents }
            : State).modHalf h (fun y => { y with pend := tput line { p with resent := true, stamp := s.now + dt } y.pend })).snoopTo h x p.snp line))) ∧
    (∀ (h : Half) (line : Nat) (g : Aged), lineOk line = true → (s.half h).dir = [] → (s.half h).aged = [g] → g.line = line →
      g.head = false → g.since + 16 * max 1600 (s.cfg h 0x20B0 1) ≤ s.now + dt → exec (.agedHeadTimeout dt h line) s = .next (s.after dt ((s.begun dt).modHalf h (fun x => { x with aged := [] })))) ∧
    (∀ (e : Half) (fseq tag line off : Nat), (Instr.pq dt e fseq tag false line false).wf = true → s.endUp e = true →
      s.locateHere (line * 128) = .near off → off < nearSize → s.cfgBit e 0x20B0 2 0 = true →
      s.filterHit e (offHalf off) (off / 128) = false →
      exec (.pq dt e fseq tag false line false) s = .next (s.after dt
        ((((s.begun dt).count e 0x4090 0xE).count e 0x40B0 5).emit (.presence e fseq tag false true)))) ∧
    (∀ (q : Req) (region version : Nat) (r : PubRegion) (port : Nat), q.via = .batch port → (Instr.pub dt q region version s.nodeNum).wf = true →
      State.wellFormed .pub q = true → s.nodeNum ≠ 0x3FFF → s.phase = 0xA → q.ctx ≠ 0 → q.job ≠ 0xFFFF → q.u = false → s.rdg.mode ≠ 0 →
      s.avl.purlinUp = true → s.cfgBit (portHalf port) 0x20D0 1 2 = false → tget region s.rdg.regions = some r →
      exec (.pub dt q region version s.nodeNum) s = .next (s.after dt ((s.begun dt).modHalf (offHalf (gaOff r.base)) (fun x =>
        { x with held := x.held ++ [{ acc := { op := .pub, q := { q with dst := s.nodeNum }, ga := q.addr, org := .remote (.node q.src q.sid),
                                               region := region, version := version, waited := true },
                                      bytes := 0, released := false }] }))))

/-! ### Jobs and hold groups -/

/-- Confirm and retract messages from the issuer of the check ID (R215, R227, R228), where one group depends on it and on
nothing else: a confirm closes the group and confirms its blocks; a retract retracts them and ends the job. From any
source but the issuer either changes no group and is counted in 0x4080.12. -/
def Obligations.ConfirmAndRetract : Prop :=
  (∀ (dt i : Nat) (g : Group) (m : IntegrityMsg) (s : State), s.Quiet → m.wf = true → m.src = m.node → m.sid = 0xF0 →
     s.entersHere m.via = false → forUs m.via = true → m.reserved = false → m.node ≠ s.nodeNum → i < 4096 → s.itg.groups = [(i, g)] → g.phase = 0 → g.deps = [⟨m.node, m.serial⟩] →
     g.pending = 0 → g.receivers = [] → s.itg.commits = [] → s.itg.waits = [] → s.west.held = [] → s.east.held = [] →
     s.west.caps = [] → s.east.caps = [] → s.eng.outs = [] → s.eng.tiles = [] → s.eng.yealms = [] → s.eng.updates = [] →
     g.job ≠ 0xFFFF → s.jobEnded g.ctx g.job = false → s.itg.jobs.length < 4096 →
     (∃ t, exec (.confirm dt m) s = .next t ∧ t.itg.groups = [] ∧ (∀ b ∈ g.blocks, (t.metaOf b).st = 0) ∧
       (∀ b, b ∉ g.blocks → t.metaOf b = s.metaOf b) ∧ t.near.mem = s.near.mem ∧ t.jobEnded g.ctx g.job = false) ∧
     (∃ t, exec (.retract dt m) s = .next t ∧ t.itg.groups = [] ∧ (∀ b ∈ g.blocks, (t.metaOf b).st = 2) ∧
       (∀ b, b ∉ g.blocks → t.metaOf b = s.metaOf b) ∧ t.near.mem = s.near.mem ∧ t.jobEnded g.ctx g.job = true ∧
       (⟨m.node, m.serial⟩ : CheckId) ∈ t.itg.retracted)) ∧
  (∀ (dt : Nat) (m : IntegrityMsg) (s : State) (c : Instr), s.Quiet → m.wf = true → c ∈ [Instr.confirm dt m, .retract dt m] →
     forUs m.via = true → m.reserved = false → (m.src ≠ m.node ∨ m.sid ≠ 0xF0 ∨ s.entersHere m.via = true) →
     exec c s = .next (s.after dt (((s.begun dt).countArrival m.via 3 7).count (viaHalf m.via) 0x4080 0x12)))

/-- A job-end message from a source that may send it ends the job here and is not relayed; a course commit of a job that
is neither ended nor tainted is recorded, never downwards; the confirms of a closed group go to its receivers once its
writes have completed; a wait ends when its answer's check ID fits the job's group (R211 to R216, R227, R229, R230). -/
def Obligations.JobMessages : Prop :=
  ∀ (dt : Nat) (m : IntegrityMsg) (s : State), s.Quiet → m.wf = true → m.reserved = false → forUs m.via = true →
    (1 ≤ m.reason → m.reason ≤ 5 → s.mayEndJob m = true → m.job ≠ 0xFFFF → s.jobEnded m.ctx m.job = false → s.itg.groups = [] →
      s.itg.commits = [] → s.west.caps = [] → s.east.caps = [] → s.eng.tiles = [] → s.eng.yealms = [] → s.eng.updates = [] →
      s.itg.jobs.length < 4096 →
      ∃ t, exec (.jobEnd dt m) s = .next t ∧ ∃ r, tget (m.ctx, m.job) t.itg.jobs = some r ∧ r.ended = true ∧ r.reason = m.reason ∧
        (∀ k, k ≠ (m.ctx, m.job) → tget k t.itg.jobs = tget k s.itg.jobs) ∧ t.near = s.near ∧ t.eng = s.eng) ∧
    (∀ r, s.mayCommit m = true → tget (m.ctx, m.job) s.itg.jobs = some r → r.ended = false → s.itg.groups = [] →
      ∃ t, exec (.courseCommit dt m) s = .next t ∧ ∃ r', tget (m.ctx, m.job) t.itg.jobs = some r' ∧
        r'.course = (if r.course = noCourse ∨ r.course < m.course then m.course else r.course) ∧ r'.ended = false ∧
        (∀ k, k ≠ (m.ctx, m.job) → tget k t.itg.jobs = tget k s.itg.jobs) ∧ t.near = s.near) ∧
    (∀ g n, tget (4096 + m.serial) s.itg.groups = some g → g.phase = 1 → s.writesUnder (s.idOf g) = false → g.receivers = [n] →
      exec (.confirmSend dt m.serial) s = .next (s.after dt
        (({ s.begun dt with itg.groups := tdel (4096 + m.serial) s.itg.groups } : State).sendIntegrity (.node n 0xF0) 1 0 g.ctx
          g.job s.nodeNum g.serial 0))) ∧
    (∀ i w r d k g, s.itg.waits[i]? = some w → w.reply = some r → w.acc.org = .host d → w.acc.op = .read → r.u = true → r.blks = [] →
      s.jobEnded w.acc.q.ctx w.acc.q.job = false → s.openGroupOf w.acc.q.ctx w.acc.q.job = some (k, g) →
      r.ck ≠ s.idOf g → g.deps.contains r.ck = false → g.deps.length < 16 →
      exec (.holdWaitResume dt i) s = .next (s.after dt
        (({ s.begun dt with itg.waits := s.itg.waits.eraseIdx i,
                            itg.groups := tput k { g with deps := g.deps ++ [r.ck] } s.itg.groups } : State).sendReply d w.acc r)))

/-- Job commands (R229, R234, R235): a reopened job may run again, a commit is recorded and answered, and a query answers
the job's 32-byte record and changes nothing. -/
def Obligations.JobCommands : Prop :=
  ∀ (dt c j : Nat) (r : Job) (p : Pdu) (s b : State), s.Quiet → p.wf = true → p.trailer = none → b = (s.begun dt).takePdu p →
    field 0 2 p.data = c → field 2 2 p.data = j → c ≤ 1023 → tget (c, j) s.itg.jobs = some r →
    ((s.begun dt).Takes p 0x3FC0 1 → exec (.reopen dt p) s = .next (s.after dt
      (({ b with itg.jobs := tput (c, j) { r with ended := false, reason := 0 } s.itg.jobs } : State).answered p 0x3FC0 1 {}))) ∧
    ((s.begun dt).Takes p 0x3FC0 2 → r.ended = false → s.itg.groups = [] → exec (.courseCommitCommand dt p) s = .next (s.after dt
      ((b.recordCourse c j (field 4 8 p.data % 2 ^ 48)).answered p 0x3FC0 2 {}))) ∧
    ((s.begun dt).Takes p 0x3FC0 2 → r.ended = true → exec (.courseCommitCommand dt p) s = .next (s.after dt
      (b.answered p 0x3FC0 2 { status := .jobEnded }))) ∧
    ((s.begun dt).Takes p 0x3FC0 3 → exec (.jobRecordQuery dt p) s = .next (s.after dt
      (b.answered p 0x3FC0 3 { data := s.jobRecord c j })))

/-- The home's own check of a stored block (R206): a block whose stored bytes no longer have its crc is poisoned whole and
becomes void, and nothing is written over it; one whose crc is right is left as it is. -/
def Obligations.HomeCheckPoisons : Prop :=
  ∀ (dt ga off b : Nat) (s : State), s.Quiet → ga < 2 ^ 62 → s.locateHere ga = .near off → b = off / 4096 →
    (s.metaOf b).void = false →
    ((s.metaOf b).crc = s.blockCrc b → exec (.homeBlockCheck dt ga []) s =
       .next (s.after dt ((s.begun dt).count (offHalf (b * 4096)) 0x4080 1))) ∧
    ((s.metaOf b).crc ≠ s.blockCrc b → ∃ t, exec (.homeBlockCheck dt ga []) s = .next t ∧
      (∀ i, i < 32 → t.poisoned (b * 32 + i) = true) ∧ (t.metaOf b).void = true ∧
      (∀ l, l / 32 ≠ b → t.poisoned l = s.poisoned l) ∧ (∀ c, c ≠ b → t.metaOf c = s.metaOf c) ∧
      t.near.mem = s.near.mem ∧ t.itg = s.itg)

/-! ### The course's edge -/

/-- An accepted edge with an announcement above the course begins that course in both halves at once, uses the
announcement up, and renews both copies of the lease (R27, R29, R32, R39, R385); the first course begins the joining of
the roof (R480). Here nothing is placed or moved, no row is tracked, no slate is in effect and nothing is scheduled, so
the other steps of R39 have nothing to do. -/
def Obligations.CourseBegins : Prop :=
  ∀ (dt a : Nat) (h : Half) (s : State), s.Quiet → 8 ≤ s.phase → s.phase ≤ 0xA →
    (∀ u, s.crs.lastEdge = some u → u + 80000 ≤ s.now + dt) → s.avl.purlinUp = true →
    s.west.leaseHolder = h → s.east.leaseHolder = h → s.west.leaseSeq = s.east.leaseSeq →
    (s.half h).armed = some a → (s.courseOf h = noCourse ∨ s.courseOf h < a) → a < noCourse →
    s.west.slate = [] → s.east.slate = [] → s.west.events = [] → s.east.events = [] → s.west.staged = [] → s.east.staged = [] →
    s.west.dir = [] → s.east.dir = [] → s.crs.rejoined = false → s.avl.serving = [] → s.avl.admission.st = 0 →
    s.fab = {} → s.opt = {} → s.ylx = {} → s.plc = { state := s.plc.state } →
    ∃ t, exec (.courseBeaconEdge dt) s = .next t ∧ t.west.course = a ∧ t.east.course = a ∧ t.west.armed = none ∧
      t.east.armed = none ∧ t.west.leaseHolder = h ∧ t.east.leaseHolder = h ∧ t.west.leaseSeq = s.west.leaseSeq + 1 ∧
      t.east.leaseSeq = s.west.leaseSeq + 1 ∧ t.west.leaseCourse = a ∧ t.east.leaseCourse = a ∧
      t.crs.lastEdge = some (s.now + dt) ∧ t.crs.stamp = s.now + dt ∧ t.crs.silent = false ∧
      t.crs.first = (if s.crs.first = noCourse then a else s.crs.first) ∧
      (s.crs.first = noCourse → s.phase = 8 → s.avl.tested = true → s.startupHeld = false → t.phase = 9) ∧
      t.near = s.near ∧ t.spc = s.spc ∧ t.itg = s.itg ∧ t.nodeNum = s.nodeNum ∧ t.west.slate = [] ∧ t.east.slate = []

/-! ### Bulk writes, answers, and invalidations -/

/-- A segment of a bulk write (R317): until its block's sixteenth segment has come it is only kept; with the sixteenth the
block is in place with the spar, poison and state it came with, and BDONE answers (R202, R205, R210). -/
def Obligations.BulkWriteSegments : Prop :=
  ∀ (dt : Nat) (q : Req) (l : List Req) (ls : Bool) (s : State), (Instr.bputSegment dt q).wf = true → s.Quiet →
    s.entersHere q.via = false → State.wellFormed .bput q = true → (∀ r ∈ l, r.seg < 16) → q.seg < 16 →
    (l = [] ∧ ls = false ∧ s.eng.bputs = [] ∨
      s.eng.bputs = [((q.src, q.sid, q.tag), ({ segs := l, lastSeen := ls } : BputRx))]) →
    (l.length < 15 → exec (.bputSegment dt q) s = .next (s.after dt
      { s.heard dt q with eng.bputs := [((q.src, q.sid, q.tag), { segs := l ++ [q], lastSeen := ls || q.last })] })) ∧
    (∀ (k : Req) (d : Bytes) (crc : BitVec 32) (tag off : Nat), l.length = 15 → (ls || q.last) = true →
      k = State.blockOf (l ++ [q]) q 0 → d = fitTo 4096 k.data → k.spar = some ⟨crc, tag⟩ → (crc = crc32c d ∨ k.pz ≠ 0) →
      s.Served k off 4096 → (s.half (offHalf off)).mismatches = [] →
      exec (.bputSegment dt q) s = .next (s.after dt
        ((({ s.heard dt q with eng.bputs := [] } : State).writeBlock (off / 4096) d crc tag k.pz (if k.st = 2 then 2 else 0) 0).sendTo
          (.node q.src q.sid) 1 4 (.bdone { tag := q.tag, ld := s.fab.loadLevel }))))

/-- An answer to the one outstanding request (R279, R312, R317, R330): it is counted on its port and at its node, the
request is no longer outstanding, and its requester has the answer; a bulk answer is whole with its last segment. -/
def Obligations.AnswersReachRequester : Prop :=
  ∀ (dt : Nat) (r : Rsp) (o : OutReq) (d : Party) (s b : State), r.wf = true → s.Quiet →
    b = ((s.begun dt).portRecv r).noteResponse r → s.eng.outs = [o] → o.sid = r.sid → o.tag = r.tag → o.sent = true →
    o.acc.org = .host d → o.acc.q.job ≠ 0xFFFF → o.joined = [] → o.fell = false → o.again = false → o.reread = false → o.cause = none →
    r.on = none → r.loc = none → r.u = false →
    (∀ c ∈ [Instr.rsp dt r, .bdone dt r], ∀ op ∈ [MemOp.read, .write, .atomic, .bput], o.acc.op = op → r.status = 0 →
      exec c s = .next (s.after dt
        (((({ b with eng.outs := [] } : State).trackDone o.acc .ok).sendReply d o.acc (State.replyOf r)).relaunch.settle))) ∧
    (r.last = false → exec (.bdataSegment dt r) s = .next (s.after dt { b with eng.outs := [{ o with segs := o.segs ++ [r] }] })) ∧
    (∀ ks, r.last = true → o.acc.op = .bget → ks = State.blksOf (o.segs ++ [r]) → (∀ k ∈ ks, k.ck = none) →
      (∀ k ∈ ks, s.crcBad (State.accHalf o.acc) k = false) →
      exec (.bdataSegment dt r) s = .next (s.after dt
        (((({ b with eng.outs := [] } : State).countChecks (State.accHalf o.acc) ks).sendReply d o.acc
          { State.replyOf r with status := .ok, data := [], blks := ks, pz := 0 }).relaunch.settle)))

/-- The answer to a table walk's read is noted in the walk, which goes on (R56). A mismatch record that expires is gone
(R205). An access that has waited the stall threshold is counted under the cause seen here (R99). A read of a privileged
context that has waited its fallback threshold is served from its fallback path: a row as the default row, any other read
by a read of the near copy through the home half (R101 to R103). -/
def Obligations.WaitsAndWalks : Prop :=
  ∀ (dt : Nat) (o : OutReq) (s : State), s.Quiet → s.eng.outs = [o] → o.sent = true → o.sid < 256 → o.tag < 2 ^ 20 →
    (∀ r id w b, r.wf = true → o.sid = r.sid → o.tag = r.tag → o.acc.org = .walk id → tget id s.spc.walks = some w → r.status = 0 →
      r.on = none → r.loc = none → o.acc.op = .read → o.joined = [] → o.fell = false → o.cause = none →
      b = ((s.begun dt).portRecv r).noteResponse r →
      exec (.walkReadResponse dt r) s = .next (s.after dt
        ((({ b with eng.outs := [], spc.walks := tput id { w with got := w.got ++ [(o.acc.ga, r.data)], await := none } s.spc.walks }
          : State).push (.walk id)).relaunch.settle))) ∧
    (∀ h src sid tag block, (Instr.mismatchRecordExpiry dt h src sid tag block).wf = true →
      exec (.mismatchRecordExpiry dt h src sid tag block) s = .next (s.after dt
        ((s.begun dt).modHalf h (fun x => { x with mismatches := x.mismatches.filter (fun m => m ≠ ⟨src, sid, tag, block⟩) })))) ∧
    (o.cause = none → o.issued + s.cfg (State.accHalf o.acc) 0x2070 0xB ≤ s.now + dt →
      exec (.stallThreshold dt o.sid o.tag true) s = .next (s.after dt
        { (s.begun dt).count (State.accHalf o.acc) 0x4040 1 with eng.outs := [{ o with cause := some 0 }] }) ∧
      exec (.stallThreshold dt o.sid o.tag false) s = .next (s.after dt { s.begun dt with eng.outs := [{ o with cause := some 15 }] })) ∧
    (∀ t, s.fallbackAfter o.acc.q.ctx = some t → o.fell = false → o.acc.fell = false → o.issued + t ≤ s.now + dt → o.joined = [] →
      (∀ e k, o.acc.org = .engine e k → State.isRowReq o.acc = true → o.acc.op = .read → o.acc.q.job ≠ 0xFFFF →
        exec (.fallbackThreshold dt o.sid o.tag) s = .next (s.after dt
          (((({ s.begun dt with eng.outs := [{ o with fell := true, joined := [] }] } : State).count (State.accHalf o.acc) 0x4042 7).trackDone
            o.acc .tierFallback).push (.deliver e k { status := .tierFallback })).settle)) ∧
      (∀ off n, State.isRowReq o.acc = false → s.fallsBack o.acc = true →
        s.fallbackRange o.acc.q.ctx o.acc.ga (State.accBytes o.acc) = some (off, n) →
        exec (.fallbackThreshold dt o.sid o.tag) s = .next (s.after dt
          ((({ s.begun dt with eng.outs := [{ o with fell := true, joined := [] }] } : State).count (State.accHalf o.acc) 0x4042 7).homeGo
            { o.acc with op := .read, fell := true, passed := false, ga := mkGa s.nodeNum off,
                         q := { o.acc.q with src := s.nodeNum, size := n } } off).settle)))

/-- A cap release lets the capping write that waits for it be performed and answered, with the wait told (R279, R316,
R333).
An invalidation from a source that may ask for it drops the cached translations it names, with every engine's and port's
copy of them and the walk caches of its contexts, in both halves, and waits for the accesses that used them; any other is to be answered RIGHTS_FAULT; the acknowledgement goes out once none of those accesses is in
flight (R62 to R66). -/
def Obligations.ReleasesAndInvalidations : Prop :=
  (∀ (dt port off : Nat) (q : Req) (h : Half) (s b : State), (Instr.write dt q).wf = true → h = offHalf off → q.via = .batch port →
     (s.half h).caps = [{ op := .write, q := { q with cap := true }, ga := q.addr, org := .remote (.node q.src q.sid), waited := true }] →
     (s.half h.other).caps = [] →
     b = { s with west.caps := [], east.caps := [] } → b.Served q off q.size →
     (∀ l ∈ State.linesOf off q.size, ¬ (off ≤ l * 128 ∧ l * 128 + 128 ≤ off + q.size) → s.poisoned l = false) →
     exec (.caprel dt (.batch port) q.src q.sid q.job q.tag 0) s = .next (s.after dt
       (((((b.begun dt).count h 0x40A0 3).writeNear off (fitTo q.size q.data)).poisonCarried off q.size q.pz).sendTo (.node q.src q.sid) 1 4
         (.mem { tag := q.tag, ld := s.fab.loadLevel, sv := true, stall := 1 })))) ∧
  (∀ (dt src tag op ctx seq addr pages : Nat) (via : Via) (s b : State), s.Quiet →
     (Instr.invalidation dt via src tag op ctx seq addr pages).wf = true → forUs via = true → s.spc.walks = [] →
     b = ((s.begun dt).countArrival via 3 7).count (viaHalf via) 0x4030 1 →
     (s.invAllowed via src op ctx = true → s.avl.purlinUp = true → exec (.invalidation dt via src tag op ctx seq addr pages) s = .next (s.after dt
       (({ b with spc.invs := s.spc.invs ++ [⟨s.invParty via src, seq,
             (((s.west.tlb ++ (s.west.unitTlb.map (·.2)).flatten) ++ (s.east.tlb ++ (s.east.unitTlb.map (·.2)).flatten)).filter
               (State.invNames op ctx addr pages)).map (·.gen), false, none⟩] } : State).modBoth
         (fun x => { x with tlb := x.tlb.filter (fun t => !State.invNames op ctx addr pages t),
                            unitTlb := x.unitTlb.map (fun u => (u.1, u.2.filter (fun t => !State.invNames op ctx addr pages t))),
                            walkCache := x.walkCache.filter (fun w => !(op == 5 || w.1 == ctx)) })))) ∧
     (s.invAllowed via src op ctx = false → exec (.invalidation dt via src tag op ctx seq addr pages) s = .next (s.after dt
       (({ b with spc.invs := s.spc.invs ++ [⟨s.invParty via src, seq, [], true, none⟩] } : State).count (viaHalf via) 0x4030 3))) ∧
     (∀ gens rej, s.spc.invs = [⟨s.invParty via src, seq, gens, rej, none⟩] → (∀ a ∈ s.openAccs, ∀ g ∈ a.gens, g ∉ gens) →
       exec (.invalidationAck dt via src seq) s = .next (s.after dt
         (({ s.begun dt with spc.invs := [] } : State).sendTo (s.invParty via src) 3 5
           (.invAck (if rej then .rightsFault else .ok) seq)))))

/-! ### Contexts and extents -/

/-- The life of an extent (R49, R62, R69 to R74, R84): a descriptor's write changes its one field, and drops the cached
translations of the context where the field is part of them; a grant takes a record and a shelf grant is passed on; the
end of zeroing leaves zero bytes, readable lines and valid spars; a revoke raises the fence, and a second one answers the
first one's time; the drain's end and its limit leave a report; the acknowledgement frees the record. -/
def Obligations.ExtentLife : Prop :=
  ∀ (dt k c n : Nat) (p : Pdu) (x : Extent) (s b : State), s.Quiet → p.wf = true → b = (s.begun dt).authorized p k c → n < 1024 →
    s.spc.walks = [] →
    (∀ cx sub v f, v = ofLe p.data → 1 ≤ cx → cx ≤ 1023 → (sub = 1 → v ≤ 1) →
      (sub, f) ∈ [(1, fun (y : Ctx) => { y with on := v == 1 }), (4, fun y => { y with s2root := v % 2 ^ 62 }),
                  (5, fun y => { y with s2geo := v }), (6, fun y => { y with mask := v % 2 ^ 33 })] →
      (s.begun dt).Takes p (0x3000 + cx) sub → (s.begun dt).Authorized p (0x3000 + cx) sub k c →
      exec (.contextDescriptorWrite dt cx sub p) s = .next (s.after dt
        (((b.modCtx cx f).modBoth (State.without cx)).answered p (0x3000 + cx) sub {}))) ∧
    (∀ cx sub v f, v = ofLe p.data → 1 ≤ cx → cx ≤ 1023 → p.trailer = none →
      (sub, f) ∈ [(2, fun (y : Ctx) => { y with s1root := v }), (3, fun y => { y with s1geo := v })] →
      (s.begun dt).Takes p (0x3000 + cx) sub →
      exec (.contextDescriptorWrite dt cx sub p) s = .next (s.after dt
        (((((s.begun dt).takePdu p).modCtx cx f).modBoth (State.without cx)).answered p (0x3000 + cx) sub {}))) ∧
    (∀ cx sub v f, v = ofLe p.data → 1 ≤ cx → cx ≤ 1023 →
      (sub, f) ∈ [(0x10, fun (y : Ctx) => { y with nearQuota := v }), (0x14, fun y => { y with bulkQuota := v }),
                  (0x16, fun y => { y with flags := v % 4 }), (0x18, fun y => { y with bucketRate := v })] →
      (s.begun dt).Takes p (0x3000 + cx) sub → (s.begun dt).Authorized p (0x3000 + cx) sub k c →
      exec (.contextDescriptorWrite dt cx sub p) s = .next (s.after dt ((b.modCtx cx f).answered p (0x3000 + cx) sub {}))) ∧
    ((s.begun dt).Takes p 0x3F00 1 → (s.begun dt).Authorized p 0x3F00 1 k c →
      (field 0 2 p.data = n ∧ (s.extent n).state = 0 ∨ field 0 2 p.data = 0xFFFF ∧ freeNum s.spc.extents 1024 0 = some n) →
      x = { state := if bitOf (field 16 1 p.data) 0 then 1 else 2, ctx := field 2 2 p.data, base := field 4 8 p.data,
            pages := field 12 4 p.data, grantNode := s.nodeNum, zero := bitOf (field 16 1 p.data) 0 } →
      1 ≤ x.ctx → x.ctx ≤ 1023 → x.base % 65536 = 0 → 1 ≤ x.pages → x.base + x.pages * 65536 ≤ nearSize →
      (∀ e ∈ s.spc.extents, e.2.ctx = x.ctx → e.2.state ≠ 0 → State.rangesMeet e.2.base e.2.pages x.base x.pages = false) →
      s.nearUsed x.ctx + x.pages ≤ (s.ctx x.ctx).nearQuota →
      exec (.grant dt p) s = .next (s.after dt
        (({ b with spc.extents := tput n x s.spc.extents } : State).answered p 0x3F00 1 { data := le 2 n }))) ∧
    ((s.begun dt).Takes p 0x3F10 1 → (s.begun dt).Authorized p 0x3F10 1 k c → s.ownsShelf (field 0 2 p.data) = true →
      1 ≤ field 4 2 p.data → field 4 2 p.data ≤ 1023 → field 2 2 p.data ≠ 0xFFFF →
      (s.ctx (field 4 2 p.data)).bulkUsed + field 14 4 p.data ≤ (s.ctx (field 4 2 p.data)).bulkQuota →
      exec (.shelfGrant dt p) s = .next (s.after dt
        (({ (b.modCtx (field 4 2 p.data) (fun y => { y with bulkUsed := y.bulkUsed + field 14 4 p.data })).emit
            (.shelfGrant (field 0 2 p.data) (p.data.drop 2)) with
          spc.shelfGrants := s.spc.shelfGrants ++
            [⟨field 0 2 p.data, field 4 2 p.data, field 6 8 p.data % 2 ^ 48, field 14 4 p.data⟩] } : State).answered p 0x3F10 1 { data := le 2 (field 2 2 p.data) }))) ∧
    (x = s.extent n → x.state = 1 → x.base % 65536 = 0 → s.MemOk → s.near.stackRecs = [] → ∃ t, exec (.zeroingComplete dt n) s = .next t ∧
      t.extent n = { x with state := 2 } ∧ t.MemOk ∧
      (∀ a, x.base ≤ a → a < x.base + x.pages * 65536 → memGet a t.near.mem = 0 ∧ t.poisoned (a / 128) = false ∧
        t.metaOf (a / 4096) = { crc := crc32c (zeros 4096), tag := 0, st := 0, hold := 0, void := false }) ∧
      (∀ a, (a < x.base ∨ x.base + x.pages * 65536 ≤ a) → memGet a t.near.mem = memGet a s.near.mem ∧
        t.poisoned (a / 128) = s.poisoned (a / 128) ∧ t.metaOf (a / 4096) = s.metaOf (a / 4096))) ∧
    (x = s.extent n → (s.begun dt).Takes p 0x3F00 2 → (s.begun dt).Authorized p 0x3F00 2 k c → field 0 2 p.data = n →
      (3 ≤ x.state → exec (.revoke dt p) s = .next (s.after dt (b.answered p 0x3F00 2 { data := le 8 x.stamp }))) ∧
      (∀ y, y = { x with state := 3, stamp := s.now + dt, course := s.course, revokeNode := s.nodeNum, path := State.pathCode p, drops := [], ended := 0, dirty := 0, late := 0, holders := [] } →
        x.state = 2 → s.plc.away = [] → s.plc.here = [] → s.plc.moves = [] → s.ylx.moves = [] → s.ylx.overs = [] → s.avl.serving = [] →
        s.west.dir = [] → s.east.dir = [] → s.west.pend = [] → s.east.pend = [] → s.west.recalls = [] → s.east.recalls = [] →
        exec (.revoke dt p) s = .next (s.after dt
          (({ b with spc.extents := tput n y s.spc.extents } : State).answered p 0x3F00 2 { data := le 8 (s.now + dt) })))) ∧
    (∀ v rec' q, x = s.extent n → x.state = 3 → s.west.pend = [] → s.east.pend = [] → s.west.held = [] → s.east.held = [] →
      s.rdg.blocked = [] → s.itg.waits = [] → q = s.spc.reportSeq → rec' = State.reportBytes n x q →
      v = ({ (s.begun dt).modExtent n (fun e => { e with state := 4, reportSeq := q, holders := [] }) with spc.reportSeq := (q + 1) % 2 ^ 32, spc.reports := tput n rec' s.spc.reports } : State) →
      (x.holders = [] → exec (.revocationDrainEnd dt n) s =
        .next (s.after dt (if x.path = 4 then v.toCompanion .west true (.report rec') else v))) ∧
      (x.stamp + 102400 ≤ s.now + dt → exec (.revocationDrainLimit dt n) s =
        .next (s.after dt (if x.path = 4 then v.toCompanion .west true (.report rec') else v)))) ∧
    (x = s.extent n → (s.begun dt).Takes p 0x3F00 3 → (s.begun dt).Authorized p 0x3F00 3 k c → field 0 2 p.data = n → x.state = 4 →
      field 2 4 p.data = x.reportSeq →
      exec (.acknowledge dt p) s = .next (s.after dt
        (({ b with spc.extents := tdel n s.spc.extents } : State).answered p 0x3F00 3 { data := le 4 x.late })))

/-! ### Placement -/

/-- Region and fallback records and hints (R79, R81, R96, R102): a region takes a free record, one that must lose its copies
drains, a PINNED one is freed at once; a fallback record is kept; a hint for a hintable range is recorded and
counted in 0x4042.09, any other only counted in 0x4042.0A. -/
def Obligations.PlacementRecords : Prop :=
  ∀ (dt k c n cx base pages cls : Nat) (p : Pdu) (s b : State), s.Quiet → p.wf = true → b = (s.begun dt).authorized p k c →
    ((s.begun dt).Takes p 0x3F20 1 → (s.begun dt).Authorized p 0x3F20 1 k c → field 0 2 p.data = n → n < 512 →
      field 2 2 p.data = cx → 1 ≤ cx → cx ≤ 1023 → base = field 4 8 p.data % 2 ^ 62 → base % 65536 = 0 → field 12 4 p.data = pages →
      1 ≤ pages → field 16 1 p.data = cls → cls ≤ 4 → s.ownNode base = true → s.regionCovered cx base pages = true →
      (1 ≤ cls → s.plc.regions = [] → exec (.regionCommand dt p) s = .next (s.after dt
        (({ b with plc.regions := [(n, { cls := cls, ctx := cx, base := base, pages := pages })] } : State).answered p 0x3F20 1 {}))) ∧
      (∀ old dr, s.plc.away = [] → s.plc.regions = [(n, { cls := old, ctx := cx, base := base, pages := pages, drain := dr })] →
        (old = 1 → cls = 0 → exec (.regionCommand dt p) s = .next (s.after dt
          (({ b with plc.regions := [] } : State).answered p 0x3F20 1 {}))) ∧
        ((old = 2 ∨ old = 3) ∧ cls ≤ 1 ∨ old = 4 ∧ cls = 0 → exec (.regionCommand dt p) s = .next (s.after dt
          (({ b with plc.regions := [(n, { cls := old, ctx := cx, base := base, pages := pages, drain := some cls })] } : State).answered
            p 0x3F20 1 {}))))) ∧
    (∀ copy ratio, (s.begun dt).Takes p 0x3F20 2 → (s.begun dt).Authorized p 0x3F20 2 k c → s.plc.fallbacks = [] →
      field 0 2 p.data = cx → cx ≤ 1023 → field 2 8 p.data % 2 ^ 62 = base → base % 65536 = 0 → field 10 4 p.data = pages →
      field 14 8 p.data = copy → field 22 1 p.data = ratio → (ratio = 1 ∨ ratio = 2 ∨ ratio = 4) →
      s.grantedRange cx (copy / 65536 * 65536) ((copy % 65536 + (pages * 65536 + ratio - 1) / ratio + 65535) / 65536) = true →
      exec (.fallbackRecordCommand dt p) s = .next (s.after dt
        (({ b with plc.fallbacks := [(0, ⟨cx, base, pages, copy, ratio⟩)] } : State).answered p 0x3F20 2 {}))) ∧
    (∀ (d : Bytes) (src tgt : Nat) (via : Via) (u : State), d.length = 24 → viaOk via = true → forUs via = true → nodeOk src = true → s.plc.hints = [] →
      s.plc.here = [] → s.plc.away = [] →
      cx = bits 9 0 d → tgt = bits 29 16 d → pages = max 1 (field 4 4 d) →
      base = s.homeGa (field 8 8 d % 2 ^ 62 / 65536 * 65536) → s.phase = 0xA → s.entersHere via = false →
      u = (s.begun dt).countArrival via 3 7 →
      (s.hintable cx base pages = true → (tgt = 0x3FFF ∨ s.beyondGateway tgt = false) →
        exec (.placementHint dt (.msg via src) d) s = .next (s.after dt
          (({ u with plc.hints := [⟨cx, tgt, base / 65536, pages⟩] } : State).count (viaHalf via) 0x4042 9))) ∧
      (s.hintable cx base pages = false →
        exec (.placementHint dt (.msg via src) d) s = .next (s.after dt (u.count (viaHalf via) 0x4042 0xA))) ∧
      (∀ p' : Pdu, p' = { p with data := d, total := d.length } → (s.begun dt).Takes p' 0x3F20 3 → p.trailer = none →
        s.ownNode base = true → s.hintable cx base pages = true → (tgt = 0x3FFF ∨ s.beyondGateway tgt = false) →
        exec (.placementHint dt (.object p) d) s = .next (s.after dt
          ((({ (s.begun dt).takePdu p' with plc.hints := [⟨cx, tgt, base / 65536, pages⟩] } : State).count (State.pathHalf p) 0x4042 9).answered
            p' 0x3F20 3 {}))))

/-- Space requests and copies (R90, R91, R95, R288): a destination with a free frame reserves it, one without, in island mode
or beyond a gateway refuses and counts it; an answer starts the copy or ends the move; a copy whose reads and writes have all
been answered waits for its commit; a holder told to fence, for whom nothing waits, discards its copies and says so, and the
home forgets them. The class of a page of another home is open (log entry 116). -/
def Obligations.PlacementMessages : Prop :=
  ∀ (dt src ga cx page : Nat) (via : Via) (s b : State), s.Quiet → viaOk via = true → forUs via = true → src < 2 ^ 14 → ga < 2 ^ 62 →
    cx ≤ 1023 → page = ga / 65536 → b = (s.begun dt).countArrival via 3 6 →
    (∀ f v u, s.beyondGateway src = false → thas page s.plc.here = false → s.islandMode = false → s.copiesHeld cx < s.spacePages cx →
      s.freeFrame cx = some f → (s.ownNode (page * 65536) = true → v = s.classOf cx (page * 65536) ∧ u = b) →
      (s.ownNode (page * 65536) = false → v = 2 + Config.freeValue s.free % 2 ∧ u = { b with free := s.free + 1 }) →
      exec (.spaceRequest dt ⟨via, src⟩ cx ga) s = .next (s.after dt
        (({ u with plc.here := tput page { ctx := cx, frame := f, cls := v, src := src } s.plc.here } : State).coordinate src 2 0 0 0 ga))) ∧
    (s.beyondGateway src = true ∨ s.islandMode = true ∨ (thas page s.plc.here = false ∧ s.spacePages cx ≤ s.copiesHeld cx) →
      exec (.spaceRequest dt ⟨via, src⟩ cx ga) s = .next (s.after dt
        (((b.modCtx cx (fun x => { x with promRefused := min (x.promRefused + 1) (2 ^ 32 - 1) })).count s.holder 0x4042 5).coordinate
          src 2 1 0 0 ga))) ∧
    (∀ m : PMove, s.plc.moves = [m] → m.page = page → m.dest = src → m.phase = 0 → m.accepted = false → m.demote = false →
      m.hinted = false →
      (s.plc.loops = [] → exec (.spaceAnswer dt ⟨via, src⟩ ga false) s = .next (s.after dt { b with plc.moves := [] })) ∧
      (s.rdg.mode = 0 → s.plc.loops = [] → exec (.spaceAnswer dt ⟨via, src⟩ ga true) s = .next (s.after dt
        { b with plc.moves := [{ m with accepted := true }] })) ∧
      (∀ off, s.rdg.mode ≠ 0 → s.pageAt page = some off → exec (.spaceAnswer dt ⟨via, src⟩ ga true) s = .next (s.after dt
        (((({ b with plc.moves := [{ m with accepted := true, phase := 1, dirty := [], left := m.left + 1 }] } : State).devGet
          (offHalf off) s.nodeNum (mkGa s.nodeNum off) 16 (.copy page 0)).pickOn page 1).settle)))) ∧
    (∀ m : PMove, s.plc.moves = [m] → m.page = page → m.phase = 1 → m.left = 0 → m.dirty = [] →
      s.west.dir = [] → s.east.dir = [] →
      exec (.pageCopyComplete dt ga) s = .next (s.after dt { s.begun dt with plc.moves := [{ m with phase := 2 }] })) ∧
    (∀ pages f, pages < 2 ^ 32 → f.live = true → s.plc.here = [(page, f)] → s.plc.moves = [] → s.ylx.overs = [] →
      s.avl.admission.st = 0 → s.west.dir = [] → s.east.dir = [] → s.west.pend = [] → s.east.pend = [] → s.west.recalls = [] →
      s.east.recalls = [] → s.waitingHere = [] →
      exec (.fencePlacedCopies dt ⟨via, src⟩ ga pages) s = .next (s.after dt
        ((({ b with plc.here := [], plc.counters := s.plc.counters.filter (fun w => !(w.1 == page)) } : State).dropTranslations page).control
          src 2 (.fenceDone (max 1 pages) ga [])))) ∧
    (∀ pages drops n (x : Extent), (Instr.fenceDone dt ⟨via, src⟩ ga pages drops).wf = true → s.plc.away = [(page, src)] → s.plc.backs = [] →
      s.ylx.overs = [] → s.spc.extents = [(n, x)] → x.holders = [(page, src)] →
      exec (.fenceDone dt ⟨via, src⟩ ga pages drops) s = .next (s.after dt
        { ((s.begun dt).countArrival via 3 (6 + drops.length)).modExtent n
            (fun y => { y with holders := [], drops := drops.foldl (fun t d => tmod d.1 0 (· + d.2) t) y.drops }) with plc.away := [] }))

/-! ### Tables and row blocks -/

/-- Tables and the moves of their row blocks (R108, R113, R114, R142, R143): a good definition takes its number, a freed
table that nothing runs on goes with all that was kept of it; a frame request reserves a spill frame and is answered, or is
refused; a frame answer ends a move or lets it begin; a finished copy waits for its commit. -/
def Obligations.TablesAndFrames : Prop :=
  ∀ (dt k c n : Nat) (t : Table) (p : Pdu) (s b : State), s.Quiet → p.wf = true → b = (s.begun dt).authorized p k c →
    ((s.begun dt).Takes p 0x3F30 1 → (s.begun dt).Authorized p 0x3F30 1 k c → t = tableOfPayload p.data →
      tableBad (field 0 1 p.data) t = false →
      (field 0 1 p.data = n ∧ n ≠ 0xFF ∧ tget n s.ylx.tables = none ∨ field 0 1 p.data = 0xFF ∧ freeNum s.ylx.tables 128 0 = some n) →
      t.ctx ≠ 0 →
      (∀ i e, t.shards[i]? = some e → s.isSelf e.node = true →
        s.grantedRange t.ctx e.base (pagesOf (State.shardRows t i * State.rowSize t)) = true) →
      (t.frames = 0 ∨ s.grantedRange t.ctx t.spillBase (pagesOf (t.frames * frameBytes t)) = true) →
      exec (.tableDefinition dt p) s = .next (s.after dt
        (({ b with ylx.tables := tput n t s.ylx.tables } : State).answered p 0x3F30 1 { data := le 1 n }))) ∧
    ((s.begun dt).Takes p 0x3F30 2 → (s.begun dt).Authorized p 0x3F30 2 k c → field 0 1 p.data = n → n < 128 →
      s.ylx = { tables := [(n, t)] } → t.state = 1 → s.eng.yealms = [] →
      exec (.tableFree dt p) s = .next (s.after dt
        ((({ b with ylx := {} } : State).modBoth (fun x => { x with staged := x.staged.filter (fun r => r.t != n) })).answered p 0x3F30 2 {}))) ∧
    (∀ via src i ga, (Instr.frameRequest dt ⟨via, src⟩ n i ga).wf = true → forUs via = true →
      (tget n s.ylx.tables = none → exec (.frameRequest dt ⟨via, src⟩ n i ga) s =
        .next (s.after dt (((s.begun dt).countArrival via 3 6).coordinate src 4 1 n i ga))) ∧
      (∀ st f, tget n s.ylx.tables = some t → t.state = 1 → s.beyondGateway src = false →
        (∀ x ∈ s.ylx.spills, x.2 ≠ (n, i)) → s.spillStack n t = some (st, f) →
        exec (.frameRequest dt ⟨via, src⟩ n i ga) s = .next (s.after dt
          ((({ (s.begun dt).countArrival via 3 6 with
              ylx.spills := tput (n, f) (n, i) s.ylx.spills,
              ylx.overs := tput (n, i) { node := s.nodeNum, off := State.frameOff t f, learned := false, live := false } s.ylx.overs }
            : State).tagFrame t (State.frameOff t f)).coordinate src 4 0 n i ga)))) ∧
    (∀ via src i ga (m : RMove), (Instr.frameAnswer dt ⟨via, src⟩ n i ga true).wf = true → forUs via = true → s.ylx.moves = [m] → m.t = n →
      m.b = i → m.dest = src → m.phase = 0 → m.accepted = false → m.back = false →
      (s.ylx.loops = [] → exec (.frameAnswer dt ⟨via, src⟩ n i ga false) s = .next (s.after dt
        { (s.begun dt).countArrival via 3 6 with ylx.moves := [] })) ∧
      (tget n s.ylx.tables = some t → s.rdg.mode = 0 → s.ylx.loops = [] →
        exec (.frameAnswer dt ⟨via, src⟩ n i ga true) s = .next (s.after dt
          { (s.begun dt).countArrival via 3 6 with ylx.moves := [{ m with accepted := true }] })) ∧
      (tget n s.ylx.tables = some t → s.rdg.mode ≠ 0 →
        exec (.frameAnswer dt ⟨via, src⟩ n i ga true) s = .next (s.after dt
          (((({ (s.begun dt).countArrival via 3 6 with ylx.moves := [{ m with accepted := true, phase := 1, marks := [] }] }
            : State).askBlockRows n i t).pickRowsOn n i true).settle)))) ∧
    (∀ i off (m : RMove), n < 128 → i < 2 ^ 48 → s.ylx.moves = [m] → m.t = n → m.b = i → m.phase = 1 → m.marks = [] → m.left = 0 →
      tget n s.ylx.tables = some t → s.blockHere t n i = some off → (s.half (offHalf off)).dir = [] →
      exec (.rowBlockCopyComplete dt n i) s = .next (s.after dt { s.begun dt with ylx.moves := [{ m with phase := 2 }] }))

/-! ### Engines -/

/-- Descriptors of the yealm and update classes (R97, R98, R119 to R122, R133, R146, R177, R189, R195, R198): one that is not
valid and names no place for its record completes at once and is counted; one that is valid is taken by a front end, which
asks for what it needs to know; a front end that knows all gives it to the engine R97 chooses. A part request of a row block
that is here joins an engine's queue at once. -/
def Obligations.PostedWork : Prop :=
  ∀ (dt i : Nat) (j : Submit) (s b v : State) (h : Half), s.Quiet → s.phase = 0xA → h = viaHalf j.via →
    b = (s.begun dt).countArrival j.via 0 (4 + State.unitsOf j.desc.length) → v = { b with eng.nextFront := s.eng.nextFront + 1 } →
    (∀ p, (j.via = .port p ∨ j.via = .batch p ∨ ∃ t, j.via = .onward p t) → s.cfgBit (portHalf p) 0x20D0 1 2 = false) →
    (∀ c t, c ∈ [Instr.gather dt j, .scatterAdd dt j, .scatterSet dt j, .prefetch dt j] → c.wf = true → s.submitRefusal j = none →
      j.desc.length = 64 → s.tableOf (yTable j.desc) = t →
      (∀ st f d w, yRefusal j.desc j.ctx t false = some (st, f, d) → (yCmpl j.desc = 0 ∨ yCmpl j.desc % 64 ≠ 0) →
        w = { State.workOf j (State.issuerOf j) with status := st, fault := f, detail := d } →
        exec c s = .next (s.after dt (((if yOp j.desc = 1 then v.count h 0x4050 1
          else if yOp j.desc = 2 ∨ yOp j.desc = 3 then v.count h 0x4050 2 else v).sendCompletion w .yealm (yRecord w))))) ∧
      (yRefusal j.desc j.ctx t false = none →
        exec c s = .next (s.after dt
          (((({ v with eng.fronts := [(s.eng.nextFront, { cls := .yealm, w := State.workOf j (State.issuerOf j), h := h, forwarded := false })] }
            : State).frontAsk s.eng.nextFront).push (.post s.eng.nextFront)).settle)))) ∧
    ((Instr.updateProgram dt j).wf = true → s.submitRefusal j = none → j.desc.length = EngClass.update.size →
      (∀ st d w, uRefusal j.desc = some (st, d) → st.good = false → (uCmpl j.desc = 0 ∨ uCmpl j.desc % 64 ≠ 0) →
        w = { State.workOf j (State.issuerOf j) with status := st, detail := d } →
        exec (.updateProgram dt j) s = .next (s.after dt
          (((v.count h 0x4070 1).count h 0x4070 4).sendCompletion w .update (uRecord w 0 (s.now + dt))))) ∧
      (uRefusal j.desc = none →
        exec (.updateProgram dt j) s = .next (s.after dt
          (((({ v with eng.fronts := [(s.eng.nextFront, { cls := .update, w := State.workOf j (State.issuerOf j), h := h, forwarded := false })] }
            : State).frontAsk s.eng.nextFront).push (.post s.eng.nextFront)).settle)))) ∧
    (∀ src sid cls, (Instr.forwardedJob dt src sid cls j).wf = true → forUs j.via = true → j.desc.length = cls.size →
      s.jobEnded j.ctx j.job = false →
      s.stage1 { via := j.via, ctx := j.ctx, job := j.job, tag := j.tag, src := src, sid := sid, addr := 0 } = none →
      s.refusalOf cls h j.ctx j.desc = none →
      exec (.forwardedJob dt src sid cls j) s = .next (s.after dt
        (((({ v with eng.fronts := [(s.eng.nextFront, { cls := cls, w := State.workOf j (.node src sid), h := h, forwarded := true })] }
          : State).frontAsk s.eng.nextFront).push (.post s.eng.nextFront)).settle))) ∧
    (∀ (u : State) id f e, tget id u.eng.fronts = some f → f.await = [] → f.refused = false → u.jobEnded f.w.ctx f.w.job = false →
      u.mustWait f = false → (f.cls = .yealm ∨ f.cls = .update ∧ u.awayNode f.w.ctx (u.frontLocs f) f.forwarded = none) →
      u.chooseEngine f.cls (u.frontLocs f) (fun _ => true) = some e →
      u.frontGo id = ({ u with eng.fronts := tdel id u.eng.fronts } : State).enqueue e f.w) ∧
    (∀ (x : Part) t, x.wf = true → forUs x.via = true →
      (∀ p, (x.via = .port p ∨ x.via = .batch p) → s.cfgBit (portHalf p) 0x20D0 1 2 = false) → s.jobEnded x.ctx x.job = false →
      s.stage1 { via := x.via, ctx := x.ctx, job := x.job, tag := x.tag, src := x.src, sid := x.sid, addr := 0 } = none →
      s.tableOf (yTable x.desc) = some t → t.state = 1 →
      t.ctx = x.ctx → t.tag = x.tableTag → (∀ e ∈ x.entries, e.row < t.rows ∧ ∃ off, s.locateHere (State.rowGa t e.row) = .near off) →
      s.chooseEngine .yealm (s.rowLocs (viaHalf x.via) t (x.entries.map (·.row))) (fun _ => true) = some ⟨.yealm, i⟩ →
      exec (.partRequest dt x) s = .next (s.after dt
        ((((State.partSegments x).foldl (fun u g => u.countArrival x.via 0 g.2.2.1) (s.begun dt)).enqueue ⟨.yealm, i⟩
          { desc := x.desc, ctx := x.ctx, job := x.job, tag := x.tag, issuer := .node x.src x.sid,
            sink := .part x.src x.sid x.tag x.partNo, entries := x.entries }).settle)))

/-- A part's answer puts its partial into the bag of the gather that waits for it (R123, R124). A row update at the row's
home changes that row and nothing else in memory: a scatter-set writes the row, a scatter-add adds element by element
(R128, R129). -/
def Obligations.RowsArrive : Prop :=
  ∀ (dt : Nat) (t : Table) (s : State), s.Quiet →
    (∀ i g w (x : PartAnswer) (p : PartOut) bag k data b, x.wf = true → forUs x.via = true →
      b = ((State.answerSegments x).foldl (fun u g => u.countArrival x.via 1 g.2.2.1) (s.begun dt)).noteResponse
        { src := x.src, sid := 0, tag := x.tag, status := x.status, sv := x.sv, stall := x.stall, ld := x.ld } →
      s.eng.outs = [] → s.eng.yealms = [(i, g)] → g.run = some w → w.y.parts = [p] → p.no = x.partNo → p.tag = x.tag →
      s.tableOf (yTable w.desc) = some t → x.status = 0 → x.loc = none → yOp w.desc ≠ 4 → x.entries = [⟨bag, k, false, data⟩] →
      exec (.partAnswer dt x) s = .next (s.after dt ((((b.modRun ⟨.yealm, i⟩ (fun v => { v with y.parts := [] })).relaunch.modRun ⟨.yealm, i⟩
        (fun v => { v with y.acc := addOperand (yRed w.desc) bag k ((words 4 t.dim data).map (BitVec.ofNat 32)) v.y.acc })).push
        (.wake ⟨.yealm, i⟩)).settle))) ∧
    (∀ (x : RowUpdate) (q : Req) off n, x.wf = true → s.ylx.tables = [(x.table, t)] → s.ylx.moves = [] → s.MemOk → t.ctx = x.ctx →
      x.row < t.rows → s.ylx.stamps = [] →
      n = (if x.set then State.rowSize t else t.dim * (fmtBits t.fmt / 8)) → 128 * 33 ≥ n → off % 4096 + n ≤ 4096 →
      forUs x.via = true →
      q = { via := x.via, ctx := x.ctx, job := x.job, tag := x.tag, src := x.src, sid := x.sid, dst := s.nodeNum,
            addr := State.rowGa t x.row, size := n, len := 6 + State.unitsOf x.data.length, rc := x.rc, u := x.u, ck := x.ck, aop := x.vfmt, data := x.data, agentTag := x.table } →
      ({ s with ylx.tables := [] } : State).Served q off n → s.Clean off n →
      (x.set = false → (t.fmt = 1 ∨ t.fmt = 2) ∧ s.cfg (offHalf off) 0x20C0 1 ≠ 0) →
      ∃ u, exec (.rowUpdate dt x) s = .next u ∧
        (x.set = true → u.loadBytes off n = fitTo n x.data) ∧
        (x.set = false → u.loadBytes off n = State.addElems t.fmt x.vfmt t.dim (s.loadBytes off n) x.data) ∧
        (∀ a, (a < off ∨ off + n ≤ a) → memGet a u.near.mem = memGet a s.near.mem) ∧
        (∀ l, u.poisoned l = s.poisoned l) ∧ u.itg = s.itg ∧ u.rdg = s.rdg)

/-- Tile jobs and update windows (R158, R161 to R166, R168, R171, R175, R191, R218 to R221): a tile job that is not valid and
names no place for its record completes and is counted, a valid one is taken by a front end, and one for a single tile then
joins the queue of the tile R97 chooses with every panel and strip; a gang whose members are all free starts on all of them; a
member's checked partial is added at its leader, and the last one lets a sum drain; the next panel its units need is delivered
to a free slot; a unit that fails its check is disputed and one that passes goes on; a recomputation that agrees with the
array tells of the checker; a window whose writes have landed is complete. -/
def Obligations.TileWork : Prop :=
  ∀ (dt i : Nat) (s : State), s.Quiet → i < 16 →
    (∀ (j : Submit) b v h, (Instr.tileJob dt j).wf = true → s.phase = 0xA → h = viaHalf j.via → j.desc.length = EngClass.tile.size →
      b = (s.begun dt).countArrival j.via 0 (4 + State.unitsOf j.desc.length) → v = { b with eng.nextFront := s.eng.nextFront + 1 } →
      (∀ p, (j.via = .port p ∨ j.via = .batch p ∨ ∃ t, j.via = .onward p t) → s.cfgBit (portHalf p) 0x20D0 1 2 = false) →
      s.submitRefusal j = none →
      (∀ st d w, tRefusal j.desc (s.cfg h 0x2090 1) = some (st, d) → st.good = false → (tCmpl j.desc = 0 ∨ tCmpl j.desc % 64 ≠ 0) →
        w = { State.workOf j (State.issuerOf j) with status := st, detail := d } →
        exec (.tileJob dt j) s = .next (s.after dt (((if tFed j.desc then (v.count h 0x4060 1).count h 0x4060 3 else v.count h 0x4060 1).count
          h 0x4060 7).sendCompletion w .tile (tRecord w (s.now + dt))))) ∧
      (tRefusal j.desc (s.cfg h 0x2090 1) = none →
        exec (.tileJob dt j) s = .next (s.after dt
          (((({ v with eng.fronts := [(s.eng.nextFront, { cls := .tile, w := State.workOf j (State.issuerOf j), h := h, forwarded := false })] }
            : State).frontAsk s.eng.nextFront).push (.post s.eng.nextFront)).settle)))) ∧
    (∀ (u : State) id f us, tget id u.eng.fronts = some f → f.await = [] → f.refused = false → u.jobEnded f.w.ctx f.w.job = false →
      u.mustWait f = false → f.cls = .tile → u.awayNode f.w.ctx (u.frontLocs f) f.forwarded = none → tGang f.w.desc = 1 →
      u.chooseEngine .tile (u.frontLocs f) (fun _ => true) = some (State.tileEng i) →
      us = State.unitList (List.range (tPanels f.w.desc)) (List.range (tCols f.w.desc)) →
      u.frontGo id = ({ u with eng.fronts := tdel id u.eng.fronts } : State).enqueue (State.tileEng i)
        { f.w with t := { leader := i, ks := List.range (tStrips f.w.desc), share := us, units := us } }) ∧
    (∀ works, s.eng.gangs = [⟨i, works⟩] →
      (∀ x ∈ works, (s.engOf (State.tileEng x.1)).run = none ∧ (s.engOf (State.tileEng x.1)).state = 0 ∧
        ∃ q r, (s.engOf (State.tileEng x.1)).queue = q :: r ∧ q.sink = .gang i) →
      exec (.gangStart dt i) s = .next (s.after dt
        ((works.foldl (fun (v : State) x => (v.modEng (State.tileEng x.1) (fun t => { t with run := some x.2, queue := t.queue.drop 1 })).push
          (.wake (State.tileEng x.1))) { s.begun dt with eng.gangs := [] }).settle))) ∧
    (∀ k p n l m u v sum b, k < 16 → k ≠ i → p < 2 ^ 32 → n < 2 ^ 32 → s.runOf (State.tileEng i) = some l → s.runOf (State.tileEng k) = some m →
      l.t.unit = some u → m.t.unit = some v → l.t.reduce = true → m.t.reduce = true → m.t.leader = i → u.p = p → u.n = n →
      v.p = p → v.n = n → u.checked = true → v.checked = true → v.waiting = 0 → (v.sums = false ∨ v.summed = true) →
      sum = { u with acc := addUnits u.acc v.acc, parts := u.parts ++ [v.acc], chk := addChk u.chk v.chk, waiting := u.waiting - 1 } →
      b = (s.begun dt).modRun (State.tileEng i) (fun l => { l with t.unit := some sum }) →
      (1 < u.waiting ∨ (l.t.top = false ∧ s.checksOn (State.tileEng i) = true) → exec (.partialAccumulator dt i k p n) s = .next (s.after dt
        (((b.modRun (State.tileEng k) State.nextUnit).push (.wake (State.tileEng k))).settle))) ∧
      (u.waiting = 1 → l.t.top = true → s.checksOn (State.tileEng i) = true → exec (.partialAccumulator dt i k p n) s = .next (s.after dt
        ((((b.drainUnit (State.tileEng i) sum).modRun (State.tileEng k) State.nextUnit).push (.wake (State.tileEng k))).settle)))) ∧
    (∀ p w out, p < 2 ^ 32 → s.runOf (State.tileEng i) = some w → w.t.top = true → tget p w.t.fedOut = some out → tFed w.desc = true →
      w.t.slots = [] → ((w.t.units.filter w.t.share.contains).head?).map (·.1) = some p →
      exec (.panelDelivery dt i p) s = .next (s.after dt
        ((((s.begun dt).modRun (State.tileEng i) (fun w => { w with t.slots := [(p, out)] })).push (.wake (State.tileEng i))).settle))) ∧
    (∀ w u v rs, s.runOf (State.tileEng i) = some w → w.t.unit = some u → u.recompute = none → u.checked = false →
      rs = State.operandRanges w u.p u.n →
      w.t.reduce = true → w.t.top = false → v = { u with acc := upsetUnit u.acc [] } →
      (s.checksOn (State.tileEng i) = false ∨ unitFails v.chk v.acc (State.kLen w.desc w.t.ks) (s.tolerance (State.tileEng i) w.desc) true = false →
        exec (.checkVerdict dt i []) s = .next (s.after dt ((((s.begun dt).modRun (State.tileEng i)
          (fun w => { w with t.unit := some { v with summed := false, checked := true } })).pushAll
            ((List.range 16).map (fun k => .wake (State.tileEng k)))).settle))) ∧
      (s.checksOn (State.tileEng i) = true → unitFails v.chk v.acc (State.kLen w.desc w.t.ks) (s.tolerance (State.tileEng i) w.desc) true = true →
        ∃ other, exec (.checkVerdict dt i []) s = .next (s.after dt
            ((rs.foldl (fun (b : State) r => b.askRange (State.tileEng i) r.1 r.2.1)
              (((((s.begun dt).count (engHalf (State.tileEng i)) 0x4080 8).gutter (engHalf (State.tileEng i)) 0x0A 0x05 i 0x09 (c := w.ctx) (job := w.job)).modEng (State.tileEng other)
                (fun g => State.listJob g w.ctx w.job)).modRun (State.tileEng i)
                (fun w => { w with t.unit := some { v with recompute := some other }, got := w.got.filter (fun b => !State.inRangesOf rs b.1) }))).settle)))) ∧
    (∀ w u other rs b x, s.runOf (State.tileEng i) = some w → w.t.unit = some u → u.recompute = some other → u.checked = false →
      rs = State.operandRanges w u.p u.n → (∀ r ∈ rs, State.blocksHere w r.1 r.2.1 = true) →
      b = rs.foldl (fun (v : State) r => v.consume (State.tileEng i) r.1 r.2.1 r.2.2) (s.begun dt) →
      b.runOf (State.tileEng i) = some x → x.status.good = true → x.t.reduce = true → x.t.top = false →
      upsetUnit (State.computeUnit x u.p u.n).1 [] = u.acc → (b.engOf (State.tileEng i)).checkerFirst = false →
      exec (.recomputationComplete dt i []) s = .next (s.after dt
        (((((b.modEng (State.tileEng i) (fun g => { g with checkerFirst := true, due := true })).count (engHalf (State.tileEng i)) 0x4080 9).modRun
          (State.tileEng i) (fun w => { w with t.unit := some { u with recompute := none, summed := false, checked := true } })).pushAll
            ((List.range 16).map (fun k => .wake (State.tileEng k)))).settle))) ∧
    (∀ unit w, unit < 32 → s.runOf ⟨.update, unit⟩ = some w → w.u.writing = true → w.await = [] → w.status.good = true →
      (s.engOf ⟨.update, unit⟩).state = 0 →
      exec (.windowComplete dt unit) s = .next (s.after dt
        (((((s.begun dt).count (engHalf ⟨.update, unit⟩) 0x4070 2
            (windowLen w.desc w.u.window * (uWords w.desc).foldl (fun k x => k + x.slots) 0)).modRun ⟨.update, unit⟩
          (fun w => { w with u.window := w.u.window + 1, u.writing := false, u.slots := w.u.next, u.crc := w.u.nextCrc,
                             got := w.got.filter (fun b => (aheadReads w.desc (w.u.window + 1)).any
                               (fun r => r.2.1 < b.1 * 4096 + 4096 && b.1 * 4096 < r.2.1 + r.2.2.1)) })).push
          (.wake ⟨.update, unit⟩)).settle)))

/-! ### The Geled Link and the register windows -/

/-- Ends of the Geled Link (R292, R296, R304, R306, R307): a frame of idle fill takes its number and credits, and one
whose first unit begins no message loses the stream; fewer than 16 lanes realign the end at half width, and an unchanged
width is only noted; an end that is lost holds nothing more; what the far side did not receive goes again on the other
end; and after 100 µs without an end the link is lost. That the device's last frame sent has the number of the frame
received is the model's (log entry 34). -/
def Obligations.GeledEnds : Prop :=
  ∀ (dt : Nat) (e : Half) (s : State), s.Quiet →
    (∀ fseq a b c d rep qy units, (Instr.geledFrame dt e fseq a b c d rep qy units).wf = true → (s.geled e).st = 4 →
      (s.geled e).queue = [] → (s.geled e).partUnits = 0 → (s.geled e).partHead = none →
      ((∀ u ∈ units, u = 0) → exec (.geledFrame dt e fseq a b c d rep qy units) s = .next (s.after dt ((s.begun dt).modGeled e (fun g =>
        State.trimLog { g with rcvd := fseq, sent := fseq, credits := List.zipWith (· + ·) g.credits [a, b, c, d] })))) ∧
      (∀ u us, units = u :: us → u ≠ 0 → (u % 16 = 0 ∨ 8 < u % 16 ∨ u / 256 % 4096 ≤ 1) →
        ∃ t, exec (.geledFrame dt e fseq a b c d rep qy units) s = .next t ∧ (t.geled e).st = 4 ∧ (t.geled e).partUnits = 0 ∧
          (t.geled e).partHead = none ∧ t.mgm.nextSeq = (s.mgm.nextSeq + 1) % 2 ^ 32 ∧ t.near = s.near ∧ t.itg = s.itg)) ∧
    (∀ good, 8 ≤ good → good ≤ 18 → (s.geled e).st = 4 →
      (good < 16 → (s.geled e).half = false → s.endUp e.other = true → exec (.endWidthChange dt e good) s = .next (s.after dt
        (((s.begun dt).modGeled e (fun g => { g with good := good, st := 2, half := true, inits := 0 })).count e 0x40B0 4))) ∧
      ((s.geled e).half = decide (good < 16) → exec (.endWidthChange dt e good) s = .next (s.after dt
        ((s.begun dt).modGeled e (fun g => { g with good := good }))))) ∧
    (2 ≤ (s.geled e).st → (s.geled e).first = false → s.endUp e.other = true → ∃ t, exec (.endLost dt e) s = .next t ∧
      (t.geled e).st = 0 ∧ (t.geled e).credits = [0, 0, 0, 0] ∧ (t.geled e).partUnits = 0 ∧ (t.geled e).queue = [] ∧
      (t.geled e).link.up = false ∧ t.endUp e.other = true ∧ t.gel.downSince = s.gel.downSince ∧
      t.mgm.nextSeq = (s.mgm.nextSeq + 1) % 2 ^ 32 ∧ t.near = s.near ∧ t.itg = s.itg) ∧
    (∀ fseq, fseq < 65536 → exec (.endLostMessage dt e e.other fseq) s = .next (s.after dt
      ((((s.geled e.other).log.filter (fun m => 0 < fseqAhead m.1 fseq && fseqAhead m.1 fseq < 32768)).foldl
        (fun (u : State) m => u.offerGeled e m.2.1 m.2.2) ((s.begun dt).modGeled e.other (fun g => { g with log := [] })))))) ∧
    (∀ since n, s.gel.downSince = some since → since + 160000 ≤ s.now + dt → s.endUp .west = false → s.endUp .east = false →
      s.gel.lost = false → (s.agentRec 0).state = 0 →
      n = ((s.gel.west.queue ++ s.gel.east.queue).filter (fun m => m.1 == 1)).length →
      exec (.linkLossTimeout dt) s = .next (s.after dt
        (({ (((s.begun dt).count .west 0x40B0 8 n).modGeled .west (fun g => { g with queue := [], log := [] })).modGeled .east
            (fun g => { g with queue := [], log := [] }) with gel.lost := true } : State).count .west 0x40B0 9)))

/-- The register windows (R301, R455, R456, R462, R465, R466) over an end that is Up: a message without hv changes nothing; a write of a window
that is reached is counted and answered, and changes the one register it names, or is counted as a bad access; clearing
EVT_STAT clears the bits written 1; a snapshot copies every mapped object, of one half or of both under one sequence
number. -/
def Obligations.RegisterWindow : Prop :=
  ∀ (dt tag : Nat) (e win : Half) (s : State), s.Quiet → tag < 2 ^ 16 → s.endUp e = true →
    (∀ off v, off < 2 ^ 24 → off % 4 = 0 → exec (.registerWrite dt e false tag win off v) s = .next (s.after dt
      ((s.begun dt).toCompanion e false (.register tag .rightsFault 0)))) ∧
    (∀ off v, off < 2 ^ 24 → off % 4 = 0 → win ≠ e → s.avl.purlinUp = false →
      exec (.registerWrite dt e true tag win off v) s = .next (s.after dt
        ((s.begun dt).toCompanion e true (.register tag .nodeUnreachable 0)))) ∧
    (win = e ∨ s.avl.purlinUp = true →
      (∀ off (v : BitVec 32) u, off < 2 ^ 24 → off % 4 = 0 →
        (regSlot off = 0 ∧ regPos off = 0xC ∧ u = (s.begun dt).modRegs win (fun r => { r with scratch0 := v }) ∨
         regSlot off = 0 ∧ regPos off = 0x10 ∧ u = (s.begun dt).modRegs win (fun r => { r with scratch1 := v }) ∨
         regSlot off = 0 ∧ regPos off = 0x24 ∧ u = (s.begun dt).modRegs win (fun r => { r with evtMask := v &&& 0x3FFF#32 }) ∨
         (regSlot off ≠ 0 ∨ regPos off ∈ [0, 4, 8, 0x18, 0x1C, 0x28]) ∧
           u = (s.begun dt).modRegs win (fun r => { r with badacc := min (r.badacc + 1) (2 ^ 32 - 1) })) →
        exec (.registerWrite dt e true tag win off v) s = .next (s.after dt
          ((u.count e 0x40B0 0xA).toCompanion e true (.register tag .ok 0)))) ∧
      (∀ v : BitVec 32, exec (.evtStatClear dt e true tag win v) s = .next (s.after dt
        ((((s.begun dt).modRegs win (fun r => { r with evtStat := r.evtStat &&& ~~~v })).count e 0x40B0 0xA).toCompanion e true
          (.register tag .ok 0)))) ∧
      exec (.snapshot dt e true tag win) s = .next (s.after dt
        (((((s.begun dt).modRegs win (fun r =>
            { r with holding := (heldObjects win).map (fun o => (o, (s.begun dt).statusPart win o.1 o.2)), pair := false, single := false,
                     snapSeq := State.nextSnap (s.half win).regs.snapSeq, snapCourse := s.courseOf win, snapStamp := s.now + dt })).raiseEvt
          win 12).count e 0x40B0 0xA).toCompanion e true (.register tag .ok 0))) ∧
      (∀ q, q = State.nextSnap (max s.west.regs.snapSeq s.east.regs.snapSeq) → s.avl.purlinUp = true →
        ∃ t, exec (.snapshotBoth dt e true tag win) s = .next t ∧
          (∀ h, (t.half h).regs.snapSeq = q ∧ (t.half h).regs.pair = true ∧ (t.half h).regs.single = false ∧
            (t.half h).regs.snapCourse = s.courseOf h ∧ (t.half h).regs.snapStamp = s.now + dt ∧
            (t.half h).regs.evtStat.getLsbD 12 = true) ∧ t.near = s.near ∧ t.itg = s.itg ∧ t.rdg = s.rdg) ∧
      (s.avl.purlinUp = false → ∃ t, exec (.snapshotBoth dt e true tag win) s = .next t ∧
        (t.half win).regs.snapSeq = State.nextSnap (s.half win).regs.snapSeq ∧ (t.half win).regs.single = true ∧
        (t.half win.other).regs.snapSeq = (s.half win.other).regs.snapSeq))

/-! ### Fabric ports -/

/-- Ports (R310, R311, R319, R321 to R325, R332, R346): a link word adds the credits it returns; a batch's packets are
handled and it is acknowledged, one acknowledged before is only counted; an acknowledged batch is kept no longer; an open
batch leaves when its time is over; port-state packets of roof members are noted; a packet for another node, of whatever kind but a memory or coherence request,
is counted and goes on; a port that goes down loses its credits and tells of it, and one that comes up grants its own; the load level is computed anew; a stream that cannot be followed
retrains the link. -/
def Obligations.FabricPorts : Prop :=
  ∀ (dt p : Nat) (s : State), s.Quiet → p < 32 →
    (∀ a b c d, a < 65536 → b < 65536 → c < 65536 → d < 65536 → (s.port p).queue = [] → (s.port p).waitSince = none →
      (s.port p).batches = [] → (s.port p).draining = false →
      exec (.linkWord dt p a b c d) s = .next (s.after dt ((s.begun dt).modPort p (fun t =>
        { t with credits := List.zipWith (· + ·) t.credits [a, b, c, d], owed := t.owed - (a + b + c + d) })))) ∧
    (∀ near bseq vc units inner u, (Instr.batch dt p near bseq vc units inner).wf = true → s.roleOf p = 4 →
      u = (s.begun dt).portArrival p vc (4 + units) →
      ((near, bseq) ∉ u.fab.acked → ∀ v, v = inner.foldl (fun (w : State) x => w.innerPacket p x) u →
        exec (.batch dt p near bseq vc units inner) s = .next (s.after dt
          ((({ v with fab.acked := v.fab.acked ++ [(near, bseq)] } : State).control near 0 (.batchAck bseq)).settle))) ∧
      ((near, bseq) ∈ u.fab.acked → exec (.batch dt p near bseq vc units inner) s = .next (s.after dt u))) ∧
    (∀ bseq u, bseq < 2 ^ 32 → u = (s.begun dt).portArrival p 3 4 → ∃ t, exec (.batchAck dt p bseq) s = .next t ∧
      (∀ q, (t.port q).kept = (u.port q).kept.filter (fun k => k.1 != bseq)) ∧ t.near = s.near ∧ t.out = u.out) ∧
    (∀ vc b, vc < 4 → (s.port p).batches = [b] → b.vc = vc → b.closed = false → b.bseq = none → b.since + s.gcfg 0x20D0 4 ≤ s.now + dt →
      (s.portUp p = true → b.units + 4 ≤ State.creditOf (s.port p).credits vc → (s.port p).credits.length = 4 → State.flashRoom (s.port p).link = true →
        ∃ t, exec (.batchCloseTime dt p vc) s = .next t ∧ (t.port p).batches = [] ∧
          (t.port p).kept = (s.port p).kept ++ [(s.fab.bseq, vc, b.inner)] ∧ t.fab.bseq = (s.fab.bseq + 1) % 2 ^ 32 ∧
          Out.batch p (s.port p).farNode s.fab.bseq vc b.inner ∈ t.out ∧
          State.creditOf (t.port p).credits vc = State.creditOf (s.port p).credits vc - (b.units + 4)) ∧
      (s.portUp p = false → ∃ t, exec (.batchCloseTime dt p vc) s = .next t ∧ (t.port p).batches = [{ b with closed := true }] ∧
        t.out = [])) ∧
    (∀ via src node up rcvd u, (Instr.portState dt ⟨via, src⟩ node up rcvd).wf = true → forUs via = true → u = (s.begun dt).countArrival via 3 5 →
      (s.isRoofPeer src = false → exec (.portState dt ⟨via, src⟩ node up rcvd) s = .next (s.after dt u)) ∧
      (s.isRoofPeer src = true → s.isSelf node = false → (∀ m ∈ s.roofPeers, (s.port m.2).queue = []) →
        ∃ t, exec (.portState dt ⟨via, src⟩ node up rcvd) s = .next t ∧ t.fab.members = tput (src, node) up s.fab.members ∧ t.out = u.out ∧
          t.near = s.near) ∧
      (s.isSelf node = true → s.roofPeers.find? (fun m => m.1 == src) = some (src, p) → (∀ m ∈ s.roofPeers, (s.port m.2).queue = []) →
        (s.port p).link.unacked = [] → ∃ t, exec (.portState dt ⟨via, src⟩ node false rcvd) s = .next t ∧
          t.fab.members = tput (src, s.nodeNum) false s.fab.members ∧ (t.port p).relay = true ∧ (t.port p).sent = rcvd ∧ t.near = s.near)) ∧
    (∀ (w : Transit) (c : Instr) (x y : Inner), c.wf = true → s.isSelf w.dst = false → onwardCommand dt p w x = some c → y = onwardPacket p w x →
      exec c s = .next (s.after dt (((((innerSegments y).2.foldl (fun (u : State) g => u.portArrival p (innerVc y) g.2.2.1) (s.begun dt)).passOn
        p w y).settle)))) ∧
    ((s.port p).link.up = true → s.roleOf p = 1 → (s.port p).link.planned = false → ∃ t, exec (.portDown dt p) s = .next t ∧ (t.port p).link.up = false ∧
      (t.port p).link.wasDown = true ∧ (t.port p).credits = [0, 0, 0, 0] ∧ (t.port p).owed = 0 ∧
      t.mgm.nextSeq = (s.mgm.nextSeq + 1) % 2 ^ 32 ∧ t.near = s.near ∧ t.itg = s.itg ∧ t.rdg = s.rdg) ∧
    ((s.port p).link.up = false → (s.port p).mismatch = false → 7 ≤ (s.port p).link.width → s.roleOf p ≠ 0 →
      ∃ t, exec (.portUp dt p) s = .next t ∧ (t.port p).link.up = true ∧ (t.port p).link.training = false ∧
        (t.port p).link.rxSeq = 0xFFF ∧ (t.port p).credits = [0, 0, 0, 0] ∧ (t.port p).owed = 0 ∧ (t.port p).sent = 0 ∧
        (t.port p).rcvd = 0 ∧ Out.credits p [16384, 32768, 2048, 512] ∈ t.out ∧ (∀ n, (t.node n).win = 0x4000) ∧ t.near = s.near) ∧
    (∃ t, exec (.loadLevelRecompute dt) s = .next t ∧ t.fab = { s.fab with loadLevel := s.loadOf } ∧ t.fab.loadLevel ≤ 15 ∧
      (s.rdg.blocked = [] → s.west.pend = [] → s.east.pend = [] → t.fab.loadLevel = 0)) ∧
    ((s.port p).link.up = true → s.roleOf p ≠ 0 → 2 ≤ (s.laserModule (linkEngine (.port p) / 2)).st →
      (s.laserModule (linkEngine (.port p) / 2)).st ≤ 4 → (s.port p).health.expelled = false →
      ∃ t, exec (.streamUnfollowable dt p) s = .next t ∧ (t.port p).link.up = false ∧ (t.port p).link.training = true ∧
        (t.port p).link.width = 0 ∧ (t.port p).link.since = s.now + dt ∧ (s.roleOf p = 1 → t.near = s.near))

/-! ### Flashing, lanes and laser modules -/

/-- Flashes and lane messages (R341 to R345, R350 to R352): the next flash in order is taken and any other asks for a
resend; a replay resends every unacknowledged flash; spare, width and retrain requests are obeyed and answered, and their
answers obeyed; reports, requests without an answer and announced drains are as they say. -/
def Obligations.LaneMessages : Prop :=
  ∀ (dt : Nat) (l : Link) (s : State), s.Quiet → l.wf = true →
    (∀ cws got, (Instr.flashReceived dt l cws).wf = true → (s.linkSt l).up = true →
      got = (s.activeLanes l).map (fun n => (cws.find? (fun c => c.lane == n % 18)).bind readCodeword) →
      ∃ t, exec (.flashReceived dt l cws) s = .next t ∧ (t.linkSt l).rxSeq = (match got.findSome? id with
        | none => (s.linkSt l).rxSeq
        | some (c, _) => if got.all (fun x => x.any (fun d => d.1.seq == c.seq && d.1.kind == c.kind)) = true ∧ c.kind ≤ 1 ∧
            c.seq = ((s.linkSt l).rxSeq + 1) % 4096 then c.seq else (s.linkSt l).rxSeq) ∧
        (got.findSome? id = none → (t.linkSt l).nk = true ∧ Out.control l (s.linkSt l).rxSeq true ∈ t.out)) ∧
    ((s.linkSt l).up = true → (∃ f ∈ (s.linkSt l).unacked, f.since + s.gcfg 0x20E0 5 ≤ s.now + dt) →
      exec (.replayTimeout dt l) s = .next (s.after dt
        ((((s.begun dt).modLink l (fun t =>
            { t with replays := t.replays + 1, unacked := t.unacked.map (fun (f : Flash) => { f with since := s.now + dt }) })).count
          (opticHalf (linkEngine l)) (0x4140 + linkEngine l) 0x15 (s.linkSt l).unacked.length).emitAll
            ((s.linkSt l).unacked.map (fun f => Out.flash l f.seq true))))) ∧
    (∀ log phy sw sp, log < 16 → phy < 18 → sw < 2 ^ 16 → sp = 18 * linkEngine l + phy → sp ∈ linkLanes l → (s.lane sp).st = 2 →
      ((s.linkSt l).reqs = [] → ∃ t, exec (.spareRequest dt l log phy sw) s = .next t ∧ (t.lane sp).st = 3 ∧ (t.lane sp).logical = log ∧
        (∀ n ∈ linkLanes l, n ≠ sp → (s.lane n).st = 3 → (s.lane n).logical = log → (t.lane n).st ≠ 3 ∧ (t.lane n).logical = 0x1F) ∧
        Out.lane l 2 log phy (((s.linkSt l).txSeq + 4) % 4096) [] ∈ t.out ∧ t.near = s.near) ∧
      (∀ r, (s.linkSt l).reqs = [r] → r.typ = 1 → r.log = log → r.phy = phy → ∃ t, exec (.spareAnswer dt l log phy sw) s = .next t ∧
        (t.linkSt l).reqs = [] ∧ (t.lane sp).st = 3 ∧ (t.lane sp).logical = log ∧
        (∀ n ∈ linkLanes l, n ≠ sp → (s.lane n).st = 3 → (s.lane n).logical = log → (t.lane n).st ≠ 3 ∧ (t.lane n).logical = 0x1F) ∧
        t.near = s.near)) ∧
    (∀ p w sw, l = .port p → (w = 7 ∨ w = 8) → sw < 2 ^ 16 → (s.port p).link.up = true → w ≤ (s.usableLanes l).length →
      (∀ n ∈ s.activeLanes l, (s.lane n).health.expelled = false) →
      (∃ t, exec (.widthRequest dt l w sw) s = .next t ∧ (t.port p).link.width = w ∧ (t.activeLanes l).length = w ∧
        Out.lane l 4 w 0 (((s.port p).link.txSeq + 4) % 4096) [] ∈ t.out ∧ t.near = s.near) ∧
      ((∃ r ∈ (s.port p).link.reqs, r.typ = 3 ∧ r.log = w) → ∃ t, exec (.widthAnswer dt l w sw) s = .next t ∧
        (t.port p).link.width = w ∧ (t.activeLanes l).length = w ∧ (∀ r ∈ (t.port p).link.reqs, r.typ ≠ 3) ∧ t.near = s.near)) ∧
    (∀ phy n, phy < 18 → n = 18 * linkEngine l + phy → n ∈ linkLanes l →
      ((s.lane n).st = 4 → (s.lane n).health.expelled = false → exec (.retrainRequest dt l phy) s = .next (s.after dt
        ((s.begun dt).modLane n (fun x => { x with st := 1, step := 0 })))) ∧
      ((s.lane n).st ≠ 4 → exec (.retrainRequest dt l phy) s = .next (s.after dt (s.begun dt)))) ∧
    exec (.plannedDown dt l) s = .next (s.after dt (((s.begun dt).modLink l (fun t => { t with planned := true })).emit
      (.lane l 7 0 0 (((s.linkSt l).txSeq + 4) % 4096) []))) ∧
    exec (.plannedDownAnswer dt l) s = .next (s.after dt ((s.begun dt).modLink l (fun t =>
      { t with reqs := t.reqs.filter (fun r => r.typ != 6) }))) ∧
    (∀ txp oma, txp.length ≤ 18 → oma.length ≤ 18 → ∃ t, exec (.powerReport dt l txp oma) s = .next t ∧ t.near = s.near ∧
      (∀ n ∈ linkLanes l, ∀ v, oma[n % 18]? = some v →
        t.lane n = { s.lane n with oma := v, connector := decide (v + 30 ≤ (s.lane n).trainOma) && txp.getD (n % 18) 0xFF != 0xFF })) ∧
    (∀ txp, txp.length ≤ 18 → exec (.powerReportSend dt l txp) s = .next (s.after dt ((s.begun dt).emit (.lane l 8 0 0 0 txp)))) ∧
    exec (.laneMessageResend dt l) s = .next (s.after dt ((s.begun dt).emitAll
      ((s.linkSt l).reqs.map (fun r => Out.lane l r.typ r.log r.phy r.sw []))))

/-- Training and bad lanes (R346 to R351): training starts on every lane that may train, step by step; a lane that fails
is Bad, and eight lanes that pass carry a port; a lane declared bad asks for a spare where the link has one, and is tried
again. -/
def Obligations.LaneTraining : Prop :=
  ∀ (dt : Nat) (l : Link) (s : State), s.Quiet → l.wf = true →
    (s.mayTrain l = true → ∃ t, exec (.linkTrainingStart dt l) s = .next t ∧ (t.linkSt l).training = true ∧
      (t.linkSt l).since = s.now + dt ∧ (t.linkSt l).width = 0 ∧ (t.linkSt l).reqs = [] ∧ t.near = s.near ∧
      (∀ n ∈ linkLanes l, (s.lane n).st ≠ 5 → (s.lane n).health.expelled = false →
        t.lane n = { s.lane n with st := 1, step := 0, logical := 0x1F })) ∧
    (s.mayTrain l = false → exec (.linkTrainingStart dt l) s = .next (s.after dt (s.begun dt))) ∧
    ((s.linkSt l).training = true → (s.linkSt l).up = false → (s.linkSt l).since + 160000000 ≤ s.now + dt →
      exec (.trainingRepeat dt l) s = exec (.linkTrainingStart dt l) s) ∧
    ((s.linkSt l).training = false → exec (.trainingRepeat dt l) s = .next (s.after dt (s.begun dt))) ∧
    (∀ n oma (r : TrainRec), n ∈ linkLanes l → r.wf = true → (s.lane n).st = 1 →
      (∀ step, step = 2 ∨ step = 3 → (s.lane n).step + 1 = step → exec (.trainingStepDone dt n step true oma r) s =
        .next (s.after dt ((s.begun dt).modLane n (fun x => { x with step := step })))) ∧
      (∀ step m, step < 16 → step ≤ 5 → (s.lane n).step + 1 = step → m ∈ linkLanes l → m ≠ n → (s.lane m).st = 1 → (s.lane m).step < 5 →
        exec (.trainingStepDone dt n step false oma r) s =
          .next (s.after dt ((s.begun dt).modLane n (fun x => { x with st := 4, step := 0 })))) ∧
      (∀ p, l = .port p → (s.port p).farValid = false → (s.port p).link.up = false → (s.port p).link.training = true →
        (∀ m ∈ linkLanes l, (s.lane m).st = 1 ∧ (s.lane m).step = if m = n then 4 else 5) →
        ∃ t, exec (.trainingStepDone dt n 5 true oma r) s = .next t ∧ (t.port p).link.width = 8 ∧ (t.activeLanes l).length = 8 ∧
          (t.port p).mismatch = false ∧ t.near = s.near)) ∧
    (∀ n, n ∈ linkLanes l → (s.lane n).health.expelled = false →
      (∀ x, x = s.lane n → x.st = 2 → (∀ r ∈ (s.linkSt l).reqs, ¬(r.typ = 1 ∧ r.phy = n % 18)) → ∃ t, exec (.laneDeclaredBad dt n) s = .next t ∧
        t.lane n = { x with st := 4, step := 0, logical := 0x1F, bads := min (x.bads + 1) 15, health := { x.health with mark := 0 } }) ∧
      (∀ sp sps, (s.lane n).st = 3 → (s.linkSt l).up = true → s.spareLanes l = sp :: sps →
        ∃ t, exec (.laneDeclaredBad dt n) s = .next t ∧ (t.lane n).st = 4 ∧
          Out.lane l 1 (s.lane n).logical (sp % 18) (((s.linkSt l).txSeq + 4) % 4096) [] ∈ t.out ∧
          (t.linkSt l).reqs = (s.linkSt l).reqs ++ [⟨1, (s.lane n).logical, sp % 18, ((s.linkSt l).txSeq + 4) % 4096⟩]) ∧
      ((s.lane n).st = 4 → (s.linkSt l).up = true → s.cfgBit (opticHalf (n / 18)) 0x20E0 1 0 = true →
        exec (.badLaneRetry dt n) s = .next (s.after dt (((s.begun dt).modLane n (fun x => { x with st := 1, step := 0 })).emit
          (.lane l 5 0 (n % 18) (((s.linkSt l).txSeq + 4) % 4096) [])))))

/-- Laser modules (R340, R352, R353, R355, R356): a module comes in, warms, is flagged by its bias, is drained and comes
back, and is pulled, with or without a drain. -/
def Obligations.LaserModules : Prop :=
  ∀ (dt m k c : Nat) (p : Pdu) (v : Module) (s b : State), s.Quiet → m < 9 → v = s.laserModule m → p.wf = true →
    b = (s.begun dt).authorized p k c →
    (∀ bol hours, bol.length ≤ 18 → hours < 2 ^ 32 → v.st = 0 →
      (5 ≤ s.phase → exec (.modulePresent dt m bol hours) s = .next (s.after dt ((s.begun dt).modModule m (fun v =>
        { st := 1, present := true, enable := true, bol := bol, hours := hours, health := { v.health with expelled := false, hardDead := false } })))) ∧
      (s.phase < 5 → exec (.modulePresent dt m bol hours) s = .next (s.after dt ((s.begun dt).modModule m (fun v =>
        { v with present := true, bol := bol, hours := hours }))))) ∧
    (∀ bias temp, bias.length ≤ 18 → temp < 2 ^ 16 → v.st = 1 → ∃ t, exec (.moduleWarm dt m bias temp) s = .next t ∧ t.near = s.near ∧
      (t.laserModule m).bias = bias ∧ (t.laserModule m).bol = (if v.bol = [] then bias else v.bol) ∧
      (t.laserModule m).temp = min temp 255 ∧ (t.laserModule m).dark = 0 ∧
      (t.laserModule m).st = (if (t.laserModule m).flagged then 3 else 2)) ∧
    (∀ laser ratio above, laser < 18 → ratio < 65536 → 2 ≤ v.st → v.st ≤ 4 →
      (v.flagged = false → (s.gcfg 0x20E0 3 ≤ ratio ∨ above = true) → ∃ t, exec (.laserModuleFlag dt m laser ratio above) s = .next t ∧
        (t.laserModule m).flagged = true ∧ (t.laserModule m).st = (if v.dark ≠ 0 then 4 else 3) ∧
        t.mgm.nextSeq = (s.mgm.nextSeq + 1) % 2 ^ 32 ∧ t.near = s.near) ∧
      (ratio < s.gcfg 0x20E0 3 → exec (.laserModuleFlag dt m laser ratio false) s = .next (s.after dt
        ((s.begun dt).modModule m (fun v => { v with ratio := max v.ratio (min ratio 255) }))))) ∧
    ((s.begun dt).Takes p 0x6F00 4 → (s.begun dt).Authorized p 0x6F00 4 k c → field 0 1 p.data = m →
      (field 1 1 p.data = 1 → 2 ≤ v.st → v.st ≤ 4 → (∀ e, State.moduleEnd m = some e → s.endUp e = true → s.endUp e.other = true) →
        (∀ q ∈ State.modulePorts m, (s.port q).link.up = false) →
        exec (.laserModuleDrain dt p) s = .next (s.after dt
          ((b.modModule m (fun v => { v with st := 5, drainReply := some p })).answered p 0x6F00 4 { later := true }))) ∧
      (field 1 1 p.data = 2 → v.st = 6 → exec (.laserDrainCancel dt p) s = .next (s.after dt
        ((b.modModule m (fun v => { v with st := 1, enable := true })).answered p 0x6F00 4 {}))) ∧
      (field 1 1 p.data = 2 → v.st < 5 → exec (.laserDrainCancel dt p) s = .next (s.after dt
        (b.answered p 0x6F00 4 { status := .rightsFault })))) ∧
    (v.st = 5 → (∀ q ∈ State.modulePorts m, (s.port q).link.up = true → (s.port q).drained = true) →
      (∀ e, State.moduleEnd m = some e → s.endUp e = true → (s.geled e).link.unacked = []) →
      ∃ t, exec (.laserDrainComplete dt m) s = .next t ∧ (t.laserModule m).st = 6 ∧ (t.laserModule m).enable = false ∧
        (t.laserModule m).drainReply = none ∧
        (∀ l ∈ moduleLinks m, ∀ n ∈ linkLanes l, (s.lane n).st ≠ 5 → (t.lane n).st = 0 ∧ (t.lane n).health = (s.lane n).health) ∧
        (∀ q ∈ State.modulePorts m, (t.port q).link.up = false)) ∧
    (v.st = 6 → exec (.moduleRemoved dt m) s = .next (s.after dt ((s.begun dt).modModule m (fun v => { health := v.health })))) ∧
    (1 ≤ v.st → v.st ≤ 5 → ∃ t, exec (.moduleRemoved dt m) s = .next t ∧
      t.laserModule m = { health := { v.health with mark := 0, hardDead := true } } ∧
      (∀ q ∈ State.modulePorts m, (t.port q).link.up = false) ∧
      (∀ l ∈ moduleLinks m, ∀ n ∈ linkLanes l, (t.lane n).st ≠ 2 ∧ (t.lane n).st ≠ 3))

/-! ### Faults, tests and peers -/

/-- Scrub and channel failures (R362 to R365): a scrub whose block passes moves on, and after the last block of its stack
counts the pass; a directory entry that cannot be read poisons its line; a first failed channel is copied to the spare,
and one that fails when the spare is in use is retired with its lines poisoned; the copy ends. -/
def Obligations.MemoryFaults : Prop :=
  ∀ (dt n : Nat) (s : State), s.Quiet → n < 16 →
    (s.cfgBit (stackHalf n) 0x20F0 1 0 = false → ∀ errs, errs.all (StackError.wf n) = true →
      exec (.scrub dt n errs) s = .next (s.after dt (s.begun dt))) ∧
    (∀ b, b = n * State.stackBlocks + (s.stackRec n).scrub → s.cfgBit (stackHalf n) 0x20F0 1 0 = true →
      ((s.metaOf b).void = true ∨ (s.metaOf b).crc = s.blockCrc b) →
      ((s.stackRec n).scrub + 1 < State.stackBlocks → exec (.scrub dt n []) s = .next (s.after dt
        ((s.begun dt).modStack n (fun k => { k with scrub := k.scrub + 1 })))) ∧
      (State.stackBlocks ≤ (s.stackRec n).scrub + 1 → exec (.scrub dt n []) s = .next (s.after dt
        (((s.begun dt).modStack n (fun k => { k with scrub := 0, passes := k.passes + 1 })).count (stackHalf n) 0x40F0 0x13)))) ∧
    (∀ (h : Half) (bad : List Nat), bad.all lineOk = true → (∀ l ∈ bad, s.entryOf h l = none) →
      exec (.directoryScrub dt h bad) s = .next (s.after dt (s.begun dt))) ∧
    (∀ (h : Half) (line : Nat) (x : Entry), lineOk line = true → (s.half h).dir = [(line, x)] → State.isRp x = false →
      (∀ a ∈ s.rdg.agents, a.2.state ≠ 1 ∧ a.2.state ≠ 2) →
      ∃ t, exec (.directoryScrub dt h [line]) s = .next t ∧ (t.half h).dir = [] ∧ t.poisoned line = true ∧
        (∀ l, l ≠ line → t.poisoned l = s.poisoned l) ∧ t.mgm.nextSeq = (s.mgm.nextSeq + 1) % 2 ^ 32 ∧ t.near.mem = s.near.mem) ∧
    (∀ ch unreadable, ch < 32 → unreadable.all lineOk = true → ch ∉ (s.stackRec n).retired →
      ((s.stackRec n).spare = none → ∃ t, exec (.channelFailure dt n ch unreadable) s = .next t ∧
        t.stackRec n = { s.stackRec n with spare := some ch, copying := true, copied := [] } ∧
        (∀ l, t.poisoned l = (s.poisoned l || (unreadable.contains l && stackOf (l * 128) == n && channelOf (l * 128) == ch))) ∧
        t.mgm.nextSeq = (s.mgm.nextSeq + 1) % 2 ^ 32 ∧ t.near.mem = s.near.mem) ∧
      (∀ c0, (s.stackRec n).spare = some c0 → ∃ t, exec (.channelFailure dt n ch unreadable) s = .next t ∧
        (t.stackRec n).retired = (s.stackRec n).retired ++ [ch] ∧
        (∀ l, t.poisoned l = (s.poisoned l || (stackOf (l * 128) == n && channelOf (l * 128) == ch))) ∧
        t.mgm.nextSeq = (s.mgm.nextSeq + 1) % 2 ^ 32 ∧ t.near.mem = s.near.mem)) ∧
    ((s.stackRec n).copying = true → exec (.spareCopyComplete dt n []) s = .next (s.after dt
      ((s.begun dt).modStack n (fun k => { k with copying := false, copied := [] })))) ∧
    ((s.stackRec n).copying = false → ∀ unreadable, unreadable.all lineOk = true →
      exec (.spareCopyComplete dt n unreadable) s = .next (s.after dt (s.begun dt)))

/-- Field tests of an idle engine (R366 to R373): a test falls due, starts in a dormer slot or is forced, and a pass
returns the engine to service, a failure takes it out and ends the jobs of its list; software asks for a test. -/
def Obligations.FieldTests : Prop :=
  ∀ (dt : Nat) (e : Engine) (s : State), s.Quiet → e.wf = true →
    ((s.engOf e).due = false → s.testsOn e = true → (s.begun dt).testLate e 1 1 = true → exec (.fieldTestDue dt e) s =
      .next (s.after dt ((s.begun dt).modEng e (fun g => { g with due := true, dueAt := s.now + dt })))) ∧
    ((s.engOf e).due = true → exec (.fieldTestDue dt e) s = .next (s.after dt (s.begun dt))) ∧
    ((s.engOf e).due = true → (s.engOf e).state = 0 → (s.engOf e).queue = [] → (s.engOf e).run = none →
      s.halfTesting (engHalf e) = false →
      (s.testsOn e = true → (∀ x ∈ State.halfEngines (engHalf e), x ≠ e → (s.engOf x).due = true → s.idle x = true → s.testBefore x e = false) →
        exec (.dormerSlot dt e) s = .next (s.after dt
          ((s.begun dt).modEng e (fun g => { g with state := 1, forced := false, testFrom := s.courseOf (engHalf e) })))) ∧
      ((s.engOf e).forced = true → ∃ t, exec (.fieldTestForced dt e) s = .next t ∧ (t.engOf e).state = 1 ∧
        (t.engOf e).forced = true ∧ (t.engOf e).testFrom = s.courseOf (engHalf e) ∧ t.near = s.near ∧ t.itg = s.itg)) ∧
    (∀ step sig, step < 65536 → sig < 2 ^ 32 → (s.engOf e).queue = [] → (s.engOf e).run = none →
      ((s.engOf e).state = 1 → ∃ t, exec (.fieldTestComplete dt e true step sig) s = .next t ∧ (t.engOf e).state = 0 ∧
        (t.engOf e).due = false ∧ (t.engOf e).forced = false ∧ (t.engOf e).passCourse = (s.engOf e).testFrom ∧
        (t.engOf e).doneAt = s.now + dt ∧ (t.engOf e).fails = (s.engOf e).fails ∧ (t.engOf e).jobs = [] ∧ t.near = s.near ∧ t.itg = s.itg) ∧
      (∀ c1 c2, (s.engOf e).state = 2 → (s.engOf e).override = false → (s.engOf e).outs = [c1, c2] → s.courseOf (engHalf e) < c1 + 1024 →
        s.courseOf (engHalf e) < c2 + 1024 → ∃ t, exec (.fieldTestComplete dt e true step sig) s = .next t ∧ (t.engOf e).state = 3) ∧
      (((s.engOf e).state = 1 ∨ (s.engOf e).state = 2) → (s.engOf e).override = false → (s.engOf e).jobs = [] →
        ∃ t, exec (.fieldTestComplete dt e false step sig) s = .next t ∧ (t.engOf e).state = (s.engOf e).state + 1 ∧
          (t.engOf e).due = true ∧ (t.engOf e).fails = min 15 ((s.engOf e).fails + 1) ∧
          (t.engOf e).outs = (s.engOf e).outs ++ [s.courseOf (engHalf e)] ∧ t.mgm.nextSeq = (s.mgm.nextSeq + 1) % 2 ^ 32 ∧
          t.near = s.near ∧ t.itg = s.itg) ∧
      (∀ c j, (s.engOf e).state = 1 → (s.engOf e).jobs = [(c, j)] → j ≠ 0xFFFF → s.jobEnded c j = false → s.itg.jobs.length < 4096 →
        s.itg.groups = [] → s.itg.commits = [] → s.west.caps = [] → s.east.caps = [] → s.jobEngines c j = [] →
        ∃ t, exec (.fieldTestComplete dt e false step sig) s = .next t ∧ t.jobEnded c j = true ∧ (t.engOf e).state = 2)) ∧
    (∀ p k c b, p.wf = true → b = (s.begun dt).authorized p k c → (s.begun dt).Takes p 0x6F00 1 → (s.begun dt).Authorized p 0x6F00 1 k c →
      (field 0 1 p.data, e.cls) ∈ [(1, EngClass.tile), (2, .yealm), (3, .update)] → field 1 1 p.data = e.idx →
      (field 2 1 p.data = 0 → (s.engOf e).state < 2 → exec (.fieldTestRequest dt p) s = .next (s.after dt
        ((b.modEng e (fun g => { g with due := true, dueAt := if g.due then g.dueAt else s.now + dt })).answered p 0x6F00 1 {}))) ∧
      (2 ≤ (s.engOf e).state → exec (.fieldTestRequest dt p) s = .next (s.after dt (b.answered p 0x6F00 1 { status := .rightsFault }))))

/-- Peers and parts (R377 to R383): each running half controller probes its peers; an unanswered probe takes 32 from the
peer's mark and an unanswered request 128; a silent peer is dead; software expels a lane, readmits it, clears a suspect
part and returns an engine to test. -/
def Obligations.PeersAndParts : Prop :=
  ∀ (dt n k c : Nat) (h : Half) (p : Pdu) (s b : State), s.Quiet → n < 2 ^ 14 → p.wf = true → b = (s.begun dt).authorized p k c →
    (∀ q, (s.half h).running = true → s.roofPeers = [(n, q)] → s.wayTo n ≠ .unreachable → s.avl.purlinUp = true → s.eng.outs = [] →
      ∃ t, exec (.peerProbe dt h) s = .next t ∧ h ∈ (t.node n).probes ∧ ∃ o ∈ t.eng.outs, o.node = n ∧ o.acc.org = .probe h ∧ o.acc.op = .read) ∧
    ((s.half h).running = false → exec (.peerProbe dt h) s = .next (s.after dt (s.begun dt))) ∧
    (h ∈ (s.node n).probes → exec (.probeTimeout dt h n) s = .next (s.after dt
      { (s.begun dt).modNode n (fun x => { x with probes := x.probes.filter (· ≠ h), health := State.markDown 32 x.health }) with
        eng.outs := s.eng.outs.filter (fun o => !(o.node == n && o.acc.org = .probe h)) })) ∧
    (∀ sid tag o, sid < 256 → tag < 2 ^ 20 → s.outOf sid tag = some o → o.node = n → s.isRoofPeer n = true →
      (o.issued + s.gcfg 0x20F0 0xB ≤ s.now + dt → exec (.requestUnanswered dt sid tag) s = .next (s.after dt
        ((s.begun dt).modNode n (fun x => { x with health := State.markDown 128 x.health })))) ∧
      (s.now + dt < o.issued + s.gcfg 0x20F0 0xB → exec (.requestUnanswered dt sid tag) s = .next (s.after dt (s.begun dt)))) ∧
    (s.isRoofPeer n = true → (s.node n).heard + s.gcfg 0x20F0 0xA ≤ s.now + dt → (s.node n).health.hardDead = false →
      ∃ t, exec (.peerSilence dt n) s = .next t ∧ t.node n = { s.node n with health := { (s.node n).health with hardDead := true } } ∧
        t.mgm.nextSeq = (s.mgm.nextSeq + 1) % 2 ^ 32 ∧ t.near = s.near ∧ t.itg = s.itg) ∧
    ((s.begun dt).Takes p 0x6F00 2 → (s.begun dt).Authorized p 0x6F00 2 k c →
      (∀ i, field 0 1 p.data = 1 → field 1 2 p.data = i → i < 324 →
        (field 3 1 p.data = 1 → (s.lane i).st = 2 → (s.lane i).health.expelled = false →
          (∀ r ∈ (s.linkSt (laneLink i)).reqs, ¬(r.typ = 1 ∧ r.phy = i % 18)) → ∃ t, exec (.expelNow dt p) s = .next t ∧
          (t.lane i).st = 5 ∧ (t.lane i).health.expelled = true ∧ (t.lane i).health.suspect = false ∧
          t.mgm.nextSeq = (s.mgm.nextSeq + 1) % 2 ^ 32 ∧ t.near = s.near) ∧
        (field 3 1 p.data = 2 → (s.lane i).st = 5 → (s.lane i).health.expelled = true → ∃ t, exec (.readmitNow dt p) s = .next t ∧ (t.lane i).st = 4 ∧
          (t.lane i).health.expelled = false ∧ (t.lane i).health.hardDead = false ∧ (t.lane i).health.score = 255 ∧
          (t.lane i).health.clean = 0 ∧ t.mgm.nextSeq = (s.mgm.nextSeq + 1) % 2 ^ 32 ∧ t.near = s.near)) ∧
      (∀ x : PartRef, x = ⟨field 0 1 p.data, field 1 2 p.data⟩ →
        (field 3 1 p.data = 3 → s.partExists x = true → exec (.clearSuspect dt p) s = .next (s.after dt
          ((b.modHealth x (fun y => { y with suspect := false })).answered p 0x6F00 2 {}))) ∧
        (∀ e, field 3 1 p.data = 4 → State.partEngine x = some e →
          (2 ≤ (s.engOf e).state → exec (.returnEngine dt p) s = .next (s.after dt
            ((b.modEng e (fun g => { g with state := 2, override := true, due := true, dueAt := s.now + dt })).answered p 0x6F00 2 {}))) ∧
          ((s.engOf e).state < 2 → exec (.returnEngine dt p) s = .next (s.after dt
            (b.answered p 0x6F00 2 { status := .rightsFault }))))))

/-- The lease, the purlin and admission (R384 to R390): of two lease records the one of the greater sequence wins, west on
a tie; a pair that halts gives the lease up and one that restarts loads its record; heartbeats are noted; a lost purlin
that nothing spans is only told of, and a rejoin takes the greater course in both halves; an admission forces its tests,
loads its ranges and is ready, or fails. -/
def Obligations.LeaseAndAdmission : Prop :=
  ∀ (dt : Nat) (h : Half) (s : State), s.Quiet →
    (∀ w seq course, seq < 2 ^ 32 → course ≤ noCourse →
      ((s.half h).leaseSeq < seq ∨ (s.half h).leaseSeq = seq ∧ (s.half h).leaseHolder = .east ∧ w = Half.west →
        exec (.leaseRecord dt h w seq course) s = .next (s.after dt
          ((s.begun dt).modHalf h (fun x => { x with leaseHolder := w, leaseSeq := seq, leaseCourse := course })))) ∧
      (seq < (s.half h).leaseSeq ∨ (s.half h).leaseSeq = seq ∧ w = .east → exec (.leaseRecord dt h w seq course) s =
        .next (s.after dt (s.begun dt)))) ∧
    ((s.half h).running = true → ∃ t, exec (.lockstepMismatch dt h) s = .next t ∧ (t.half h).running = false ∧
      (s.holder = h → t.holder = h.other) ∧ (s.holder ≠ h → t.holder = s.holder) ∧
      t.mgm.nextSeq = (s.mgm.nextSeq + 1) % 2 ^ 32 ∧ t.near = s.near ∧ t.itg = s.itg) ∧
    ((s.half h).running = false → ∃ t, exec (.halfControllerRestarted dt h) s = .next t ∧ (t.half h).running = true ∧
      (s.avl.purlinUp = true → (t.half h).leaseHolder = (s.half h.other).leaseHolder ∧ (t.half h).leaseSeq = (s.half h.other).leaseSeq ∧
        (t.half h).leaseCourse = (s.half h.other).leaseCourse) ∧
      t.mgm.nextSeq = (s.mgm.nextSeq + 1) % 2 ^ 32 ∧ t.near = s.near ∧ t.itg = s.itg) ∧
    (s.avl.purlinUp = true → exec (.purlinHeartbeat dt h) s = .next (s.after dt
      { (s.begun dt).emit (.heartbeat h.other) with
        avl.heard := if h = .west then (s.avl.heard.1, s.now + dt) else (s.now + dt, s.avl.heard.2) })) ∧
    (s.avl.purlinUp = false → exec (.purlinHeartbeat dt h) s = .next (s.after dt ((s.begun dt).emit (.heartbeat h.other)))) ∧
    (s.avl.purlinUp = true → s.spanningJobs = [] → s.plc.moves = [] → s.ylx.moves = [] →
      (∀ o ∈ s.eng.outs, s.acrossPurlin (State.accHalf o.acc) o.node = false) → ∃ t, exec (.purlinLost dt) s = .next t ∧
      t.avl.purlinUp = false ∧ t.avl.tries = 0 ∧ t.west.regs.evtStat.getLsbD 5 = true ∧ t.east.regs.evtStat.getLsbD 5 = true ∧
      t.mgm.nextSeq = (s.mgm.nextSeq + 1) % 2 ^ 32 ∧ t.near = s.near ∧ t.itg = s.itg ∧ t.west.course = s.west.course ∧
      t.east.course = s.east.course) ∧
    (s.avl.purlinUp = false → exec (.purlinRetrain dt) s = .next (s.after dt { s.begun dt with avl.tries := s.avl.tries + 1 })) ∧
    (s.avl.purlinUp = false → s.west.course ≠ noCourse → s.east.course ≠ noCourse → ∃ t, exec (.purlinRejoin dt) s = .next t ∧
      t.avl.purlinUp = true ∧ t.west.course = max s.west.course s.east.course ∧ t.east.course = max s.west.course s.east.course ∧
      t.west.leaseHolder = t.east.leaseHolder ∧ t.west.leaseSeq = t.east.leaseSeq ∧ t.holder = s.holder ∧ t.near = s.near) ∧
    (∀ p k c eff rs, p.wf = true → (s.begun dt).Takes p 0x6F00 3 → (s.begun dt).Authorized p 0x6F00 3 k c →
      rs = State.admissionRanges p.data → 1 ≤ field 10 1 p.data → field 10 1 p.data ≤ 64 →
      (∀ r ∈ rs, r.1 % 65536 = 0 ∧ r.2.1 % 65536 = 0 ∧ r.2.2 ≠ 0 ∧ s.oneContext r.2.1 r.2.2 = true) →
      s.isRoofPeer (field 0 2 p.data) = true → (s.node (field 0 2 p.data)).health.expelled = false → s.avl.admission.st = 0 →
      s.course ≠ noCourse → eff = max (field 2 8 p.data) (s.course + 2) →
      ∃ t, exec (.admission dt p) s = .next t ∧
        t.avl.admission = { st := 1, partner := field 0 2 p.data, course := eff, ranges := rs } ∧
        (∀ e : Engine, e.wf = true → (s.engOf e).state = 0 → (t.engOf e).due = true ∧ (t.engOf e).forced = true) ∧ t.near = s.near) ∧
    (∀ a, s.avl.admission = a → a.st = 1 →
      (∃ t, exec (.admissionTestingDone dt false) s = .next t ∧ t.avl.admission = { a with st := 5 } ∧
        t.mgm.nextSeq = (s.mgm.nextSeq + 1) % 2 ^ 32 ∧ t.near = s.near) ∧
      (∀ pb rb, a.ranges = [(pb, rb, 1)] → s.isSelf a.partner = false → s.wayTo a.partner ≠ .unreachable → s.avl.purlinUp = true →
        s.eng.outs = [] →
        ∃ t, exec (.admissionTestingDone dt true) s = .next t ∧ t.avl.admission = { a with st := 2 } ∧
          ∃ o ∈ t.eng.outs, o.node = a.partner ∧ o.acc.org = .load 0 ∧ o.acc.op = .bget ∧ o.acc.ga = mkGa a.partner pb)) ∧
    (∀ a, s.avl.admission = a → a.st = 2 → s.eng.outs = [] →
      (s.admissionBroken = false → exec (.admissionLoadingDone dt true) s = .next (s.after dt
        { s.begun dt with avl.admission := { a with st := 3 } })) ∧
      (∃ t, exec (.admissionLoadingDone dt false) s = .next t ∧ t.avl.admission = { a with st := 5 } ∧
        t.mgm.nextSeq = (s.mgm.nextSeq + 1) % 2 ^ 32 ∧ t.near = s.near))

/-! ### Management and the dictionary -/

/-- Announcements, monitors, clocks, MCTP control and live update (R434, R440, R441, R451 to R453, R491, R495, R497): the
command codes and layouts of MCTP are the model's (log entry 33). -/
def Obligations.ManagementEvents : Prop :=
  ∀ (dt : Nat) (s : State), s.Quiet →
    (∀ sub tag idx, sub < 4 → tag < 65536 → idx < 65536 → exec (.announceAck dt sub tag idx) s = .next (s.after dt
      { s.begun dt with mgm.announces := s.mgm.announces.filter (fun a =>
          !(a.sub == sub && a.seq % 65536 == tag && 0x6800 + a.seq % 256 == idx)) })) ∧
    (∀ sub seq sends, sub < 4 → seq < 2 ^ 32 → s.mgm.announces = [⟨sub, seq, sends⟩] →
      (sends < 8 → exec (.announceResend dt sub seq) s = .next (s.after dt
        (({ s.begun dt with mgm.announces := [⟨sub, seq, sends + 1⟩] } : State).emit (.announce (if s.mgm.ports.1.up then 0 else 1) sub seq)))) ∧
      (8 ≤ sends → exec (.announceResend dt sub seq) s = .next (s.after dt
        (({ s.begun dt with mgm.announces := [] } : State).count .west 0x4110 3)))) ∧
    (∀ src eid typ u, src < 256 → eid < 256 → typ < 256 → (3 ≤ s.phase ∧ s.phase ≤ 0xA ∨ s.phase = 0xF0) → u = (s.begun dt).count .west 0x1102 3 →
      ((eid ≠ 0 ∧ eid ≠ 0xFF → exec (.setEndpointId dt src eid) s = .next (s.after dt
        (({ u with mgm.eid := eid } : State).emit (.mctp src 1 0 (le 1 0 ++ le 1 eid ++ le 1 0))))) ∧
      (eid = 0 ∨ eid = 0xFF → exec (.setEndpointId dt src eid) s = .next (s.after dt (u.emit (.mctp src 1 2 []))))) ∧
      exec (.getEndpointId dt src) s = .next (s.after dt (u.emit (.mctp src 2 0 (le 1 s.mgm.eid ++ le 1 0 ++ le 1 0)))) ∧
      exec (.getMessageTypeSupport dt src) s = .next (s.after dt (u.emit (.mctp src 5 0 (le 1 3 ++ le 1 0 ++ le 1 5 ++ le 1 0x7F)))) ∧
      (typ ∈ [0, 5, 0x7F, 0xFF] → ∃ v, exec (.getMctpVersionSupport dt src typ) s = .next (s.after dt
        (({ u with free := s.free + 1 } : State).emit (.mctp src 4 0 (le 1 1 ++ le 4 v))))) ∧
      (typ ∉ [0, 5, 0x7F, 0xFF] → exec (.getMctpVersionSupport dt src typ) s = .next (s.after dt (u.emit (.mctp src 4 0x80 []))))) ∧
    (∀ addr, addr < 128 → (2 ≤ s.phase → exec (.i3cDynamicAddress dt addr) s = .next (s.after dt { s.begun dt with mgm.dynAddr := addr })) ∧
      (s.phase < 2 → exec (.i3cDynamicAddress dt addr) s = .next (s.after dt (s.begun dt)))) ∧
    (∀ up g, 3 ≤ s.phase → exec (.managementPortLinkChange dt 0 up g) s = .next (s.after dt
        { s.begun dt with mgm.ports := (⟨up, up && g⟩, s.mgm.ports.2) }) ∧
      exec (.managementPortLinkChange dt 1 up g) s = .next (s.after dt { s.begun dt with mgm.ports := (s.mgm.ports.1, ⟨up, up && g⟩) })) ∧
    (∀ rails junctions power, (Instr.monitorSample dt rails junctions power).wf = true →
      (∀ i r, rails[i]? = some r → State.railOut i r.1 = false) →
      ∃ t, exec (.monitorSample dt rails junctions power) s = .next t ∧ t.mon.rails = rails ∧ t.mon.power = power ∧
        t.mon.overs = List.replicate 7 0 ∧ t.mon.trip = (s.mon.trip || junctions.any (fun j => decide (1150 ≤ j))) ∧ t.near = s.near ∧
        ((∀ j ∈ junctions, j ≤ 1000) → t.mgm.nextSeq = s.mgm.nextSeq ∧ t.mon.goodHeat = min 1000 (s.mon.goodHeat + 1)) ∧
        ((∃ j ∈ junctions, 1000 < j) → t.mon.therm = true ∧ t.mon.thermBit = true ∧ t.mon.goodHeat = 0 ∧
          (s.mon.thermBit = false → t.mgm.nextSeq = (s.mgm.nextSeq + 1) % 2 ^ 32))) ∧
    (s.mon.holdover = false → ∃ t, exec (.referenceClockLost dt false false) s = .next t ∧ t.mon.holdover = true ∧ t.gel = s.gel ∧
      t.mgm.nextSeq = (s.mgm.nextSeq + 1) % 2 ^ 32 ∧ t.near = s.near) ∧
    exec (.referenceClockReturn dt) s = .next (s.after dt { s.begun dt with mon.holdover := false }) ∧
    (s.mgm.update = 2 → s.avl.purlinUp = true → ∃ t, exec (.liveUpdateStageDone dt) s = .next t ∧ t.mgm.update = 3 ∧
      t.holder = s.holder.other ∧ (t.half s.holder).running = false ∧ (t.half s.holder.other).running = true ∧ t.fuse = s.fuse) ∧
    (s.mgm.update = 3 → ∃ t, exec (.liveUpdateStageDone dt) s = .next t ∧ t.mgm.update = 4 ∧ (t.half s.holder.other).running = true ∧
      t.enc.active = 1 - s.enc.active ∧ (s.enc.st = 1 → t.enc.st = 3) ∧ t.fuse = s.fuse) ∧
    (s.mgm.update = 4 → s.enc.st = 3 → s.enc.active < 2 → ∃ t, exec (.liveUpdateStageDone dt) s = .next t ∧
      (imageOk s.fuse (s.bank s.enc.active) = true → t.mgm.update = 5 ∧ t.enc.st = 1 ∧ t.enc.version = imageVersion (s.bank s.enc.active) ∧
        t.fuse.minSvn = s.fuse.minSvn ∧
        t.fuse.revoke = s.fuse.revoke ||| (imageRevokes (s.bank s.enc.active) &&& (15 - 2 ^ imageKeySet (s.bank s.enc.active)))) ∧
      (imageOk s.fuse (s.bank s.enc.active) = false → t.mgm.update = 6 ∧ t.enc.active = s.mgm.oldBank.getD s.enc.active ∧
        t.mgm.nextSeq = (s.mgm.nextSeq + 1) % 2 ^ 32 ∧ t.fuse = s.fuse)) ∧
    (s.mgm.update = 2 ∨ s.mgm.update = 3 ∨ s.mgm.update = 4 → ∃ t, exec (.liveUpdateRevert dt) s = .next t ∧ t.mgm.update = 6 ∧
      t.enc.active = (if s.mgm.update = 4 then s.mgm.oldBank.getD s.enc.active else s.enc.active) ∧
      t.mgm.nextSeq = (s.mgm.nextSeq + 1) % 2 ^ 32 ∧ t.fuse = s.fuse ∧ t.near = s.near)

/-- The dictionary by index (R302, R428 to R431, R436 to R439, R448): a read answers the object's value from the offset
asked, a description its type and access, a write has the effect of its object, a pending read the value the open slate
gives (a pending read of an object that is not slated is refused: the model's choice, log entry 135); a mailbox request is
a request of its kind, and a seventeenth at once is answered RETRY. -/
def Obligations.DictionaryAccess : Prop :=
  ∀ (dt index sub : Nat) (p : Pdu) (o : Obj) (s b : State), s.Quiet → index < 65536 → sub < 256 → p.wf = true →
    State.pduGood p = true → s.phaseGate p index sub = .go → s.phase ≠ 0xF0 → objAt index sub = some o →
    b = (s.begun dt).takePdu p →
    (∀ v, p.trailer = none → State.mayRead p index = true → s.keptReply p 1 index sub = none → v = b.objectValue o index sub →
      exec (.waestRead dt p index sub) s = .next (s.after dt ((b.markRead index).answerRead p 1 index sub
        (State.replyPdu p index sub { data := (v.drop p.offset).take (min (pduLimit p) (if p.total == 0 then (v.drop p.offset).length else p.total)) }
          p.offset v.length)))) ∧
    (p.trailer = none → State.mayRead p index = true → s.keptReply p 3 index sub = none →
      exec (.waestDescribe dt p index sub) s = .next (s.after dt (b.answerRead p 3 index sub
        (State.replyPdu p index sub { data := State.describe o } 0 16)))) ∧
    (p.trailer = none → State.mayRead p index = false → s.keptReply p 1 index sub = none →
      exec (.waestRead dt p index sub) s = .next (s.after dt (b.answerRead p 1 index sub
        (State.replyPdu p index sub { status := .rightsFault, detail := 0x24 } 0 0)))) ∧
    (p.trailer = none → (s.begun dt).Takes p index sub → cmdClass index sub p.data = none → ∀ x u, State.writeEffect p index sub p.data b = (x, u) →
      exec (.objectWrite dt p index sub) s = .next (s.after dt ((u.answered p index sub x).settle))) ∧
    (∀ k c x u, (s.begun dt).Takes p index sub → (s.begun dt).Authorized p index sub k c →
      State.writeEffect p index sub p.data ((s.begun dt).authorized p k c) = (x, u) →
      exec (.objectWrite dt p index sub) s = .next (s.after dt ((u.answered p index sub x).settle))) ∧
    (∀ i k x, p.trailer = none → index = 0x2F01 → sub = 4 → (s.begun dt).Takes p 0x2F01 4 → field 0 2 p.data = i → field 2 1 p.data = k → objAt i k = some x →
      (0x2000 ≤ i ∧ i ≤ 0x2EFF ∧ k ≠ 0 → exec (.pendingRead dt p) s = .next (s.after dt
        (b.answered p 0x2F01 4 { data := b.pendingBytes i k }))) ∧
      (i < 0x2000 ∨ 0x2EFF < i → exec (.pendingRead dt p) s = .next (s.after dt
        (b.answered p 0x2F01 4 (outcome .translationFault dValue))))) ∧
    (∀ e hv c tag raw, (Instr.mailboxRequest dt e hv c tag raw).wf = true → s.endUp e = true →
      (16 ≤ s.mgm.mailbox.length → exec (.mailboxRequest dt e hv c tag raw) s = .next (s.after dt
        (((s.begun dt).count e 0x40B0 0xB).toCompanion e hv (.mailboxRetry tag)))) ∧
      (∀ v, p.trailer = none → s.mgm.mailbox = [] → p = State.parsePdu (.mailbox e hv c) tag raw → field 3 1 raw = 1 → field 6 2 raw = index →
        field 8 1 raw = sub → State.mayRead p index = true → s.keptReply p 1 index sub = none → v = b.objectValue o index sub →
        exec (.mailboxRequest dt e hv c tag raw) s = .next (s.after dt ((b.markRead index).answerRead p 1 index sub
          (State.replyPdu p index sub { data := (v.drop p.offset).take (min (pduLimit p) (if p.total == 0 then (v.drop p.offset).length else p.total)) }
            p.offset v.length)))))
end

