-- ==== Sys2Proof/Laws/State.lean ====
section
/-! SUPPORT. What each named update of State leaves as it is, field by field. -/

namespace Sys2Proof.Machine

@[simp] theorem State.modHalf_pending (s : State) (h : Half) (f : HalfSt → HalfSt) : (s.modHalf h f).pending = s.pending := by cases h <;> rfl
@[simp] theorem State.modHalf_out (s : State) (h : Half) (f : HalfSt → HalfSt) : (s.modHalf h f).out = s.out := by cases h <;> rfl
@[simp] theorem State.modHalf_todo (s : State) (h : Half) (f : HalfSt → HalfSt) : (s.modHalf h f).todo = s.todo := by cases h <;> rfl
@[simp] theorem State.modHalf_now (s : State) (h : Half) (f : HalfSt → HalfSt) : (s.modHalf h f).now = s.now := by cases h <;> rfl
@[simp] theorem State.modHalf_free (s : State) (h : Half) (f : HalfSt → HalfSt) : (s.modHalf h f).free = s.free := by cases h <;> rfl
@[simp] theorem State.modHalf_phase (s : State) (h : Half) (f : HalfSt → HalfSt) : (s.modHalf h f).phase = s.phase := by cases h <;> rfl
@[simp] theorem State.modHalf_nodeNum (s : State) (h : Half) (f : HalfSt → HalfSt) : (s.modHalf h f).nodeNum = s.nodeNum := by cases h <;> rfl
@[simp] theorem State.modHalf_crs (s : State) (h : Half) (f : HalfSt → HalfSt) : (s.modHalf h f).crs = s.crs := by cases h <;> rfl
@[simp] theorem State.modHalf_spc (s : State) (h : Half) (f : HalfSt → HalfSt) : (s.modHalf h f).spc = s.spc := by cases h <;> rfl
@[simp] theorem State.modHalf_near (s : State) (h : Half) (f : HalfSt → HalfSt) : (s.modHalf h f).near = s.near := by cases h <;> rfl
@[simp] theorem State.modHalf_plc (s : State) (h : Half) (f : HalfSt → HalfSt) : (s.modHalf h f).plc = s.plc := by cases h <;> rfl
@[simp] theorem State.modHalf_ylx (s : State) (h : Half) (f : HalfSt → HalfSt) : (s.modHalf h f).ylx = s.ylx := by cases h <;> rfl
@[simp] theorem State.modHalf_itg (s : State) (h : Half) (f : HalfSt → HalfSt) : (s.modHalf h f).itg = s.itg := by cases h <;> rfl
@[simp] theorem State.modHalf_rdg (s : State) (h : Half) (f : HalfSt → HalfSt) : (s.modHalf h f).rdg = s.rdg := by cases h <;> rfl
@[simp] theorem State.modHalf_eng (s : State) (h : Half) (f : HalfSt → HalfSt) : (s.modHalf h f).eng = s.eng := by cases h <;> rfl
@[simp] theorem State.modHalf_fab (s : State) (h : Half) (f : HalfSt → HalfSt) : (s.modHalf h f).fab = s.fab := by cases h <;> rfl
@[simp] theorem State.modHalf_opt (s : State) (h : Half) (f : HalfSt → HalfSt) : (s.modHalf h f).opt = s.opt := by cases h <;> rfl
@[simp] theorem State.modHalf_gel (s : State) (h : Half) (f : HalfSt → HalfSt) : (s.modHalf h f).gel = s.gel := by cases h <;> rfl
@[simp] theorem State.modHalf_avl (s : State) (h : Half) (f : HalfSt → HalfSt) : (s.modHalf h f).avl = s.avl := by cases h <;> rfl
@[simp] theorem State.modHalf_enc (s : State) (h : Half) (f : HalfSt → HalfSt) : (s.modHalf h f).enc = s.enc := by cases h <;> rfl
@[simp] theorem State.modHalf_fuse (s : State) (h : Half) (f : HalfSt → HalfSt) : (s.modHalf h f).fuse = s.fuse := by cases h <;> rfl
@[simp] theorem State.modHalf_slt (s : State) (h : Half) (f : HalfSt → HalfSt) : (s.modHalf h f).slt = s.slt := by cases h <;> rfl
@[simp] theorem State.modHalf_mgm (s : State) (h : Half) (f : HalfSt → HalfSt) : (s.modHalf h f).mgm = s.mgm := by cases h <;> rfl
@[simp] theorem State.modHalf_mon (s : State) (h : Half) (f : HalfSt → HalfSt) : (s.modHalf h f).mon = s.mon := by cases h <;> rfl

@[simp] theorem State.modBoth_pending (s : State) (f : HalfSt → HalfSt) : (s.modBoth f).pending = s.pending := by rfl
@[simp] theorem State.modBoth_out (s : State) (f : HalfSt → HalfSt) : (s.modBoth f).out = s.out := by rfl
@[simp] theorem State.modBoth_todo (s : State) (f : HalfSt → HalfSt) : (s.modBoth f).todo = s.todo := by rfl
@[simp] theorem State.modBoth_now (s : State) (f : HalfSt → HalfSt) : (s.modBoth f).now = s.now := by rfl
@[simp] theorem State.modBoth_free (s : State) (f : HalfSt → HalfSt) : (s.modBoth f).free = s.free := by rfl
@[simp] theorem State.modBoth_phase (s : State) (f : HalfSt → HalfSt) : (s.modBoth f).phase = s.phase := by rfl
@[simp] theorem State.modBoth_nodeNum (s : State) (f : HalfSt → HalfSt) : (s.modBoth f).nodeNum = s.nodeNum := by rfl
@[simp] theorem State.modBoth_crs (s : State) (f : HalfSt → HalfSt) : (s.modBoth f).crs = s.crs := by rfl
@[simp] theorem State.modBoth_spc (s : State) (f : HalfSt → HalfSt) : (s.modBoth f).spc = s.spc := by rfl
@[simp] theorem State.modBoth_near (s : State) (f : HalfSt → HalfSt) : (s.modBoth f).near = s.near := by rfl
@[simp] theorem State.modBoth_plc (s : State) (f : HalfSt → HalfSt) : (s.modBoth f).plc = s.plc := by rfl
@[simp] theorem State.modBoth_ylx (s : State) (f : HalfSt → HalfSt) : (s.modBoth f).ylx = s.ylx := by rfl
@[simp] theorem State.modBoth_itg (s : State) (f : HalfSt → HalfSt) : (s.modBoth f).itg = s.itg := by rfl
@[simp] theorem State.modBoth_rdg (s : State) (f : HalfSt → HalfSt) : (s.modBoth f).rdg = s.rdg := by rfl
@[simp] theorem State.modBoth_eng (s : State) (f : HalfSt → HalfSt) : (s.modBoth f).eng = s.eng := by rfl
@[simp] theorem State.modBoth_fab (s : State) (f : HalfSt → HalfSt) : (s.modBoth f).fab = s.fab := by rfl
@[simp] theorem State.modBoth_opt (s : State) (f : HalfSt → HalfSt) : (s.modBoth f).opt = s.opt := by rfl
@[simp] theorem State.modBoth_gel (s : State) (f : HalfSt → HalfSt) : (s.modBoth f).gel = s.gel := by rfl
@[simp] theorem State.modBoth_avl (s : State) (f : HalfSt → HalfSt) : (s.modBoth f).avl = s.avl := by rfl
@[simp] theorem State.modBoth_enc (s : State) (f : HalfSt → HalfSt) : (s.modBoth f).enc = s.enc := by rfl
@[simp] theorem State.modBoth_fuse (s : State) (f : HalfSt → HalfSt) : (s.modBoth f).fuse = s.fuse := by rfl
@[simp] theorem State.modBoth_slt (s : State) (f : HalfSt → HalfSt) : (s.modBoth f).slt = s.slt := by rfl
@[simp] theorem State.modBoth_mgm (s : State) (f : HalfSt → HalfSt) : (s.modBoth f).mgm = s.mgm := by rfl
@[simp] theorem State.modBoth_mon (s : State) (f : HalfSt → HalfSt) : (s.modBoth f).mon = s.mon := by rfl

@[simp] theorem State.count_pending (s : State) (h : Half) (i j n : Nat) : (s.count h i j n).pending = s.pending := by cases h <;> rfl
@[simp] theorem State.count_out (s : State) (h : Half) (i j n : Nat) : (s.count h i j n).out = s.out := by cases h <;> rfl
@[simp] theorem State.count_todo (s : State) (h : Half) (i j n : Nat) : (s.count h i j n).todo = s.todo := by cases h <;> rfl
@[simp] theorem State.count_now (s : State) (h : Half) (i j n : Nat) : (s.count h i j n).now = s.now := by cases h <;> rfl
@[simp] theorem State.count_free (s : State) (h : Half) (i j n : Nat) : (s.count h i j n).free = s.free := by cases h <;> rfl
@[simp] theorem State.count_phase (s : State) (h : Half) (i j n : Nat) : (s.count h i j n).phase = s.phase := by cases h <;> rfl
@[simp] theorem State.count_nodeNum (s : State) (h : Half) (i j n : Nat) : (s.count h i j n).nodeNum = s.nodeNum := by cases h <;> rfl
@[simp] theorem State.count_crs (s : State) (h : Half) (i j n : Nat) : (s.count h i j n).crs = s.crs := by cases h <;> rfl
@[simp] theorem State.count_spc (s : State) (h : Half) (i j n : Nat) : (s.count h i j n).spc = s.spc := by cases h <;> rfl
@[simp] theorem State.count_near (s : State) (h : Half) (i j n : Nat) : (s.count h i j n).near = s.near := by cases h <;> rfl
@[simp] theorem State.count_plc (s : State) (h : Half) (i j n : Nat) : (s.count h i j n).plc = s.plc := by cases h <;> rfl
@[simp] theorem State.count_ylx (s : State) (h : Half) (i j n : Nat) : (s.count h i j n).ylx = s.ylx := by cases h <;> rfl
@[simp] theorem State.count_itg (s : State) (h : Half) (i j n : Nat) : (s.count h i j n).itg = s.itg := by cases h <;> rfl
@[simp] theorem State.count_rdg (s : State) (h : Half) (i j n : Nat) : (s.count h i j n).rdg = s.rdg := by cases h <;> rfl
@[simp] theorem State.count_eng (s : State) (h : Half) (i j n : Nat) : (s.count h i j n).eng = s.eng := by cases h <;> rfl
@[simp] theorem State.count_fab (s : State) (h : Half) (i j n : Nat) : (s.count h i j n).fab = s.fab := by cases h <;> rfl
@[simp] theorem State.count_opt (s : State) (h : Half) (i j n : Nat) : (s.count h i j n).opt = s.opt := by cases h <;> rfl
@[simp] theorem State.count_gel (s : State) (h : Half) (i j n : Nat) : (s.count h i j n).gel = s.gel := by cases h <;> rfl
@[simp] theorem State.count_avl (s : State) (h : Half) (i j n : Nat) : (s.count h i j n).avl = s.avl := by cases h <;> rfl
@[simp] theorem State.count_enc (s : State) (h : Half) (i j n : Nat) : (s.count h i j n).enc = s.enc := by cases h <;> rfl
@[simp] theorem State.count_fuse (s : State) (h : Half) (i j n : Nat) : (s.count h i j n).fuse = s.fuse := by cases h <;> rfl
@[simp] theorem State.count_slt (s : State) (h : Half) (i j n : Nat) : (s.count h i j n).slt = s.slt := by cases h <;> rfl
@[simp] theorem State.count_mgm (s : State) (h : Half) (i j n : Nat) : (s.count h i j n).mgm = s.mgm := by cases h <;> rfl
@[simp] theorem State.count_mon (s : State) (h : Half) (i j n : Nat) : (s.count h i j n).mon = s.mon := by cases h <;> rfl

@[simp] theorem State.setCount_pending (s : State) (h : Half) (i j n : Nat) : (s.setCount h i j n).pending = s.pending := by cases h <;> rfl
@[simp] theorem State.setCount_out (s : State) (h : Half) (i j n : Nat) : (s.setCount h i j n).out = s.out := by cases h <;> rfl
@[simp] theorem State.setCount_todo (s : State) (h : Half) (i j n : Nat) : (s.setCount h i j n).todo = s.todo := by cases h <;> rfl
@[simp] theorem State.setCount_now (s : State) (h : Half) (i j n : Nat) : (s.setCount h i j n).now = s.now := by cases h <;> rfl
@[simp] theorem State.setCount_free (s : State) (h : Half) (i j n : Nat) : (s.setCount h i j n).free = s.free := by cases h <;> rfl
@[simp] theorem State.setCount_phase (s : State) (h : Half) (i j n : Nat) : (s.setCount h i j n).phase = s.phase := by cases h <;> rfl
@[simp] theorem State.setCount_nodeNum (s : State) (h : Half) (i j n : Nat) : (s.setCount h i j n).nodeNum = s.nodeNum := by cases h <;> rfl
@[simp] theorem State.setCount_crs (s : State) (h : Half) (i j n : Nat) : (s.setCount h i j n).crs = s.crs := by cases h <;> rfl
@[simp] theorem State.setCount_spc (s : State) (h : Half) (i j n : Nat) : (s.setCount h i j n).spc = s.spc := by cases h <;> rfl
@[simp] theorem State.setCount_near (s : State) (h : Half) (i j n : Nat) : (s.setCount h i j n).near = s.near := by cases h <;> rfl
@[simp] theorem State.setCount_plc (s : State) (h : Half) (i j n : Nat) : (s.setCount h i j n).plc = s.plc := by cases h <;> rfl
@[simp] theorem State.setCount_ylx (s : State) (h : Half) (i j n : Nat) : (s.setCount h i j n).ylx = s.ylx := by cases h <;> rfl
@[simp] theorem State.setCount_itg (s : State) (h : Half) (i j n : Nat) : (s.setCount h i j n).itg = s.itg := by cases h <;> rfl
@[simp] theorem State.setCount_rdg (s : State) (h : Half) (i j n : Nat) : (s.setCount h i j n).rdg = s.rdg := by cases h <;> rfl
@[simp] theorem State.setCount_eng (s : State) (h : Half) (i j n : Nat) : (s.setCount h i j n).eng = s.eng := by cases h <;> rfl
@[simp] theorem State.setCount_fab (s : State) (h : Half) (i j n : Nat) : (s.setCount h i j n).fab = s.fab := by cases h <;> rfl
@[simp] theorem State.setCount_opt (s : State) (h : Half) (i j n : Nat) : (s.setCount h i j n).opt = s.opt := by cases h <;> rfl
@[simp] theorem State.setCount_gel (s : State) (h : Half) (i j n : Nat) : (s.setCount h i j n).gel = s.gel := by cases h <;> rfl
@[simp] theorem State.setCount_avl (s : State) (h : Half) (i j n : Nat) : (s.setCount h i j n).avl = s.avl := by cases h <;> rfl
@[simp] theorem State.setCount_enc (s : State) (h : Half) (i j n : Nat) : (s.setCount h i j n).enc = s.enc := by cases h <;> rfl
@[simp] theorem State.setCount_fuse (s : State) (h : Half) (i j n : Nat) : (s.setCount h i j n).fuse = s.fuse := by cases h <;> rfl
@[simp] theorem State.setCount_slt (s : State) (h : Half) (i j n : Nat) : (s.setCount h i j n).slt = s.slt := by cases h <;> rfl
@[simp] theorem State.setCount_mgm (s : State) (h : Half) (i j n : Nat) : (s.setCount h i j n).mgm = s.mgm := by cases h <;> rfl
@[simp] theorem State.setCount_mon (s : State) (h : Half) (i j n : Nat) : (s.setCount h i j n).mon = s.mon := by cases h <;> rfl

@[simp] theorem State.raiseEvt_pending (s : State) (h : Half) (b : Nat) : (s.raiseEvt h b).pending = s.pending := by cases h <;> rfl
@[simp] theorem State.raiseEvt_out (s : State) (h : Half) (b : Nat) : (s.raiseEvt h b).out = s.out := by cases h <;> rfl
@[simp] theorem State.raiseEvt_todo (s : State) (h : Half) (b : Nat) : (s.raiseEvt h b).todo = s.todo := by cases h <;> rfl
@[simp] theorem State.raiseEvt_now (s : State) (h : Half) (b : Nat) : (s.raiseEvt h b).now = s.now := by cases h <;> rfl
@[simp] theorem State.raiseEvt_free (s : State) (h : Half) (b : Nat) : (s.raiseEvt h b).free = s.free := by cases h <;> rfl
@[simp] theorem State.raiseEvt_phase (s : State) (h : Half) (b : Nat) : (s.raiseEvt h b).phase = s.phase := by cases h <;> rfl
@[simp] theorem State.raiseEvt_nodeNum (s : State) (h : Half) (b : Nat) : (s.raiseEvt h b).nodeNum = s.nodeNum := by cases h <;> rfl
@[simp] theorem State.raiseEvt_crs (s : State) (h : Half) (b : Nat) : (s.raiseEvt h b).crs = s.crs := by cases h <;> rfl
@[simp] theorem State.raiseEvt_spc (s : State) (h : Half) (b : Nat) : (s.raiseEvt h b).spc = s.spc := by cases h <;> rfl
@[simp] theorem State.raiseEvt_near (s : State) (h : Half) (b : Nat) : (s.raiseEvt h b).near = s.near := by cases h <;> rfl
@[simp] theorem State.raiseEvt_plc (s : State) (h : Half) (b : Nat) : (s.raiseEvt h b).plc = s.plc := by cases h <;> rfl
@[simp] theorem State.raiseEvt_ylx (s : State) (h : Half) (b : Nat) : (s.raiseEvt h b).ylx = s.ylx := by cases h <;> rfl
@[simp] theorem State.raiseEvt_itg (s : State) (h : Half) (b : Nat) : (s.raiseEvt h b).itg = s.itg := by cases h <;> rfl
@[simp] theorem State.raiseEvt_rdg (s : State) (h : Half) (b : Nat) : (s.raiseEvt h b).rdg = s.rdg := by cases h <;> rfl
@[simp] theorem State.raiseEvt_eng (s : State) (h : Half) (b : Nat) : (s.raiseEvt h b).eng = s.eng := by cases h <;> rfl
@[simp] theorem State.raiseEvt_fab (s : State) (h : Half) (b : Nat) : (s.raiseEvt h b).fab = s.fab := by cases h <;> rfl
@[simp] theorem State.raiseEvt_opt (s : State) (h : Half) (b : Nat) : (s.raiseEvt h b).opt = s.opt := by cases h <;> rfl
@[simp] theorem State.raiseEvt_gel (s : State) (h : Half) (b : Nat) : (s.raiseEvt h b).gel = s.gel := by cases h <;> rfl
@[simp] theorem State.raiseEvt_avl (s : State) (h : Half) (b : Nat) : (s.raiseEvt h b).avl = s.avl := by cases h <;> rfl
@[simp] theorem State.raiseEvt_enc (s : State) (h : Half) (b : Nat) : (s.raiseEvt h b).enc = s.enc := by cases h <;> rfl
@[simp] theorem State.raiseEvt_fuse (s : State) (h : Half) (b : Nat) : (s.raiseEvt h b).fuse = s.fuse := by cases h <;> rfl
@[simp] theorem State.raiseEvt_slt (s : State) (h : Half) (b : Nat) : (s.raiseEvt h b).slt = s.slt := by cases h <;> rfl
@[simp] theorem State.raiseEvt_mgm (s : State) (h : Half) (b : Nat) : (s.raiseEvt h b).mgm = s.mgm := by cases h <;> rfl
@[simp] theorem State.raiseEvt_mon (s : State) (h : Half) (b : Nat) : (s.raiseEvt h b).mon = s.mon := by cases h <;> rfl

@[simp] theorem State.emit_pending (s : State) (o : Out) : (s.emit o).pending = s.pending := by rfl
@[simp] theorem State.emit_todo (s : State) (o : Out) : (s.emit o).todo = s.todo := by rfl
@[simp] theorem State.emit_now (s : State) (o : Out) : (s.emit o).now = s.now := by rfl
@[simp] theorem State.emit_free (s : State) (o : Out) : (s.emit o).free = s.free := by rfl
@[simp] theorem State.emit_phase (s : State) (o : Out) : (s.emit o).phase = s.phase := by rfl
@[simp] theorem State.emit_nodeNum (s : State) (o : Out) : (s.emit o).nodeNum = s.nodeNum := by rfl
@[simp] theorem State.emit_crs (s : State) (o : Out) : (s.emit o).crs = s.crs := by rfl
@[simp] theorem State.emit_spc (s : State) (o : Out) : (s.emit o).spc = s.spc := by rfl
@[simp] theorem State.emit_near (s : State) (o : Out) : (s.emit o).near = s.near := by rfl
@[simp] theorem State.emit_plc (s : State) (o : Out) : (s.emit o).plc = s.plc := by rfl
@[simp] theorem State.emit_ylx (s : State) (o : Out) : (s.emit o).ylx = s.ylx := by rfl
@[simp] theorem State.emit_itg (s : State) (o : Out) : (s.emit o).itg = s.itg := by rfl
@[simp] theorem State.emit_rdg (s : State) (o : Out) : (s.emit o).rdg = s.rdg := by rfl
@[simp] theorem State.emit_eng (s : State) (o : Out) : (s.emit o).eng = s.eng := by rfl
@[simp] theorem State.emit_fab (s : State) (o : Out) : (s.emit o).fab = s.fab := by rfl
@[simp] theorem State.emit_opt (s : State) (o : Out) : (s.emit o).opt = s.opt := by rfl
@[simp] theorem State.emit_gel (s : State) (o : Out) : (s.emit o).gel = s.gel := by rfl
@[simp] theorem State.emit_west (s : State) (o : Out) : (s.emit o).west = s.west := by rfl
@[simp] theorem State.emit_east (s : State) (o : Out) : (s.emit o).east = s.east := by rfl
@[simp] theorem State.emit_avl (s : State) (o : Out) : (s.emit o).avl = s.avl := by rfl
@[simp] theorem State.emit_enc (s : State) (o : Out) : (s.emit o).enc = s.enc := by rfl
@[simp] theorem State.emit_fuse (s : State) (o : Out) : (s.emit o).fuse = s.fuse := by rfl
@[simp] theorem State.emit_slt (s : State) (o : Out) : (s.emit o).slt = s.slt := by rfl
@[simp] theorem State.emit_mgm (s : State) (o : Out) : (s.emit o).mgm = s.mgm := by rfl
@[simp] theorem State.emit_mon (s : State) (o : Out) : (s.emit o).mon = s.mon := by rfl

@[simp] theorem State.emitAll_pending (s : State) (os : List Out) : (s.emitAll os).pending = s.pending := by rfl
@[simp] theorem State.emitAll_todo (s : State) (os : List Out) : (s.emitAll os).todo = s.todo := by rfl
@[simp] theorem State.emitAll_now (s : State) (os : List Out) : (s.emitAll os).now = s.now := by rfl
@[simp] theorem State.emitAll_free (s : State) (os : List Out) : (s.emitAll os).free = s.free := by rfl
@[simp] theorem State.emitAll_phase (s : State) (os : List Out) : (s.emitAll os).phase = s.phase := by rfl
@[simp] theorem State.emitAll_nodeNum (s : State) (os : List Out) : (s.emitAll os).nodeNum = s.nodeNum := by rfl
@[simp] theorem State.emitAll_crs (s : State) (os : List Out) : (s.emitAll os).crs = s.crs := by rfl
@[simp] theorem State.emitAll_spc (s : State) (os : List Out) : (s.emitAll os).spc = s.spc := by rfl
@[simp] theorem State.emitAll_near (s : State) (os : List Out) : (s.emitAll os).near = s.near := by rfl
@[simp] theorem State.emitAll_plc (s : State) (os : List Out) : (s.emitAll os).plc = s.plc := by rfl
@[simp] theorem State.emitAll_ylx (s : State) (os : List Out) : (s.emitAll os).ylx = s.ylx := by rfl
@[simp] theorem State.emitAll_itg (s : State) (os : List Out) : (s.emitAll os).itg = s.itg := by rfl
@[simp] theorem State.emitAll_rdg (s : State) (os : List Out) : (s.emitAll os).rdg = s.rdg := by rfl
@[simp] theorem State.emitAll_eng (s : State) (os : List Out) : (s.emitAll os).eng = s.eng := by rfl
@[simp] theorem State.emitAll_fab (s : State) (os : List Out) : (s.emitAll os).fab = s.fab := by rfl
@[simp] theorem State.emitAll_opt (s : State) (os : List Out) : (s.emitAll os).opt = s.opt := by rfl
@[simp] theorem State.emitAll_gel (s : State) (os : List Out) : (s.emitAll os).gel = s.gel := by rfl
@[simp] theorem State.emitAll_west (s : State) (os : List Out) : (s.emitAll os).west = s.west := by rfl
@[simp] theorem State.emitAll_east (s : State) (os : List Out) : (s.emitAll os).east = s.east := by rfl
@[simp] theorem State.emitAll_avl (s : State) (os : List Out) : (s.emitAll os).avl = s.avl := by rfl
@[simp] theorem State.emitAll_enc (s : State) (os : List Out) : (s.emitAll os).enc = s.enc := by rfl
@[simp] theorem State.emitAll_fuse (s : State) (os : List Out) : (s.emitAll os).fuse = s.fuse := by rfl
@[simp] theorem State.emitAll_slt (s : State) (os : List Out) : (s.emitAll os).slt = s.slt := by rfl
@[simp] theorem State.emitAll_mgm (s : State) (os : List Out) : (s.emitAll os).mgm = s.mgm := by rfl
@[simp] theorem State.emitAll_mon (s : State) (os : List Out) : (s.emitAll os).mon = s.mon := by rfl

@[simp] theorem State.push_pending (s : State) (k : Task) : (s.push k).pending = s.pending := by rfl
@[simp] theorem State.push_out (s : State) (k : Task) : (s.push k).out = s.out := by rfl
@[simp] theorem State.push_now (s : State) (k : Task) : (s.push k).now = s.now := by rfl
@[simp] theorem State.push_free (s : State) (k : Task) : (s.push k).free = s.free := by rfl
@[simp] theorem State.push_phase (s : State) (k : Task) : (s.push k).phase = s.phase := by rfl
@[simp] theorem State.push_nodeNum (s : State) (k : Task) : (s.push k).nodeNum = s.nodeNum := by rfl
@[simp] theorem State.push_crs (s : State) (k : Task) : (s.push k).crs = s.crs := by rfl
@[simp] theorem State.push_spc (s : State) (k : Task) : (s.push k).spc = s.spc := by rfl
@[simp] theorem State.push_near (s : State) (k : Task) : (s.push k).near = s.near := by rfl
@[simp] theorem State.push_plc (s : State) (k : Task) : (s.push k).plc = s.plc := by rfl
@[simp] theorem State.push_ylx (s : State) (k : Task) : (s.push k).ylx = s.ylx := by rfl
@[simp] theorem State.push_itg (s : State) (k : Task) : (s.push k).itg = s.itg := by rfl
@[simp] theorem State.push_rdg (s : State) (k : Task) : (s.push k).rdg = s.rdg := by rfl
@[simp] theorem State.push_eng (s : State) (k : Task) : (s.push k).eng = s.eng := by rfl
@[simp] theorem State.push_fab (s : State) (k : Task) : (s.push k).fab = s.fab := by rfl
@[simp] theorem State.push_opt (s : State) (k : Task) : (s.push k).opt = s.opt := by rfl
@[simp] theorem State.push_gel (s : State) (k : Task) : (s.push k).gel = s.gel := by rfl
@[simp] theorem State.push_west (s : State) (k : Task) : (s.push k).west = s.west := by rfl
@[simp] theorem State.push_east (s : State) (k : Task) : (s.push k).east = s.east := by rfl
@[simp] theorem State.push_avl (s : State) (k : Task) : (s.push k).avl = s.avl := by rfl
@[simp] theorem State.push_enc (s : State) (k : Task) : (s.push k).enc = s.enc := by rfl
@[simp] theorem State.push_fuse (s : State) (k : Task) : (s.push k).fuse = s.fuse := by rfl
@[simp] theorem State.push_slt (s : State) (k : Task) : (s.push k).slt = s.slt := by rfl
@[simp] theorem State.push_mgm (s : State) (k : Task) : (s.push k).mgm = s.mgm := by rfl
@[simp] theorem State.push_mon (s : State) (k : Task) : (s.push k).mon = s.mon := by rfl

@[simp] theorem State.pushAll_pending (s : State) (ks : List Task) : (s.pushAll ks).pending = s.pending := by rfl
@[simp] theorem State.pushAll_out (s : State) (ks : List Task) : (s.pushAll ks).out = s.out := by rfl
@[simp] theorem State.pushAll_now (s : State) (ks : List Task) : (s.pushAll ks).now = s.now := by rfl
@[simp] theorem State.pushAll_free (s : State) (ks : List Task) : (s.pushAll ks).free = s.free := by rfl
@[simp] theorem State.pushAll_phase (s : State) (ks : List Task) : (s.pushAll ks).phase = s.phase := by rfl
@[simp] theorem State.pushAll_nodeNum (s : State) (ks : List Task) : (s.pushAll ks).nodeNum = s.nodeNum := by rfl
@[simp] theorem State.pushAll_crs (s : State) (ks : List Task) : (s.pushAll ks).crs = s.crs := by rfl
@[simp] theorem State.pushAll_spc (s : State) (ks : List Task) : (s.pushAll ks).spc = s.spc := by rfl
@[simp] theorem State.pushAll_near (s : State) (ks : List Task) : (s.pushAll ks).near = s.near := by rfl
@[simp] theorem State.pushAll_plc (s : State) (ks : List Task) : (s.pushAll ks).plc = s.plc := by rfl
@[simp] theorem State.pushAll_ylx (s : State) (ks : List Task) : (s.pushAll ks).ylx = s.ylx := by rfl
@[simp] theorem State.pushAll_itg (s : State) (ks : List Task) : (s.pushAll ks).itg = s.itg := by rfl
@[simp] theorem State.pushAll_rdg (s : State) (ks : List Task) : (s.pushAll ks).rdg = s.rdg := by rfl
@[simp] theorem State.pushAll_eng (s : State) (ks : List Task) : (s.pushAll ks).eng = s.eng := by rfl
@[simp] theorem State.pushAll_fab (s : State) (ks : List Task) : (s.pushAll ks).fab = s.fab := by rfl
@[simp] theorem State.pushAll_opt (s : State) (ks : List Task) : (s.pushAll ks).opt = s.opt := by rfl
@[simp] theorem State.pushAll_gel (s : State) (ks : List Task) : (s.pushAll ks).gel = s.gel := by rfl
@[simp] theorem State.pushAll_west (s : State) (ks : List Task) : (s.pushAll ks).west = s.west := by rfl
@[simp] theorem State.pushAll_east (s : State) (ks : List Task) : (s.pushAll ks).east = s.east := by rfl
@[simp] theorem State.pushAll_avl (s : State) (ks : List Task) : (s.pushAll ks).avl = s.avl := by rfl
@[simp] theorem State.pushAll_enc (s : State) (ks : List Task) : (s.pushAll ks).enc = s.enc := by rfl
@[simp] theorem State.pushAll_fuse (s : State) (ks : List Task) : (s.pushAll ks).fuse = s.fuse := by rfl
@[simp] theorem State.pushAll_slt (s : State) (ks : List Task) : (s.pushAll ks).slt = s.slt := by rfl
@[simp] theorem State.pushAll_mgm (s : State) (ks : List Task) : (s.pushAll ks).mgm = s.mgm := by rfl
@[simp] theorem State.pushAll_mon (s : State) (ks : List Task) : (s.pushAll ks).mon = s.mon := by rfl

@[simp] theorem State.modCtx_pending (s : State) (c : Nat) (f : Ctx → Ctx) : (s.modCtx c f).pending = s.pending := by rfl
@[simp] theorem State.modCtx_out (s : State) (c : Nat) (f : Ctx → Ctx) : (s.modCtx c f).out = s.out := by rfl
@[simp] theorem State.modCtx_todo (s : State) (c : Nat) (f : Ctx → Ctx) : (s.modCtx c f).todo = s.todo := by rfl
@[simp] theorem State.modCtx_now (s : State) (c : Nat) (f : Ctx → Ctx) : (s.modCtx c f).now = s.now := by rfl
@[simp] theorem State.modCtx_free (s : State) (c : Nat) (f : Ctx → Ctx) : (s.modCtx c f).free = s.free := by rfl
@[simp] theorem State.modCtx_phase (s : State) (c : Nat) (f : Ctx → Ctx) : (s.modCtx c f).phase = s.phase := by rfl
@[simp] theorem State.modCtx_nodeNum (s : State) (c : Nat) (f : Ctx → Ctx) : (s.modCtx c f).nodeNum = s.nodeNum := by rfl
@[simp] theorem State.modCtx_crs (s : State) (c : Nat) (f : Ctx → Ctx) : (s.modCtx c f).crs = s.crs := by rfl
@[simp] theorem State.modCtx_near (s : State) (c : Nat) (f : Ctx → Ctx) : (s.modCtx c f).near = s.near := by rfl
@[simp] theorem State.modCtx_plc (s : State) (c : Nat) (f : Ctx → Ctx) : (s.modCtx c f).plc = s.plc := by rfl
@[simp] theorem State.modCtx_ylx (s : State) (c : Nat) (f : Ctx → Ctx) : (s.modCtx c f).ylx = s.ylx := by rfl
@[simp] theorem State.modCtx_itg (s : State) (c : Nat) (f : Ctx → Ctx) : (s.modCtx c f).itg = s.itg := by rfl
@[simp] theorem State.modCtx_rdg (s : State) (c : Nat) (f : Ctx → Ctx) : (s.modCtx c f).rdg = s.rdg := by rfl
@[simp] theorem State.modCtx_eng (s : State) (c : Nat) (f : Ctx → Ctx) : (s.modCtx c f).eng = s.eng := by rfl
@[simp] theorem State.modCtx_fab (s : State) (c : Nat) (f : Ctx → Ctx) : (s.modCtx c f).fab = s.fab := by rfl
@[simp] theorem State.modCtx_opt (s : State) (c : Nat) (f : Ctx → Ctx) : (s.modCtx c f).opt = s.opt := by rfl
@[simp] theorem State.modCtx_gel (s : State) (c : Nat) (f : Ctx → Ctx) : (s.modCtx c f).gel = s.gel := by rfl
@[simp] theorem State.modCtx_west (s : State) (c : Nat) (f : Ctx → Ctx) : (s.modCtx c f).west = s.west := by rfl
@[simp] theorem State.modCtx_east (s : State) (c : Nat) (f : Ctx → Ctx) : (s.modCtx c f).east = s.east := by rfl
@[simp] theorem State.modCtx_avl (s : State) (c : Nat) (f : Ctx → Ctx) : (s.modCtx c f).avl = s.avl := by rfl
@[simp] theorem State.modCtx_enc (s : State) (c : Nat) (f : Ctx → Ctx) : (s.modCtx c f).enc = s.enc := by rfl
@[simp] theorem State.modCtx_fuse (s : State) (c : Nat) (f : Ctx → Ctx) : (s.modCtx c f).fuse = s.fuse := by rfl
@[simp] theorem State.modCtx_slt (s : State) (c : Nat) (f : Ctx → Ctx) : (s.modCtx c f).slt = s.slt := by rfl
@[simp] theorem State.modCtx_mgm (s : State) (c : Nat) (f : Ctx → Ctx) : (s.modCtx c f).mgm = s.mgm := by rfl
@[simp] theorem State.modCtx_mon (s : State) (c : Nat) (f : Ctx → Ctx) : (s.modCtx c f).mon = s.mon := by rfl

@[simp] theorem State.modExtent_pending (s : State) (n : Nat) (f : Extent → Extent) : (s.modExtent n f).pending = s.pending := by rfl
@[simp] theorem State.modExtent_out (s : State) (n : Nat) (f : Extent → Extent) : (s.modExtent n f).out = s.out := by rfl
@[simp] theorem State.modExtent_todo (s : State) (n : Nat) (f : Extent → Extent) : (s.modExtent n f).todo = s.todo := by rfl
@[simp] theorem State.modExtent_now (s : State) (n : Nat) (f : Extent → Extent) : (s.modExtent n f).now = s.now := by rfl
@[simp] theorem State.modExtent_free (s : State) (n : Nat) (f : Extent → Extent) : (s.modExtent n f).free = s.free := by rfl
@[simp] theorem State.modExtent_phase (s : State) (n : Nat) (f : Extent → Extent) : (s.modExtent n f).phase = s.phase := by rfl
@[simp] theorem State.modExtent_nodeNum (s : State) (n : Nat) (f : Extent → Extent) : (s.modExtent n f).nodeNum = s.nodeNum := by rfl
@[simp] theorem State.modExtent_crs (s : State) (n : Nat) (f : Extent → Extent) : (s.modExtent n f).crs = s.crs := by rfl
@[simp] theorem State.modExtent_near (s : State) (n : Nat) (f : Extent → Extent) : (s.modExtent n f).near = s.near := by rfl
@[simp] theorem State.modExtent_plc (s : State) (n : Nat) (f : Extent → Extent) : (s.modExtent n f).plc = s.plc := by rfl
@[simp] theorem State.modExtent_ylx (s : State) (n : Nat) (f : Extent → Extent) : (s.modExtent n f).ylx = s.ylx := by rfl
@[simp] theorem State.modExtent_itg (s : State) (n : Nat) (f : Extent → Extent) : (s.modExtent n f).itg = s.itg := by rfl
@[simp] theorem State.modExtent_rdg (s : State) (n : Nat) (f : Extent → Extent) : (s.modExtent n f).rdg = s.rdg := by rfl
@[simp] theorem State.modExtent_eng (s : State) (n : Nat) (f : Extent → Extent) : (s.modExtent n f).eng = s.eng := by rfl
@[simp] theorem State.modExtent_fab (s : State) (n : Nat) (f : Extent → Extent) : (s.modExtent n f).fab = s.fab := by rfl
@[simp] theorem State.modExtent_opt (s : State) (n : Nat) (f : Extent → Extent) : (s.modExtent n f).opt = s.opt := by rfl
@[simp] theorem State.modExtent_gel (s : State) (n : Nat) (f : Extent → Extent) : (s.modExtent n f).gel = s.gel := by rfl
@[simp] theorem State.modExtent_west (s : State) (n : Nat) (f : Extent → Extent) : (s.modExtent n f).west = s.west := by rfl
@[simp] theorem State.modExtent_east (s : State) (n : Nat) (f : Extent → Extent) : (s.modExtent n f).east = s.east := by rfl
@[simp] theorem State.modExtent_avl (s : State) (n : Nat) (f : Extent → Extent) : (s.modExtent n f).avl = s.avl := by rfl
@[simp] theorem State.modExtent_enc (s : State) (n : Nat) (f : Extent → Extent) : (s.modExtent n f).enc = s.enc := by rfl
@[simp] theorem State.modExtent_fuse (s : State) (n : Nat) (f : Extent → Extent) : (s.modExtent n f).fuse = s.fuse := by rfl
@[simp] theorem State.modExtent_slt (s : State) (n : Nat) (f : Extent → Extent) : (s.modExtent n f).slt = s.slt := by rfl
@[simp] theorem State.modExtent_mgm (s : State) (n : Nat) (f : Extent → Extent) : (s.modExtent n f).mgm = s.mgm := by rfl
@[simp] theorem State.modExtent_mon (s : State) (n : Nat) (f : Extent → Extent) : (s.modExtent n f).mon = s.mon := by rfl

@[simp] theorem State.modPort_pending (s : State) (p : Nat) (f : Port → Port) : (s.modPort p f).pending = s.pending := by rfl
@[simp] theorem State.modPort_out (s : State) (p : Nat) (f : Port → Port) : (s.modPort p f).out = s.out := by rfl
@[simp] theorem State.modPort_todo (s : State) (p : Nat) (f : Port → Port) : (s.modPort p f).todo = s.todo := by rfl
@[simp] theorem State.modPort_now (s : State) (p : Nat) (f : Port → Port) : (s.modPort p f).now = s.now := by rfl
@[simp] theorem State.modPort_free (s : State) (p : Nat) (f : Port → Port) : (s.modPort p f).free = s.free := by rfl
@[simp] theorem State.modPort_phase (s : State) (p : Nat) (f : Port → Port) : (s.modPort p f).phase = s.phase := by rfl
@[simp] theorem State.modPort_nodeNum (s : State) (p : Nat) (f : Port → Port) : (s.modPort p f).nodeNum = s.nodeNum := by rfl
@[simp] theorem State.modPort_crs (s : State) (p : Nat) (f : Port → Port) : (s.modPort p f).crs = s.crs := by rfl
@[simp] theorem State.modPort_spc (s : State) (p : Nat) (f : Port → Port) : (s.modPort p f).spc = s.spc := by rfl
@[simp] theorem State.modPort_near (s : State) (p : Nat) (f : Port → Port) : (s.modPort p f).near = s.near := by rfl
@[simp] theorem State.modPort_plc (s : State) (p : Nat) (f : Port → Port) : (s.modPort p f).plc = s.plc := by rfl
@[simp] theorem State.modPort_ylx (s : State) (p : Nat) (f : Port → Port) : (s.modPort p f).ylx = s.ylx := by rfl
@[simp] theorem State.modPort_itg (s : State) (p : Nat) (f : Port → Port) : (s.modPort p f).itg = s.itg := by rfl
@[simp] theorem State.modPort_rdg (s : State) (p : Nat) (f : Port → Port) : (s.modPort p f).rdg = s.rdg := by rfl
@[simp] theorem State.modPort_eng (s : State) (p : Nat) (f : Port → Port) : (s.modPort p f).eng = s.eng := by rfl
@[simp] theorem State.modPort_opt (s : State) (p : Nat) (f : Port → Port) : (s.modPort p f).opt = s.opt := by rfl
@[simp] theorem State.modPort_gel (s : State) (p : Nat) (f : Port → Port) : (s.modPort p f).gel = s.gel := by rfl
@[simp] theorem State.modPort_west (s : State) (p : Nat) (f : Port → Port) : (s.modPort p f).west = s.west := by rfl
@[simp] theorem State.modPort_east (s : State) (p : Nat) (f : Port → Port) : (s.modPort p f).east = s.east := by rfl
@[simp] theorem State.modPort_avl (s : State) (p : Nat) (f : Port → Port) : (s.modPort p f).avl = s.avl := by rfl
@[simp] theorem State.modPort_enc (s : State) (p : Nat) (f : Port → Port) : (s.modPort p f).enc = s.enc := by rfl
@[simp] theorem State.modPort_fuse (s : State) (p : Nat) (f : Port → Port) : (s.modPort p f).fuse = s.fuse := by rfl
@[simp] theorem State.modPort_slt (s : State) (p : Nat) (f : Port → Port) : (s.modPort p f).slt = s.slt := by rfl
@[simp] theorem State.modPort_mgm (s : State) (p : Nat) (f : Port → Port) : (s.modPort p f).mgm = s.mgm := by rfl
@[simp] theorem State.modPort_mon (s : State) (p : Nat) (f : Port → Port) : (s.modPort p f).mon = s.mon := by rfl

@[simp] theorem State.modNode_pending (s : State) (n : Nat) (f : Node → Node) : (s.modNode n f).pending = s.pending := by rfl
@[simp] theorem State.modNode_out (s : State) (n : Nat) (f : Node → Node) : (s.modNode n f).out = s.out := by rfl
@[simp] theorem State.modNode_todo (s : State) (n : Nat) (f : Node → Node) : (s.modNode n f).todo = s.todo := by rfl
@[simp] theorem State.modNode_now (s : State) (n : Nat) (f : Node → Node) : (s.modNode n f).now = s.now := by rfl
@[simp] theorem State.modNode_free (s : State) (n : Nat) (f : Node → Node) : (s.modNode n f).free = s.free := by rfl
@[simp] theorem State.modNode_phase (s : State) (n : Nat) (f : Node → Node) : (s.modNode n f).phase = s.phase := by rfl
@[simp] theorem State.modNode_nodeNum (s : State) (n : Nat) (f : Node → Node) : (s.modNode n f).nodeNum = s.nodeNum := by rfl
@[simp] theorem State.modNode_crs (s : State) (n : Nat) (f : Node → Node) : (s.modNode n f).crs = s.crs := by rfl
@[simp] theorem State.modNode_spc (s : State) (n : Nat) (f : Node → Node) : (s.modNode n f).spc = s.spc := by rfl
@[simp] theorem State.modNode_near (s : State) (n : Nat) (f : Node → Node) : (s.modNode n f).near = s.near := by rfl
@[simp] theorem State.modNode_plc (s : State) (n : Nat) (f : Node → Node) : (s.modNode n f).plc = s.plc := by rfl
@[simp] theorem State.modNode_ylx (s : State) (n : Nat) (f : Node → Node) : (s.modNode n f).ylx = s.ylx := by rfl
@[simp] theorem State.modNode_itg (s : State) (n : Nat) (f : Node → Node) : (s.modNode n f).itg = s.itg := by rfl
@[simp] theorem State.modNode_rdg (s : State) (n : Nat) (f : Node → Node) : (s.modNode n f).rdg = s.rdg := by rfl
@[simp] theorem State.modNode_eng (s : State) (n : Nat) (f : Node → Node) : (s.modNode n f).eng = s.eng := by rfl
@[simp] theorem State.modNode_opt (s : State) (n : Nat) (f : Node → Node) : (s.modNode n f).opt = s.opt := by rfl
@[simp] theorem State.modNode_gel (s : State) (n : Nat) (f : Node → Node) : (s.modNode n f).gel = s.gel := by rfl
@[simp] theorem State.modNode_west (s : State) (n : Nat) (f : Node → Node) : (s.modNode n f).west = s.west := by rfl
@[simp] theorem State.modNode_east (s : State) (n : Nat) (f : Node → Node) : (s.modNode n f).east = s.east := by rfl
@[simp] theorem State.modNode_avl (s : State) (n : Nat) (f : Node → Node) : (s.modNode n f).avl = s.avl := by rfl
@[simp] theorem State.modNode_enc (s : State) (n : Nat) (f : Node → Node) : (s.modNode n f).enc = s.enc := by rfl
@[simp] theorem State.modNode_fuse (s : State) (n : Nat) (f : Node → Node) : (s.modNode n f).fuse = s.fuse := by rfl
@[simp] theorem State.modNode_slt (s : State) (n : Nat) (f : Node → Node) : (s.modNode n f).slt = s.slt := by rfl
@[simp] theorem State.modNode_mgm (s : State) (n : Nat) (f : Node → Node) : (s.modNode n f).mgm = s.mgm := by rfl
@[simp] theorem State.modNode_mon (s : State) (n : Nat) (f : Node → Node) : (s.modNode n f).mon = s.mon := by rfl

@[simp] theorem State.modEng_pending (s : State) (e : Engine) (f : Eng → Eng) : (s.modEng e f).pending = s.pending := by unfold State.modEng; split <;> rfl
@[simp] theorem State.modEng_out (s : State) (e : Engine) (f : Eng → Eng) : (s.modEng e f).out = s.out := by unfold State.modEng; split <;> rfl
@[simp] theorem State.modEng_todo (s : State) (e : Engine) (f : Eng → Eng) : (s.modEng e f).todo = s.todo := by unfold State.modEng; split <;> rfl
@[simp] theorem State.modEng_now (s : State) (e : Engine) (f : Eng → Eng) : (s.modEng e f).now = s.now := by unfold State.modEng; split <;> rfl
@[simp] theorem State.modEng_free (s : State) (e : Engine) (f : Eng → Eng) : (s.modEng e f).free = s.free := by unfold State.modEng; split <;> rfl
@[simp] theorem State.modEng_phase (s : State) (e : Engine) (f : Eng → Eng) : (s.modEng e f).phase = s.phase := by unfold State.modEng; split <;> rfl
@[simp] theorem State.modEng_nodeNum (s : State) (e : Engine) (f : Eng → Eng) : (s.modEng e f).nodeNum = s.nodeNum := by unfold State.modEng; split <;> rfl
@[simp] theorem State.modEng_crs (s : State) (e : Engine) (f : Eng → Eng) : (s.modEng e f).crs = s.crs := by unfold State.modEng; split <;> rfl
@[simp] theorem State.modEng_spc (s : State) (e : Engine) (f : Eng → Eng) : (s.modEng e f).spc = s.spc := by unfold State.modEng; split <;> rfl
@[simp] theorem State.modEng_near (s : State) (e : Engine) (f : Eng → Eng) : (s.modEng e f).near = s.near := by unfold State.modEng; split <;> rfl
@[simp] theorem State.modEng_plc (s : State) (e : Engine) (f : Eng → Eng) : (s.modEng e f).plc = s.plc := by unfold State.modEng; split <;> rfl
@[simp] theorem State.modEng_ylx (s : State) (e : Engine) (f : Eng → Eng) : (s.modEng e f).ylx = s.ylx := by unfold State.modEng; split <;> rfl
@[simp] theorem State.modEng_itg (s : State) (e : Engine) (f : Eng → Eng) : (s.modEng e f).itg = s.itg := by unfold State.modEng; split <;> rfl
@[simp] theorem State.modEng_rdg (s : State) (e : Engine) (f : Eng → Eng) : (s.modEng e f).rdg = s.rdg := by unfold State.modEng; split <;> rfl
@[simp] theorem State.modEng_fab (s : State) (e : Engine) (f : Eng → Eng) : (s.modEng e f).fab = s.fab := by unfold State.modEng; split <;> rfl
@[simp] theorem State.modEng_opt (s : State) (e : Engine) (f : Eng → Eng) : (s.modEng e f).opt = s.opt := by unfold State.modEng; split <;> rfl
@[simp] theorem State.modEng_gel (s : State) (e : Engine) (f : Eng → Eng) : (s.modEng e f).gel = s.gel := by unfold State.modEng; split <;> rfl
@[simp] theorem State.modEng_west (s : State) (e : Engine) (f : Eng → Eng) : (s.modEng e f).west = s.west := by unfold State.modEng; split <;> rfl
@[simp] theorem State.modEng_east (s : State) (e : Engine) (f : Eng → Eng) : (s.modEng e f).east = s.east := by unfold State.modEng; split <;> rfl
@[simp] theorem State.modEng_avl (s : State) (e : Engine) (f : Eng → Eng) : (s.modEng e f).avl = s.avl := by unfold State.modEng; split <;> rfl
@[simp] theorem State.modEng_enc (s : State) (e : Engine) (f : Eng → Eng) : (s.modEng e f).enc = s.enc := by unfold State.modEng; split <;> rfl
@[simp] theorem State.modEng_fuse (s : State) (e : Engine) (f : Eng → Eng) : (s.modEng e f).fuse = s.fuse := by unfold State.modEng; split <;> rfl
@[simp] theorem State.modEng_slt (s : State) (e : Engine) (f : Eng → Eng) : (s.modEng e f).slt = s.slt := by unfold State.modEng; split <;> rfl
@[simp] theorem State.modEng_mgm (s : State) (e : Engine) (f : Eng → Eng) : (s.modEng e f).mgm = s.mgm := by unfold State.modEng; split <;> rfl
@[simp] theorem State.modEng_mon (s : State) (e : Engine) (f : Eng → Eng) : (s.modEng e f).mon = s.mon := by unfold State.modEng; split <;> rfl

@[simp] theorem State.modGeled_pending (s : State) (h : Half) (f : GEnd → GEnd) : (s.modGeled h f).pending = s.pending := by cases h <;> rfl
@[simp] theorem State.modGeled_out (s : State) (h : Half) (f : GEnd → GEnd) : (s.modGeled h f).out = s.out := by cases h <;> rfl
@[simp] theorem State.modGeled_todo (s : State) (h : Half) (f : GEnd → GEnd) : (s.modGeled h f).todo = s.todo := by cases h <;> rfl
@[simp] theorem State.modGeled_now (s : State) (h : Half) (f : GEnd → GEnd) : (s.modGeled h f).now = s.now := by cases h <;> rfl
@[simp] theorem State.modGeled_free (s : State) (h : Half) (f : GEnd → GEnd) : (s.modGeled h f).free = s.free := by cases h <;> rfl
@[simp] theorem State.modGeled_phase (s : State) (h : Half) (f : GEnd → GEnd) : (s.modGeled h f).phase = s.phase := by cases h <;> rfl
@[simp] theorem State.modGeled_nodeNum (s : State) (h : Half) (f : GEnd → GEnd) : (s.modGeled h f).nodeNum = s.nodeNum := by cases h <;> rfl
@[simp] theorem State.modGeled_crs (s : State) (h : Half) (f : GEnd → GEnd) : (s.modGeled h f).crs = s.crs := by cases h <;> rfl
@[simp] theorem State.modGeled_spc (s : State) (h : Half) (f : GEnd → GEnd) : (s.modGeled h f).spc = s.spc := by cases h <;> rfl
@[simp] theorem State.modGeled_near (s : State) (h : Half) (f : GEnd → GEnd) : (s.modGeled h f).near = s.near := by cases h <;> rfl
@[simp] theorem State.modGeled_plc (s : State) (h : Half) (f : GEnd → GEnd) : (s.modGeled h f).plc = s.plc := by cases h <;> rfl
@[simp] theorem State.modGeled_ylx (s : State) (h : Half) (f : GEnd → GEnd) : (s.modGeled h f).ylx = s.ylx := by cases h <;> rfl
@[simp] theorem State.modGeled_itg (s : State) (h : Half) (f : GEnd → GEnd) : (s.modGeled h f).itg = s.itg := by cases h <;> rfl
@[simp] theorem State.modGeled_rdg (s : State) (h : Half) (f : GEnd → GEnd) : (s.modGeled h f).rdg = s.rdg := by cases h <;> rfl
@[simp] theorem State.modGeled_eng (s : State) (h : Half) (f : GEnd → GEnd) : (s.modGeled h f).eng = s.eng := by cases h <;> rfl
@[simp] theorem State.modGeled_fab (s : State) (h : Half) (f : GEnd → GEnd) : (s.modGeled h f).fab = s.fab := by cases h <;> rfl
@[simp] theorem State.modGeled_opt (s : State) (h : Half) (f : GEnd → GEnd) : (s.modGeled h f).opt = s.opt := by cases h <;> rfl
@[simp] theorem State.modGeled_west (s : State) (h : Half) (f : GEnd → GEnd) : (s.modGeled h f).west = s.west := by cases h <;> rfl
@[simp] theorem State.modGeled_east (s : State) (h : Half) (f : GEnd → GEnd) : (s.modGeled h f).east = s.east := by cases h <;> rfl
@[simp] theorem State.modGeled_avl (s : State) (h : Half) (f : GEnd → GEnd) : (s.modGeled h f).avl = s.avl := by cases h <;> rfl
@[simp] theorem State.modGeled_enc (s : State) (h : Half) (f : GEnd → GEnd) : (s.modGeled h f).enc = s.enc := by cases h <;> rfl
@[simp] theorem State.modGeled_fuse (s : State) (h : Half) (f : GEnd → GEnd) : (s.modGeled h f).fuse = s.fuse := by cases h <;> rfl
@[simp] theorem State.modGeled_slt (s : State) (h : Half) (f : GEnd → GEnd) : (s.modGeled h f).slt = s.slt := by cases h <;> rfl
@[simp] theorem State.modGeled_mgm (s : State) (h : Half) (f : GEnd → GEnd) : (s.modGeled h f).mgm = s.mgm := by cases h <;> rfl
@[simp] theorem State.modGeled_mon (s : State) (h : Half) (f : GEnd → GEnd) : (s.modGeled h f).mon = s.mon := by cases h <;> rfl

@[simp] theorem State.modLane_pending (s : State) (n : Nat) (f : Lane → Lane) : (s.modLane n f).pending = s.pending := by rfl
@[simp] theorem State.modLane_out (s : State) (n : Nat) (f : Lane → Lane) : (s.modLane n f).out = s.out := by rfl
@[simp] theorem State.modLane_todo (s : State) (n : Nat) (f : Lane → Lane) : (s.modLane n f).todo = s.todo := by rfl
@[simp] theorem State.modLane_now (s : State) (n : Nat) (f : Lane → Lane) : (s.modLane n f).now = s.now := by rfl
@[simp] theorem State.modLane_free (s : State) (n : Nat) (f : Lane → Lane) : (s.modLane n f).free = s.free := by rfl
@[simp] theorem State.modLane_phase (s : State) (n : Nat) (f : Lane → Lane) : (s.modLane n f).phase = s.phase := by rfl
@[simp] theorem State.modLane_nodeNum (s : State) (n : Nat) (f : Lane → Lane) : (s.modLane n f).nodeNum = s.nodeNum := by rfl
@[simp] theorem State.modLane_crs (s : State) (n : Nat) (f : Lane → Lane) : (s.modLane n f).crs = s.crs := by rfl
@[simp] theorem State.modLane_spc (s : State) (n : Nat) (f : Lane → Lane) : (s.modLane n f).spc = s.spc := by rfl
@[simp] theorem State.modLane_near (s : State) (n : Nat) (f : Lane → Lane) : (s.modLane n f).near = s.near := by rfl
@[simp] theorem State.modLane_plc (s : State) (n : Nat) (f : Lane → Lane) : (s.modLane n f).plc = s.plc := by rfl
@[simp] theorem State.modLane_ylx (s : State) (n : Nat) (f : Lane → Lane) : (s.modLane n f).ylx = s.ylx := by rfl
@[simp] theorem State.modLane_itg (s : State) (n : Nat) (f : Lane → Lane) : (s.modLane n f).itg = s.itg := by rfl
@[simp] theorem State.modLane_rdg (s : State) (n : Nat) (f : Lane → Lane) : (s.modLane n f).rdg = s.rdg := by rfl
@[simp] theorem State.modLane_eng (s : State) (n : Nat) (f : Lane → Lane) : (s.modLane n f).eng = s.eng := by rfl
@[simp] theorem State.modLane_fab (s : State) (n : Nat) (f : Lane → Lane) : (s.modLane n f).fab = s.fab := by rfl
@[simp] theorem State.modLane_gel (s : State) (n : Nat) (f : Lane → Lane) : (s.modLane n f).gel = s.gel := by rfl
@[simp] theorem State.modLane_west (s : State) (n : Nat) (f : Lane → Lane) : (s.modLane n f).west = s.west := by rfl
@[simp] theorem State.modLane_east (s : State) (n : Nat) (f : Lane → Lane) : (s.modLane n f).east = s.east := by rfl
@[simp] theorem State.modLane_avl (s : State) (n : Nat) (f : Lane → Lane) : (s.modLane n f).avl = s.avl := by rfl
@[simp] theorem State.modLane_enc (s : State) (n : Nat) (f : Lane → Lane) : (s.modLane n f).enc = s.enc := by rfl
@[simp] theorem State.modLane_fuse (s : State) (n : Nat) (f : Lane → Lane) : (s.modLane n f).fuse = s.fuse := by rfl
@[simp] theorem State.modLane_slt (s : State) (n : Nat) (f : Lane → Lane) : (s.modLane n f).slt = s.slt := by rfl
@[simp] theorem State.modLane_mgm (s : State) (n : Nat) (f : Lane → Lane) : (s.modLane n f).mgm = s.mgm := by rfl
@[simp] theorem State.modLane_mon (s : State) (n : Nat) (f : Lane → Lane) : (s.modLane n f).mon = s.mon := by rfl

@[simp] theorem State.modModule_pending (s : State) (n : Nat) (f : Module → Module) : (s.modModule n f).pending = s.pending := by rfl
@[simp] theorem State.modModule_out (s : State) (n : Nat) (f : Module → Module) : (s.modModule n f).out = s.out := by rfl
@[simp] theorem State.modModule_todo (s : State) (n : Nat) (f : Module → Module) : (s.modModule n f).todo = s.todo := by rfl
@[simp] theorem State.modModule_now (s : State) (n : Nat) (f : Module → Module) : (s.modModule n f).now = s.now := by rfl
@[simp] theorem State.modModule_free (s : State) (n : Nat) (f : Module → Module) : (s.modModule n f).free = s.free := by rfl
@[simp] theorem State.modModule_phase (s : State) (n : Nat) (f : Module → Module) : (s.modModule n f).phase = s.phase := by rfl
@[simp] theorem State.modModule_nodeNum (s : State) (n : Nat) (f : Module → Module) : (s.modModule n f).nodeNum = s.nodeNum := by rfl
@[simp] theorem State.modModule_crs (s : State) (n : Nat) (f : Module → Module) : (s.modModule n f).crs = s.crs := by rfl
@[simp] theorem State.modModule_spc (s : State) (n : Nat) (f : Module → Module) : (s.modModule n f).spc = s.spc := by rfl
@[simp] theorem State.modModule_near (s : State) (n : Nat) (f : Module → Module) : (s.modModule n f).near = s.near := by rfl
@[simp] theorem State.modModule_plc (s : State) (n : Nat) (f : Module → Module) : (s.modModule n f).plc = s.plc := by rfl
@[simp] theorem State.modModule_ylx (s : State) (n : Nat) (f : Module → Module) : (s.modModule n f).ylx = s.ylx := by rfl
@[simp] theorem State.modModule_itg (s : State) (n : Nat) (f : Module → Module) : (s.modModule n f).itg = s.itg := by rfl
@[simp] theorem State.modModule_rdg (s : State) (n : Nat) (f : Module → Module) : (s.modModule n f).rdg = s.rdg := by rfl
@[simp] theorem State.modModule_eng (s : State) (n : Nat) (f : Module → Module) : (s.modModule n f).eng = s.eng := by rfl
@[simp] theorem State.modModule_fab (s : State) (n : Nat) (f : Module → Module) : (s.modModule n f).fab = s.fab := by rfl
@[simp] theorem State.modModule_gel (s : State) (n : Nat) (f : Module → Module) : (s.modModule n f).gel = s.gel := by rfl
@[simp] theorem State.modModule_west (s : State) (n : Nat) (f : Module → Module) : (s.modModule n f).west = s.west := by rfl
@[simp] theorem State.modModule_east (s : State) (n : Nat) (f : Module → Module) : (s.modModule n f).east = s.east := by rfl
@[simp] theorem State.modModule_avl (s : State) (n : Nat) (f : Module → Module) : (s.modModule n f).avl = s.avl := by rfl
@[simp] theorem State.modModule_enc (s : State) (n : Nat) (f : Module → Module) : (s.modModule n f).enc = s.enc := by rfl
@[simp] theorem State.modModule_fuse (s : State) (n : Nat) (f : Module → Module) : (s.modModule n f).fuse = s.fuse := by rfl
@[simp] theorem State.modModule_slt (s : State) (n : Nat) (f : Module → Module) : (s.modModule n f).slt = s.slt := by rfl
@[simp] theorem State.modModule_mgm (s : State) (n : Nat) (f : Module → Module) : (s.modModule n f).mgm = s.mgm := by rfl
@[simp] theorem State.modModule_mon (s : State) (n : Nat) (f : Module → Module) : (s.modModule n f).mon = s.mon := by rfl

@[simp] theorem State.modStack_pending (s : State) (n : Nat) (f : Stack → Stack) : (s.modStack n f).pending = s.pending := by rfl
@[simp] theorem State.modStack_out (s : State) (n : Nat) (f : Stack → Stack) : (s.modStack n f).out = s.out := by rfl
@[simp] theorem State.modStack_todo (s : State) (n : Nat) (f : Stack → Stack) : (s.modStack n f).todo = s.todo := by rfl
@[simp] theorem State.modStack_now (s : State) (n : Nat) (f : Stack → Stack) : (s.modStack n f).now = s.now := by rfl
@[simp] theorem State.modStack_free (s : State) (n : Nat) (f : Stack → Stack) : (s.modStack n f).free = s.free := by rfl
@[simp] theorem State.modStack_phase (s : State) (n : Nat) (f : Stack → Stack) : (s.modStack n f).phase = s.phase := by rfl
@[simp] theorem State.modStack_nodeNum (s : State) (n : Nat) (f : Stack → Stack) : (s.modStack n f).nodeNum = s.nodeNum := by rfl
@[simp] theorem State.modStack_crs (s : State) (n : Nat) (f : Stack → Stack) : (s.modStack n f).crs = s.crs := by rfl
@[simp] theorem State.modStack_spc (s : State) (n : Nat) (f : Stack → Stack) : (s.modStack n f).spc = s.spc := by rfl
@[simp] theorem State.modStack_plc (s : State) (n : Nat) (f : Stack → Stack) : (s.modStack n f).plc = s.plc := by rfl
@[simp] theorem State.modStack_ylx (s : State) (n : Nat) (f : Stack → Stack) : (s.modStack n f).ylx = s.ylx := by rfl
@[simp] theorem State.modStack_itg (s : State) (n : Nat) (f : Stack → Stack) : (s.modStack n f).itg = s.itg := by rfl
@[simp] theorem State.modStack_rdg (s : State) (n : Nat) (f : Stack → Stack) : (s.modStack n f).rdg = s.rdg := by rfl
@[simp] theorem State.modStack_eng (s : State) (n : Nat) (f : Stack → Stack) : (s.modStack n f).eng = s.eng := by rfl
@[simp] theorem State.modStack_fab (s : State) (n : Nat) (f : Stack → Stack) : (s.modStack n f).fab = s.fab := by rfl
@[simp] theorem State.modStack_opt (s : State) (n : Nat) (f : Stack → Stack) : (s.modStack n f).opt = s.opt := by rfl
@[simp] theorem State.modStack_gel (s : State) (n : Nat) (f : Stack → Stack) : (s.modStack n f).gel = s.gel := by rfl
@[simp] theorem State.modStack_west (s : State) (n : Nat) (f : Stack → Stack) : (s.modStack n f).west = s.west := by rfl
@[simp] theorem State.modStack_east (s : State) (n : Nat) (f : Stack → Stack) : (s.modStack n f).east = s.east := by rfl
@[simp] theorem State.modStack_avl (s : State) (n : Nat) (f : Stack → Stack) : (s.modStack n f).avl = s.avl := by rfl
@[simp] theorem State.modStack_enc (s : State) (n : Nat) (f : Stack → Stack) : (s.modStack n f).enc = s.enc := by rfl
@[simp] theorem State.modStack_fuse (s : State) (n : Nat) (f : Stack → Stack) : (s.modStack n f).fuse = s.fuse := by rfl
@[simp] theorem State.modStack_slt (s : State) (n : Nat) (f : Stack → Stack) : (s.modStack n f).slt = s.slt := by rfl
@[simp] theorem State.modStack_mgm (s : State) (n : Nat) (f : Stack → Stack) : (s.modStack n f).mgm = s.mgm := by rfl
@[simp] theorem State.modStack_mon (s : State) (n : Nat) (f : Stack → Stack) : (s.modStack n f).mon = s.mon := by rfl

@[simp] theorem State.modSlot_pending (s : State) (k : Nat) (f : Slot → Slot) : (s.modSlot k f).pending = s.pending := by rfl
@[simp] theorem State.modSlot_out (s : State) (k : Nat) (f : Slot → Slot) : (s.modSlot k f).out = s.out := by rfl
@[simp] theorem State.modSlot_todo (s : State) (k : Nat) (f : Slot → Slot) : (s.modSlot k f).todo = s.todo := by rfl
@[simp] theorem State.modSlot_now (s : State) (k : Nat) (f : Slot → Slot) : (s.modSlot k f).now = s.now := by rfl
@[simp] theorem State.modSlot_free (s : State) (k : Nat) (f : Slot → Slot) : (s.modSlot k f).free = s.free := by rfl
@[simp] theorem State.modSlot_phase (s : State) (k : Nat) (f : Slot → Slot) : (s.modSlot k f).phase = s.phase := by rfl
@[simp] theorem State.modSlot_nodeNum (s : State) (k : Nat) (f : Slot → Slot) : (s.modSlot k f).nodeNum = s.nodeNum := by rfl
@[simp] theorem State.modSlot_crs (s : State) (k : Nat) (f : Slot → Slot) : (s.modSlot k f).crs = s.crs := by rfl
@[simp] theorem State.modSlot_spc (s : State) (k : Nat) (f : Slot → Slot) : (s.modSlot k f).spc = s.spc := by rfl
@[simp] theorem State.modSlot_near (s : State) (k : Nat) (f : Slot → Slot) : (s.modSlot k f).near = s.near := by rfl
@[simp] theorem State.modSlot_plc (s : State) (k : Nat) (f : Slot → Slot) : (s.modSlot k f).plc = s.plc := by rfl
@[simp] theorem State.modSlot_ylx (s : State) (k : Nat) (f : Slot → Slot) : (s.modSlot k f).ylx = s.ylx := by rfl
@[simp] theorem State.modSlot_itg (s : State) (k : Nat) (f : Slot → Slot) : (s.modSlot k f).itg = s.itg := by rfl
@[simp] theorem State.modSlot_rdg (s : State) (k : Nat) (f : Slot → Slot) : (s.modSlot k f).rdg = s.rdg := by rfl
@[simp] theorem State.modSlot_eng (s : State) (k : Nat) (f : Slot → Slot) : (s.modSlot k f).eng = s.eng := by rfl
@[simp] theorem State.modSlot_fab (s : State) (k : Nat) (f : Slot → Slot) : (s.modSlot k f).fab = s.fab := by rfl
@[simp] theorem State.modSlot_opt (s : State) (k : Nat) (f : Slot → Slot) : (s.modSlot k f).opt = s.opt := by rfl
@[simp] theorem State.modSlot_gel (s : State) (k : Nat) (f : Slot → Slot) : (s.modSlot k f).gel = s.gel := by rfl
@[simp] theorem State.modSlot_west (s : State) (k : Nat) (f : Slot → Slot) : (s.modSlot k f).west = s.west := by rfl
@[simp] theorem State.modSlot_east (s : State) (k : Nat) (f : Slot → Slot) : (s.modSlot k f).east = s.east := by rfl
@[simp] theorem State.modSlot_avl (s : State) (k : Nat) (f : Slot → Slot) : (s.modSlot k f).avl = s.avl := by rfl
@[simp] theorem State.modSlot_fuse (s : State) (k : Nat) (f : Slot → Slot) : (s.modSlot k f).fuse = s.fuse := by rfl
@[simp] theorem State.modSlot_slt (s : State) (k : Nat) (f : Slot → Slot) : (s.modSlot k f).slt = s.slt := by rfl
@[simp] theorem State.modSlot_mgm (s : State) (k : Nat) (f : Slot → Slot) : (s.modSlot k f).mgm = s.mgm := by rfl
@[simp] theorem State.modSlot_mon (s : State) (k : Nat) (f : Slot → Slot) : (s.modSlot k f).mon = s.mon := by rfl

@[simp] theorem State.setMeta_pending (s : State) (b : Nat) (f : Meta → Meta) : (s.setMeta b f).pending = s.pending := by rfl
@[simp] theorem State.setMeta_out (s : State) (b : Nat) (f : Meta → Meta) : (s.setMeta b f).out = s.out := by rfl
@[simp] theorem State.setMeta_todo (s : State) (b : Nat) (f : Meta → Meta) : (s.setMeta b f).todo = s.todo := by rfl
@[simp] theorem State.setMeta_now (s : State) (b : Nat) (f : Meta → Meta) : (s.setMeta b f).now = s.now := by rfl
@[simp] theorem State.setMeta_free (s : State) (b : Nat) (f : Meta → Meta) : (s.setMeta b f).free = s.free := by rfl
@[simp] theorem State.setMeta_phase (s : State) (b : Nat) (f : Meta → Meta) : (s.setMeta b f).phase = s.phase := by rfl
@[simp] theorem State.setMeta_nodeNum (s : State) (b : Nat) (f : Meta → Meta) : (s.setMeta b f).nodeNum = s.nodeNum := by rfl
@[simp] theorem State.setMeta_crs (s : State) (b : Nat) (f : Meta → Meta) : (s.setMeta b f).crs = s.crs := by rfl
@[simp] theorem State.setMeta_spc (s : State) (b : Nat) (f : Meta → Meta) : (s.setMeta b f).spc = s.spc := by rfl
@[simp] theorem State.setMeta_plc (s : State) (b : Nat) (f : Meta → Meta) : (s.setMeta b f).plc = s.plc := by rfl
@[simp] theorem State.setMeta_ylx (s : State) (b : Nat) (f : Meta → Meta) : (s.setMeta b f).ylx = s.ylx := by rfl
@[simp] theorem State.setMeta_itg (s : State) (b : Nat) (f : Meta → Meta) : (s.setMeta b f).itg = s.itg := by rfl
@[simp] theorem State.setMeta_rdg (s : State) (b : Nat) (f : Meta → Meta) : (s.setMeta b f).rdg = s.rdg := by rfl
@[simp] theorem State.setMeta_eng (s : State) (b : Nat) (f : Meta → Meta) : (s.setMeta b f).eng = s.eng := by rfl
@[simp] theorem State.setMeta_fab (s : State) (b : Nat) (f : Meta → Meta) : (s.setMeta b f).fab = s.fab := by rfl
@[simp] theorem State.setMeta_opt (s : State) (b : Nat) (f : Meta → Meta) : (s.setMeta b f).opt = s.opt := by rfl
@[simp] theorem State.setMeta_gel (s : State) (b : Nat) (f : Meta → Meta) : (s.setMeta b f).gel = s.gel := by rfl
@[simp] theorem State.setMeta_west (s : State) (b : Nat) (f : Meta → Meta) : (s.setMeta b f).west = s.west := by rfl
@[simp] theorem State.setMeta_east (s : State) (b : Nat) (f : Meta → Meta) : (s.setMeta b f).east = s.east := by rfl
@[simp] theorem State.setMeta_avl (s : State) (b : Nat) (f : Meta → Meta) : (s.setMeta b f).avl = s.avl := by rfl
@[simp] theorem State.setMeta_enc (s : State) (b : Nat) (f : Meta → Meta) : (s.setMeta b f).enc = s.enc := by rfl
@[simp] theorem State.setMeta_fuse (s : State) (b : Nat) (f : Meta → Meta) : (s.setMeta b f).fuse = s.fuse := by rfl
@[simp] theorem State.setMeta_slt (s : State) (b : Nat) (f : Meta → Meta) : (s.setMeta b f).slt = s.slt := by rfl
@[simp] theorem State.setMeta_mgm (s : State) (b : Nat) (f : Meta → Meta) : (s.setMeta b f).mgm = s.mgm := by rfl
@[simp] theorem State.setMeta_mon (s : State) (b : Nat) (f : Meta → Meta) : (s.setMeta b f).mon = s.mon := by rfl

@[simp] theorem State.storeBytes_pending (s : State) (o : Nat) (bs : Bytes) : (s.storeBytes o bs).pending = s.pending := by rfl
@[simp] theorem State.storeBytes_out (s : State) (o : Nat) (bs : Bytes) : (s.storeBytes o bs).out = s.out := by rfl
@[simp] theorem State.storeBytes_todo (s : State) (o : Nat) (bs : Bytes) : (s.storeBytes o bs).todo = s.todo := by rfl
@[simp] theorem State.storeBytes_now (s : State) (o : Nat) (bs : Bytes) : (s.storeBytes o bs).now = s.now := by rfl
@[simp] theorem State.storeBytes_free (s : State) (o : Nat) (bs : Bytes) : (s.storeBytes o bs).free = s.free := by rfl
@[simp] theorem State.storeBytes_phase (s : State) (o : Nat) (bs : Bytes) : (s.storeBytes o bs).phase = s.phase := by rfl
@[simp] theorem State.storeBytes_nodeNum (s : State) (o : Nat) (bs : Bytes) : (s.storeBytes o bs).nodeNum = s.nodeNum := by rfl
@[simp] theorem State.storeBytes_crs (s : State) (o : Nat) (bs : Bytes) : (s.storeBytes o bs).crs = s.crs := by rfl
@[simp] theorem State.storeBytes_spc (s : State) (o : Nat) (bs : Bytes) : (s.storeBytes o bs).spc = s.spc := by rfl
@[simp] theorem State.storeBytes_plc (s : State) (o : Nat) (bs : Bytes) : (s.storeBytes o bs).plc = s.plc := by rfl
@[simp] theorem State.storeBytes_ylx (s : State) (o : Nat) (bs : Bytes) : (s.storeBytes o bs).ylx = s.ylx := by rfl
@[simp] theorem State.storeBytes_itg (s : State) (o : Nat) (bs : Bytes) : (s.storeBytes o bs).itg = s.itg := by rfl
@[simp] theorem State.storeBytes_rdg (s : State) (o : Nat) (bs : Bytes) : (s.storeBytes o bs).rdg = s.rdg := by rfl
@[simp] theorem State.storeBytes_eng (s : State) (o : Nat) (bs : Bytes) : (s.storeBytes o bs).eng = s.eng := by rfl
@[simp] theorem State.storeBytes_fab (s : State) (o : Nat) (bs : Bytes) : (s.storeBytes o bs).fab = s.fab := by rfl
@[simp] theorem State.storeBytes_opt (s : State) (o : Nat) (bs : Bytes) : (s.storeBytes o bs).opt = s.opt := by rfl
@[simp] theorem State.storeBytes_gel (s : State) (o : Nat) (bs : Bytes) : (s.storeBytes o bs).gel = s.gel := by rfl
@[simp] theorem State.storeBytes_west (s : State) (o : Nat) (bs : Bytes) : (s.storeBytes o bs).west = s.west := by rfl
@[simp] theorem State.storeBytes_east (s : State) (o : Nat) (bs : Bytes) : (s.storeBytes o bs).east = s.east := by rfl
@[simp] theorem State.storeBytes_avl (s : State) (o : Nat) (bs : Bytes) : (s.storeBytes o bs).avl = s.avl := by rfl
@[simp] theorem State.storeBytes_enc (s : State) (o : Nat) (bs : Bytes) : (s.storeBytes o bs).enc = s.enc := by rfl
@[simp] theorem State.storeBytes_fuse (s : State) (o : Nat) (bs : Bytes) : (s.storeBytes o bs).fuse = s.fuse := by rfl
@[simp] theorem State.storeBytes_slt (s : State) (o : Nat) (bs : Bytes) : (s.storeBytes o bs).slt = s.slt := by rfl
@[simp] theorem State.storeBytes_mgm (s : State) (o : Nat) (bs : Bytes) : (s.storeBytes o bs).mgm = s.mgm := by rfl
@[simp] theorem State.storeBytes_mon (s : State) (o : Nat) (bs : Bytes) : (s.storeBytes o bs).mon = s.mon := by rfl

@[simp] theorem State.modLink_pending (s : State) (l : Link) (f : LinkSt → LinkSt) : (s.modLink l f).pending = s.pending := by
  rcases l with p | h
  · rfl
  · cases h <;> rfl
@[simp] theorem State.modLink_out (s : State) (l : Link) (f : LinkSt → LinkSt) : (s.modLink l f).out = s.out := by
  rcases l with p | h
  · rfl
  · cases h <;> rfl
@[simp] theorem State.modLink_todo (s : State) (l : Link) (f : LinkSt → LinkSt) : (s.modLink l f).todo = s.todo := by
  rcases l with p | h
  · rfl
  · cases h <;> rfl
@[simp] theorem State.modLink_now (s : State) (l : Link) (f : LinkSt → LinkSt) : (s.modLink l f).now = s.now := by
  rcases l with p | h
  · rfl
  · cases h <;> rfl
@[simp] theorem State.modLink_free (s : State) (l : Link) (f : LinkSt → LinkSt) : (s.modLink l f).free = s.free := by
  rcases l with p | h
  · rfl
  · cases h <;> rfl
@[simp] theorem State.modLink_phase (s : State) (l : Link) (f : LinkSt → LinkSt) : (s.modLink l f).phase = s.phase := by
  rcases l with p | h
  · rfl
  · cases h <;> rfl
@[simp] theorem State.modLink_nodeNum (s : State) (l : Link) (f : LinkSt → LinkSt) : (s.modLink l f).nodeNum = s.nodeNum := by
  rcases l with p | h
  · rfl
  · cases h <;> rfl
@[simp] theorem State.modLink_crs (s : State) (l : Link) (f : LinkSt → LinkSt) : (s.modLink l f).crs = s.crs := by
  rcases l with p | h
  · rfl
  · cases h <;> rfl
@[simp] theorem State.modLink_spc (s : State) (l : Link) (f : LinkSt → LinkSt) : (s.modLink l f).spc = s.spc := by
  rcases l with p | h
  · rfl
  · cases h <;> rfl
@[simp] theorem State.modLink_near (s : State) (l : Link) (f : LinkSt → LinkSt) : (s.modLink l f).near = s.near := by
  rcases l with p | h
  · rfl
  · cases h <;> rfl
@[simp] theorem State.modLink_plc (s : State) (l : Link) (f : LinkSt → LinkSt) : (s.modLink l f).plc = s.plc := by
  rcases l with p | h
  · rfl
  · cases h <;> rfl
@[simp] theorem State.modLink_ylx (s : State) (l : Link) (f : LinkSt → LinkSt) : (s.modLink l f).ylx = s.ylx := by
  rcases l with p | h
  · rfl
  · cases h <;> rfl
@[simp] theorem State.modLink_itg (s : State) (l : Link) (f : LinkSt → LinkSt) : (s.modLink l f).itg = s.itg := by
  rcases l with p | h
  · rfl
  · cases h <;> rfl
@[simp] theorem State.modLink_rdg (s : State) (l : Link) (f : LinkSt → LinkSt) : (s.modLink l f).rdg = s.rdg := by
  rcases l with p | h
  · rfl
  · cases h <;> rfl
@[simp] theorem State.modLink_eng (s : State) (l : Link) (f : LinkSt → LinkSt) : (s.modLink l f).eng = s.eng := by
  rcases l with p | h
  · rfl
  · cases h <;> rfl
@[simp] theorem State.modLink_opt (s : State) (l : Link) (f : LinkSt → LinkSt) : (s.modLink l f).opt = s.opt := by
  rcases l with p | h
  · rfl
  · cases h <;> rfl
@[simp] theorem State.modLink_west (s : State) (l : Link) (f : LinkSt → LinkSt) : (s.modLink l f).west = s.west := by
  rcases l with p | h
  · rfl
  · cases h <;> rfl
@[simp] theorem State.modLink_east (s : State) (l : Link) (f : LinkSt → LinkSt) : (s.modLink l f).east = s.east := by
  rcases l with p | h
  · rfl
  · cases h <;> rfl
@[simp] theorem State.modLink_avl (s : State) (l : Link) (f : LinkSt → LinkSt) : (s.modLink l f).avl = s.avl := by
  rcases l with p | h
  · rfl
  · cases h <;> rfl
@[simp] theorem State.modLink_enc (s : State) (l : Link) (f : LinkSt → LinkSt) : (s.modLink l f).enc = s.enc := by
  rcases l with p | h
  · rfl
  · cases h <;> rfl
@[simp] theorem State.modLink_fuse (s : State) (l : Link) (f : LinkSt → LinkSt) : (s.modLink l f).fuse = s.fuse := by
  rcases l with p | h
  · rfl
  · cases h <;> rfl
@[simp] theorem State.modLink_slt (s : State) (l : Link) (f : LinkSt → LinkSt) : (s.modLink l f).slt = s.slt := by
  rcases l with p | h
  · rfl
  · cases h <;> rfl
@[simp] theorem State.modLink_mgm (s : State) (l : Link) (f : LinkSt → LinkSt) : (s.modLink l f).mgm = s.mgm := by
  rcases l with p | h
  · rfl
  · cases h <;> rfl
@[simp] theorem State.modLink_mon (s : State) (l : Link) (f : LinkSt → LinkSt) : (s.modLink l f).mon = s.mon := by
  rcases l with p | h
  · rfl
  · cases h <;> rfl

@[simp] theorem State.gutter_pending (s : State) (h : Half) (a b c d sev fl sc ga cx j cn : Nat) (dt : Bytes) : (s.gutter h a b c d sev fl sc ga cx j cn dt).pending = s.pending := by
  simp only [State.gutter, State.announceRecord]
  cases h <;> split <;> (try split) <;> rfl
@[simp] theorem State.gutter_todo (s : State) (h : Half) (a b c d sev fl sc ga cx j cn : Nat) (dt : Bytes) : (s.gutter h a b c d sev fl sc ga cx j cn dt).todo = s.todo := by
  simp only [State.gutter, State.announceRecord]
  cases h <;> split <;> (try split) <;> rfl
@[simp] theorem State.gutter_now (s : State) (h : Half) (a b c d sev fl sc ga cx j cn : Nat) (dt : Bytes) : (s.gutter h a b c d sev fl sc ga cx j cn dt).now = s.now := by
  simp only [State.gutter, State.announceRecord]
  cases h <;> split <;> (try split) <;> rfl
@[simp] theorem State.gutter_free (s : State) (h : Half) (a b c d sev fl sc ga cx j cn : Nat) (dt : Bytes) : (s.gutter h a b c d sev fl sc ga cx j cn dt).free = s.free := by
  simp only [State.gutter, State.announceRecord]
  cases h <;> split <;> (try split) <;> rfl
@[simp] theorem State.gutter_phase (s : State) (h : Half) (a b c d sev fl sc ga cx j cn : Nat) (dt : Bytes) : (s.gutter h a b c d sev fl sc ga cx j cn dt).phase = s.phase := by
  simp only [State.gutter, State.announceRecord]
  cases h <;> split <;> (try split) <;> rfl
@[simp] theorem State.gutter_nodeNum (s : State) (h : Half) (a b c d sev fl sc ga cx j cn : Nat) (dt : Bytes) : (s.gutter h a b c d sev fl sc ga cx j cn dt).nodeNum = s.nodeNum := by
  simp only [State.gutter, State.announceRecord]
  cases h <;> split <;> (try split) <;> rfl
@[simp] theorem State.gutter_crs (s : State) (h : Half) (a b c d sev fl sc ga cx j cn : Nat) (dt : Bytes) : (s.gutter h a b c d sev fl sc ga cx j cn dt).crs = s.crs := by
  simp only [State.gutter, State.announceRecord]
  cases h <;> split <;> (try split) <;> rfl
@[simp] theorem State.gutter_spc (s : State) (h : Half) (a b c d sev fl sc ga cx j cn : Nat) (dt : Bytes) : (s.gutter h a b c d sev fl sc ga cx j cn dt).spc = s.spc := by
  simp only [State.gutter, State.announceRecord]
  cases h <;> split <;> (try split) <;> rfl
@[simp] theorem State.gutter_near (s : State) (h : Half) (a b c d sev fl sc ga cx j cn : Nat) (dt : Bytes) : (s.gutter h a b c d sev fl sc ga cx j cn dt).near = s.near := by
  simp only [State.gutter, State.announceRecord]
  cases h <;> split <;> (try split) <;> rfl
@[simp] theorem State.gutter_plc (s : State) (h : Half) (a b c d sev fl sc ga cx j cn : Nat) (dt : Bytes) : (s.gutter h a b c d sev fl sc ga cx j cn dt).plc = s.plc := by
  simp only [State.gutter, State.announceRecord]
  cases h <;> split <;> (try split) <;> rfl
@[simp] theorem State.gutter_ylx (s : State) (h : Half) (a b c d sev fl sc ga cx j cn : Nat) (dt : Bytes) : (s.gutter h a b c d sev fl sc ga cx j cn dt).ylx = s.ylx := by
  simp only [State.gutter, State.announceRecord]
  cases h <;> split <;> (try split) <;> rfl
@[simp] theorem State.gutter_itg (s : State) (h : Half) (a b c d sev fl sc ga cx j cn : Nat) (dt : Bytes) : (s.gutter h a b c d sev fl sc ga cx j cn dt).itg = s.itg := by
  simp only [State.gutter, State.announceRecord]
  cases h <;> split <;> (try split) <;> rfl
@[simp] theorem State.gutter_rdg (s : State) (h : Half) (a b c d sev fl sc ga cx j cn : Nat) (dt : Bytes) : (s.gutter h a b c d sev fl sc ga cx j cn dt).rdg = s.rdg := by
  simp only [State.gutter, State.announceRecord]
  cases h <;> split <;> (try split) <;> rfl
@[simp] theorem State.gutter_eng (s : State) (h : Half) (a b c d sev fl sc ga cx j cn : Nat) (dt : Bytes) : (s.gutter h a b c d sev fl sc ga cx j cn dt).eng = s.eng := by
  simp only [State.gutter, State.announceRecord]
  cases h <;> split <;> (try split) <;> rfl
@[simp] theorem State.gutter_fab (s : State) (h : Half) (a b c d sev fl sc ga cx j cn : Nat) (dt : Bytes) : (s.gutter h a b c d sev fl sc ga cx j cn dt).fab = s.fab := by
  simp only [State.gutter, State.announceRecord]
  cases h <;> split <;> (try split) <;> rfl
@[simp] theorem State.gutter_opt (s : State) (h : Half) (a b c d sev fl sc ga cx j cn : Nat) (dt : Bytes) : (s.gutter h a b c d sev fl sc ga cx j cn dt).opt = s.opt := by
  simp only [State.gutter, State.announceRecord]
  cases h <;> split <;> (try split) <;> rfl
@[simp] theorem State.gutter_gel (s : State) (h : Half) (a b c d sev fl sc ga cx j cn : Nat) (dt : Bytes) : (s.gutter h a b c d sev fl sc ga cx j cn dt).gel = s.gel := by
  simp only [State.gutter, State.announceRecord]
  cases h <;> split <;> (try split) <;> rfl
@[simp] theorem State.gutter_avl (s : State) (h : Half) (a b c d sev fl sc ga cx j cn : Nat) (dt : Bytes) : (s.gutter h a b c d sev fl sc ga cx j cn dt).avl = s.avl := by
  simp only [State.gutter, State.announceRecord]
  cases h <;> split <;> (try split) <;> rfl
@[simp] theorem State.gutter_enc (s : State) (h : Half) (a b c d sev fl sc ga cx j cn : Nat) (dt : Bytes) : (s.gutter h a b c d sev fl sc ga cx j cn dt).enc = s.enc := by
  simp only [State.gutter, State.announceRecord]
  cases h <;> split <;> (try split) <;> rfl
@[simp] theorem State.gutter_fuse (s : State) (h : Half) (a b c d sev fl sc ga cx j cn : Nat) (dt : Bytes) : (s.gutter h a b c d sev fl sc ga cx j cn dt).fuse = s.fuse := by
  simp only [State.gutter, State.announceRecord]
  cases h <;> split <;> (try split) <;> rfl
@[simp] theorem State.gutter_slt (s : State) (h : Half) (a b c d sev fl sc ga cx j cn : Nat) (dt : Bytes) : (s.gutter h a b c d sev fl sc ga cx j cn dt).slt = s.slt := by
  simp only [State.gutter, State.announceRecord]
  cases h <;> split <;> (try split) <;> rfl
@[simp] theorem State.gutter_mon (s : State) (h : Half) (a b c d sev fl sc ga cx j cn : Nat) (dt : Bytes) : (s.gutter h a b c d sev fl sc ga cx j cn dt).mon = s.mon := by
  simp only [State.gutter, State.announceRecord]
  cases h <;> split <;> (try split) <;> rfl

/-! Counting and noting an event touch one field of a half. -/

@[simp] theorem State.count_west_course (s : State) (h : Half) (i j n : Nat) : (s.count h i j n).west.course = s.west.course := by cases h <;> rfl
@[simp] theorem State.count_west_armed (s : State) (h : Half) (i j n : Nat) : (s.count h i j n).west.armed = s.west.armed := by cases h <;> rfl
@[simp] theorem State.count_west_events (s : State) (h : Half) (i j n : Nat) : (s.count h i j n).west.events = s.west.events := by cases h <;> rfl
@[simp] theorem State.count_west_unacked (s : State) (h : Half) (i j n : Nat) : (s.count h i j n).west.unacked = s.west.unacked := by cases h <;> rfl
@[simp] theorem State.count_west_slate (s : State) (h : Half) (i j n : Nat) : (s.count h i j n).west.slate = s.west.slate := by cases h <;> rfl
@[simp] theorem State.count_west_dir (s : State) (h : Half) (i j n : Nat) : (s.count h i j n).west.dir = s.west.dir := by cases h <;> rfl
@[simp] theorem State.count_west_pend (s : State) (h : Half) (i j n : Nat) : (s.count h i j n).west.pend = s.west.pend := by cases h <;> rfl
@[simp] theorem State.count_west_recalls (s : State) (h : Half) (i j n : Nat) : (s.count h i j n).west.recalls = s.west.recalls := by cases h <;> rfl
@[simp] theorem State.count_west_aged (s : State) (h : Half) (i j n : Nat) : (s.count h i j n).west.aged = s.west.aged := by cases h <;> rfl
@[simp] theorem State.count_west_retried (s : State) (h : Half) (i j n : Nat) : (s.count h i j n).west.retried = s.west.retried := by cases h <;> rfl
@[simp] theorem State.count_west_held (s : State) (h : Half) (i j n : Nat) : (s.count h i j n).west.held = s.west.held := by cases h <;> rfl
@[simp] theorem State.count_west_caps (s : State) (h : Half) (i j n : Nat) : (s.count h i j n).west.caps = s.west.caps := by cases h <;> rfl
@[simp] theorem State.count_west_mismatches (s : State) (h : Half) (i j n : Nat) : (s.count h i j n).west.mismatches = s.west.mismatches := by cases h <;> rfl
@[simp] theorem State.count_west_staged (s : State) (h : Half) (i j n : Nat) : (s.count h i j n).west.staged = s.west.staged := by cases h <;> rfl
@[simp] theorem State.count_west_tlb (s : State) (h : Half) (i j n : Nat) : (s.count h i j n).west.tlb = s.west.tlb := by cases h <;> rfl
@[simp] theorem State.count_west_unitTlb (s : State) (h : Half) (i j n : Nat) : (s.count h i j n).west.unitTlb = s.west.unitTlb := by cases h <;> rfl
@[simp] theorem State.count_west_walkCache (s : State) (h : Half) (i j n : Nat) : (s.count h i j n).west.walkCache = s.west.walkCache := by cases h <;> rfl
@[simp] theorem State.count_west_redirects (s : State) (h : Half) (i j n : Nat) : (s.count h i j n).west.redirects = s.west.redirects := by cases h <;> rfl
@[simp] theorem State.count_west_leaseHolder (s : State) (h : Half) (i j n : Nat) : (s.count h i j n).west.leaseHolder = s.west.leaseHolder := by cases h <;> rfl
@[simp] theorem State.count_west_leaseSeq (s : State) (h : Half) (i j n : Nat) : (s.count h i j n).west.leaseSeq = s.west.leaseSeq := by cases h <;> rfl
@[simp] theorem State.count_west_leaseCourse (s : State) (h : Half) (i j n : Nat) : (s.count h i j n).west.leaseCourse = s.west.leaseCourse := by cases h <;> rfl
@[simp] theorem State.count_west_running (s : State) (h : Half) (i j n : Nat) : (s.count h i j n).west.running = s.west.running := by cases h <;> rfl
@[simp] theorem State.count_west_ctlMem (s : State) (h : Half) (i j n : Nat) : (s.count h i j n).west.ctlMem = s.west.ctlMem := by cases h <;> rfl
@[simp] theorem State.count_west_regs (s : State) (h : Half) (i j n : Nat) : (s.count h i j n).west.regs = s.west.regs := by cases h <;> rfl
@[simp] theorem State.count_east_course (s : State) (h : Half) (i j n : Nat) : (s.count h i j n).east.course = s.east.course := by cases h <;> rfl
@[simp] theorem State.count_east_armed (s : State) (h : Half) (i j n : Nat) : (s.count h i j n).east.armed = s.east.armed := by cases h <;> rfl
@[simp] theorem State.count_east_events (s : State) (h : Half) (i j n : Nat) : (s.count h i j n).east.events = s.east.events := by cases h <;> rfl
@[simp] theorem State.count_east_unacked (s : State) (h : Half) (i j n : Nat) : (s.count h i j n).east.unacked = s.east.unacked := by cases h <;> rfl
@[simp] theorem State.count_east_slate (s : State) (h : Half) (i j n : Nat) : (s.count h i j n).east.slate = s.east.slate := by cases h <;> rfl
@[simp] theorem State.count_east_dir (s : State) (h : Half) (i j n : Nat) : (s.count h i j n).east.dir = s.east.dir := by cases h <;> rfl
@[simp] theorem State.count_east_pend (s : State) (h : Half) (i j n : Nat) : (s.count h i j n).east.pend = s.east.pend := by cases h <;> rfl
@[simp] theorem State.count_east_recalls (s : State) (h : Half) (i j n : Nat) : (s.count h i j n).east.recalls = s.east.recalls := by cases h <;> rfl
@[simp] theorem State.count_east_aged (s : State) (h : Half) (i j n : Nat) : (s.count h i j n).east.aged = s.east.aged := by cases h <;> rfl
@[simp] theorem State.count_east_retried (s : State) (h : Half) (i j n : Nat) : (s.count h i j n).east.retried = s.east.retried := by cases h <;> rfl
@[simp] theorem State.count_east_held (s : State) (h : Half) (i j n : Nat) : (s.count h i j n).east.held = s.east.held := by cases h <;> rfl
@[simp] theorem State.count_east_caps (s : State) (h : Half) (i j n : Nat) : (s.count h i j n).east.caps = s.east.caps := by cases h <;> rfl
@[simp] theorem State.count_east_mismatches (s : State) (h : Half) (i j n : Nat) : (s.count h i j n).east.mismatches = s.east.mismatches := by cases h <;> rfl
@[simp] theorem State.count_east_staged (s : State) (h : Half) (i j n : Nat) : (s.count h i j n).east.staged = s.east.staged := by cases h <;> rfl
@[simp] theorem State.count_east_tlb (s : State) (h : Half) (i j n : Nat) : (s.count h i j n).east.tlb = s.east.tlb := by cases h <;> rfl
@[simp] theorem State.count_east_unitTlb (s : State) (h : Half) (i j n : Nat) : (s.count h i j n).east.unitTlb = s.east.unitTlb := by cases h <;> rfl
@[simp] theorem State.count_east_walkCache (s : State) (h : Half) (i j n : Nat) : (s.count h i j n).east.walkCache = s.east.walkCache := by cases h <;> rfl
@[simp] theorem State.count_east_redirects (s : State) (h : Half) (i j n : Nat) : (s.count h i j n).east.redirects = s.east.redirects := by cases h <;> rfl
@[simp] theorem State.count_east_leaseHolder (s : State) (h : Half) (i j n : Nat) : (s.count h i j n).east.leaseHolder = s.east.leaseHolder := by cases h <;> rfl
@[simp] theorem State.count_east_leaseSeq (s : State) (h : Half) (i j n : Nat) : (s.count h i j n).east.leaseSeq = s.east.leaseSeq := by cases h <;> rfl
@[simp] theorem State.count_east_leaseCourse (s : State) (h : Half) (i j n : Nat) : (s.count h i j n).east.leaseCourse = s.east.leaseCourse := by cases h <;> rfl
@[simp] theorem State.count_east_running (s : State) (h : Half) (i j n : Nat) : (s.count h i j n).east.running = s.east.running := by cases h <;> rfl
@[simp] theorem State.count_east_ctlMem (s : State) (h : Half) (i j n : Nat) : (s.count h i j n).east.ctlMem = s.east.ctlMem := by cases h <;> rfl
@[simp] theorem State.count_east_regs (s : State) (h : Half) (i j n : Nat) : (s.count h i j n).east.regs = s.east.regs := by cases h <;> rfl
@[simp] theorem State.count_holder (s : State) (h : Half) (i j n : Nat) : (s.count h i j n).holder = s.holder := by simp [State.holder]
@[simp] theorem State.setCount_west_course (s : State) (h : Half) (i j n : Nat) : (s.setCount h i j n).west.course = s.west.course := by cases h <;> rfl
@[simp] theorem State.setCount_west_armed (s : State) (h : Half) (i j n : Nat) : (s.setCount h i j n).west.armed = s.west.armed := by cases h <;> rfl
@[simp] theorem State.setCount_west_events (s : State) (h : Half) (i j n : Nat) : (s.setCount h i j n).west.events = s.west.events := by cases h <;> rfl
@[simp] theorem State.setCount_west_unacked (s : State) (h : Half) (i j n : Nat) : (s.setCount h i j n).west.unacked = s.west.unacked := by cases h <;> rfl
@[simp] theorem State.setCount_west_slate (s : State) (h : Half) (i j n : Nat) : (s.setCount h i j n).west.slate = s.west.slate := by cases h <;> rfl
@[simp] theorem State.setCount_west_dir (s : State) (h : Half) (i j n : Nat) : (s.setCount h i j n).west.dir = s.west.dir := by cases h <;> rfl
@[simp] theorem State.setCount_west_pend (s : State) (h : Half) (i j n : Nat) : (s.setCount h i j n).west.pend = s.west.pend := by cases h <;> rfl
@[simp] theorem State.setCount_west_recalls (s : State) (h : Half) (i j n : Nat) : (s.setCount h i j n).west.recalls = s.west.recalls := by cases h <;> rfl
@[simp] theorem State.setCount_west_aged (s : State) (h : Half) (i j n : Nat) : (s.setCount h i j n).west.aged = s.west.aged := by cases h <;> rfl
@[simp] theorem State.setCount_west_retried (s : State) (h : Half) (i j n : Nat) : (s.setCount h i j n).west.retried = s.west.retried := by cases h <;> rfl
@[simp] theorem State.setCount_west_held (s : State) (h : Half) (i j n : Nat) : (s.setCount h i j n).west.held = s.west.held := by cases h <;> rfl
@[simp] theorem State.setCount_west_caps (s : State) (h : Half) (i j n : Nat) : (s.setCount h i j n).west.caps = s.west.caps := by cases h <;> rfl
@[simp] theorem State.setCount_west_mismatches (s : State) (h : Half) (i j n : Nat) : (s.setCount h i j n).west.mismatches = s.west.mismatches := by cases h <;> rfl
@[simp] theorem State.setCount_west_staged (s : State) (h : Half) (i j n : Nat) : (s.setCount h i j n).west.staged = s.west.staged := by cases h <;> rfl
@[simp] theorem State.setCount_west_tlb (s : State) (h : Half) (i j n : Nat) : (s.setCount h i j n).west.tlb = s.west.tlb := by cases h <;> rfl
@[simp] theorem State.setCount_west_unitTlb (s : State) (h : Half) (i j n : Nat) : (s.setCount h i j n).west.unitTlb = s.west.unitTlb := by cases h <;> rfl
@[simp] theorem State.setCount_west_walkCache (s : State) (h : Half) (i j n : Nat) : (s.setCount h i j n).west.walkCache = s.west.walkCache := by cases h <;> rfl
@[simp] theorem State.setCount_west_redirects (s : State) (h : Half) (i j n : Nat) : (s.setCount h i j n).west.redirects = s.west.redirects := by cases h <;> rfl
@[simp] theorem State.setCount_west_leaseHolder (s : State) (h : Half) (i j n : Nat) : (s.setCount h i j n).west.leaseHolder = s.west.leaseHolder := by cases h <;> rfl
@[simp] theorem State.setCount_west_leaseSeq (s : State) (h : Half) (i j n : Nat) : (s.setCount h i j n).west.leaseSeq = s.west.leaseSeq := by cases h <;> rfl
@[simp] theorem State.setCount_west_leaseCourse (s : State) (h : Half) (i j n : Nat) : (s.setCount h i j n).west.leaseCourse = s.west.leaseCourse := by cases h <;> rfl
@[simp] theorem State.setCount_west_running (s : State) (h : Half) (i j n : Nat) : (s.setCount h i j n).west.running = s.west.running := by cases h <;> rfl
@[simp] theorem State.setCount_west_ctlMem (s : State) (h : Half) (i j n : Nat) : (s.setCount h i j n).west.ctlMem = s.west.ctlMem := by cases h <;> rfl
@[simp] theorem State.setCount_west_regs (s : State) (h : Half) (i j n : Nat) : (s.setCount h i j n).west.regs = s.west.regs := by cases h <;> rfl
@[simp] theorem State.setCount_east_course (s : State) (h : Half) (i j n : Nat) : (s.setCount h i j n).east.course = s.east.course := by cases h <;> rfl
@[simp] theorem State.setCount_east_armed (s : State) (h : Half) (i j n : Nat) : (s.setCount h i j n).east.armed = s.east.armed := by cases h <;> rfl
@[simp] theorem State.setCount_east_events (s : State) (h : Half) (i j n : Nat) : (s.setCount h i j n).east.events = s.east.events := by cases h <;> rfl
@[simp] theorem State.setCount_east_unacked (s : State) (h : Half) (i j n : Nat) : (s.setCount h i j n).east.unacked = s.east.unacked := by cases h <;> rfl
@[simp] theorem State.setCount_east_slate (s : State) (h : Half) (i j n : Nat) : (s.setCount h i j n).east.slate = s.east.slate := by cases h <;> rfl
@[simp] theorem State.setCount_east_dir (s : State) (h : Half) (i j n : Nat) : (s.setCount h i j n).east.dir = s.east.dir := by cases h <;> rfl
@[simp] theorem State.setCount_east_pend (s : State) (h : Half) (i j n : Nat) : (s.setCount h i j n).east.pend = s.east.pend := by cases h <;> rfl
@[simp] theorem State.setCount_east_recalls (s : State) (h : Half) (i j n : Nat) : (s.setCount h i j n).east.recalls = s.east.recalls := by cases h <;> rfl
@[simp] theorem State.setCount_east_aged (s : State) (h : Half) (i j n : Nat) : (s.setCount h i j n).east.aged = s.east.aged := by cases h <;> rfl
@[simp] theorem State.setCount_east_retried (s : State) (h : Half) (i j n : Nat) : (s.setCount h i j n).east.retried = s.east.retried := by cases h <;> rfl
@[simp] theorem State.setCount_east_held (s : State) (h : Half) (i j n : Nat) : (s.setCount h i j n).east.held = s.east.held := by cases h <;> rfl
@[simp] theorem State.setCount_east_caps (s : State) (h : Half) (i j n : Nat) : (s.setCount h i j n).east.caps = s.east.caps := by cases h <;> rfl
@[simp] theorem State.setCount_east_mismatches (s : State) (h : Half) (i j n : Nat) : (s.setCount h i j n).east.mismatches = s.east.mismatches := by cases h <;> rfl
@[simp] theorem State.setCount_east_staged (s : State) (h : Half) (i j n : Nat) : (s.setCount h i j n).east.staged = s.east.staged := by cases h <;> rfl
@[simp] theorem State.setCount_east_tlb (s : State) (h : Half) (i j n : Nat) : (s.setCount h i j n).east.tlb = s.east.tlb := by cases h <;> rfl
@[simp] theorem State.setCount_east_unitTlb (s : State) (h : Half) (i j n : Nat) : (s.setCount h i j n).east.unitTlb = s.east.unitTlb := by cases h <;> rfl
@[simp] theorem State.setCount_east_walkCache (s : State) (h : Half) (i j n : Nat) : (s.setCount h i j n).east.walkCache = s.east.walkCache := by cases h <;> rfl
@[simp] theorem State.setCount_east_redirects (s : State) (h : Half) (i j n : Nat) : (s.setCount h i j n).east.redirects = s.east.redirects := by cases h <;> rfl
@[simp] theorem State.setCount_east_leaseHolder (s : State) (h : Half) (i j n : Nat) : (s.setCount h i j n).east.leaseHolder = s.east.leaseHolder := by cases h <;> rfl
@[simp] theorem State.setCount_east_leaseSeq (s : State) (h : Half) (i j n : Nat) : (s.setCount h i j n).east.leaseSeq = s.east.leaseSeq := by cases h <;> rfl
@[simp] theorem State.setCount_east_leaseCourse (s : State) (h : Half) (i j n : Nat) : (s.setCount h i j n).east.leaseCourse = s.east.leaseCourse := by cases h <;> rfl
@[simp] theorem State.setCount_east_running (s : State) (h : Half) (i j n : Nat) : (s.setCount h i j n).east.running = s.east.running := by cases h <;> rfl
@[simp] theorem State.setCount_east_ctlMem (s : State) (h : Half) (i j n : Nat) : (s.setCount h i j n).east.ctlMem = s.east.ctlMem := by cases h <;> rfl
@[simp] theorem State.setCount_east_regs (s : State) (h : Half) (i j n : Nat) : (s.setCount h i j n).east.regs = s.east.regs := by cases h <;> rfl
@[simp] theorem State.setCount_holder (s : State) (h : Half) (i j n : Nat) : (s.setCount h i j n).holder = s.holder := by simp [State.holder]
@[simp] theorem State.raiseEvt_west_course (s : State) (h : Half) (b : Nat) : (s.raiseEvt h b).west.course = s.west.course := by cases h <;> rfl
@[simp] theorem State.raiseEvt_west_armed (s : State) (h : Half) (b : Nat) : (s.raiseEvt h b).west.armed = s.west.armed := by cases h <;> rfl
@[simp] theorem State.raiseEvt_west_events (s : State) (h : Half) (b : Nat) : (s.raiseEvt h b).west.events = s.west.events := by cases h <;> rfl
@[simp] theorem State.raiseEvt_west_unacked (s : State) (h : Half) (b : Nat) : (s.raiseEvt h b).west.unacked = s.west.unacked := by cases h <;> rfl
@[simp] theorem State.raiseEvt_west_slate (s : State) (h : Half) (b : Nat) : (s.raiseEvt h b).west.slate = s.west.slate := by cases h <;> rfl
@[simp] theorem State.raiseEvt_west_counts (s : State) (h : Half) (b : Nat) : (s.raiseEvt h b).west.counts = s.west.counts := by cases h <;> rfl
@[simp] theorem State.raiseEvt_west_dir (s : State) (h : Half) (b : Nat) : (s.raiseEvt h b).west.dir = s.west.dir := by cases h <;> rfl
@[simp] theorem State.raiseEvt_west_pend (s : State) (h : Half) (b : Nat) : (s.raiseEvt h b).west.pend = s.west.pend := by cases h <;> rfl
@[simp] theorem State.raiseEvt_west_recalls (s : State) (h : Half) (b : Nat) : (s.raiseEvt h b).west.recalls = s.west.recalls := by cases h <;> rfl
@[simp] theorem State.raiseEvt_west_aged (s : State) (h : Half) (b : Nat) : (s.raiseEvt h b).west.aged = s.west.aged := by cases h <;> rfl
@[simp] theorem State.raiseEvt_west_retried (s : State) (h : Half) (b : Nat) : (s.raiseEvt h b).west.retried = s.west.retried := by cases h <;> rfl
@[simp] theorem State.raiseEvt_west_held (s : State) (h : Half) (b : Nat) : (s.raiseEvt h b).west.held = s.west.held := by cases h <;> rfl
@[simp] theorem State.raiseEvt_west_caps (s : State) (h : Half) (b : Nat) : (s.raiseEvt h b).west.caps = s.west.caps := by cases h <;> rfl
@[simp] theorem State.raiseEvt_west_mismatches (s : State) (h : Half) (b : Nat) : (s.raiseEvt h b).west.mismatches = s.west.mismatches := by cases h <;> rfl
@[simp] theorem State.raiseEvt_west_staged (s : State) (h : Half) (b : Nat) : (s.raiseEvt h b).west.staged = s.west.staged := by cases h <;> rfl
@[simp] theorem State.raiseEvt_west_tlb (s : State) (h : Half) (b : Nat) : (s.raiseEvt h b).west.tlb = s.west.tlb := by cases h <;> rfl
@[simp] theorem State.raiseEvt_west_unitTlb (s : State) (h : Half) (b : Nat) : (s.raiseEvt h b).west.unitTlb = s.west.unitTlb := by cases h <;> rfl
@[simp] theorem State.raiseEvt_west_walkCache (s : State) (h : Half) (b : Nat) : (s.raiseEvt h b).west.walkCache = s.west.walkCache := by cases h <;> rfl
@[simp] theorem State.raiseEvt_west_redirects (s : State) (h : Half) (b : Nat) : (s.raiseEvt h b).west.redirects = s.west.redirects := by cases h <;> rfl
@[simp] theorem State.raiseEvt_west_leaseHolder (s : State) (h : Half) (b : Nat) : (s.raiseEvt h b).west.leaseHolder = s.west.leaseHolder := by cases h <;> rfl
@[simp] theorem State.raiseEvt_west_leaseSeq (s : State) (h : Half) (b : Nat) : (s.raiseEvt h b).west.leaseSeq = s.west.leaseSeq := by cases h <;> rfl
@[simp] theorem State.raiseEvt_west_leaseCourse (s : State) (h : Half) (b : Nat) : (s.raiseEvt h b).west.leaseCourse = s.west.leaseCourse := by cases h <;> rfl
@[simp] theorem State.raiseEvt_west_running (s : State) (h : Half) (b : Nat) : (s.raiseEvt h b).west.running = s.west.running := by cases h <;> rfl
@[simp] theorem State.raiseEvt_west_ctlMem (s : State) (h : Half) (b : Nat) : (s.raiseEvt h b).west.ctlMem = s.west.ctlMem := by cases h <;> rfl
@[simp] theorem State.raiseEvt_east_course (s : State) (h : Half) (b : Nat) : (s.raiseEvt h b).east.course = s.east.course := by cases h <;> rfl
@[simp] theorem State.raiseEvt_east_armed (s : State) (h : Half) (b : Nat) : (s.raiseEvt h b).east.armed = s.east.armed := by cases h <;> rfl
@[simp] theorem State.raiseEvt_east_events (s : State) (h : Half) (b : Nat) : (s.raiseEvt h b).east.events = s.east.events := by cases h <;> rfl
@[simp] theorem State.raiseEvt_east_unacked (s : State) (h : Half) (b : Nat) : (s.raiseEvt h b).east.unacked = s.east.unacked := by cases h <;> rfl
@[simp] theorem State.raiseEvt_east_slate (s : State) (h : Half) (b : Nat) : (s.raiseEvt h b).east.slate = s.east.slate := by cases h <;> rfl
@[simp] theorem State.raiseEvt_east_counts (s : State) (h : Half) (b : Nat) : (s.raiseEvt h b).east.counts = s.east.counts := by cases h <;> rfl
@[simp] theorem State.raiseEvt_east_dir (s : State) (h : Half) (b : Nat) : (s.raiseEvt h b).east.dir = s.east.dir := by cases h <;> rfl
@[simp] theorem State.raiseEvt_east_pend (s : State) (h : Half) (b : Nat) : (s.raiseEvt h b).east.pend = s.east.pend := by cases h <;> rfl
@[simp] theorem State.raiseEvt_east_recalls (s : State) (h : Half) (b : Nat) : (s.raiseEvt h b).east.recalls = s.east.recalls := by cases h <;> rfl
@[simp] theorem State.raiseEvt_east_aged (s : State) (h : Half) (b : Nat) : (s.raiseEvt h b).east.aged = s.east.aged := by cases h <;> rfl
@[simp] theorem State.raiseEvt_east_retried (s : State) (h : Half) (b : Nat) : (s.raiseEvt h b).east.retried = s.east.retried := by cases h <;> rfl
@[simp] theorem State.raiseEvt_east_held (s : State) (h : Half) (b : Nat) : (s.raiseEvt h b).east.held = s.east.held := by cases h <;> rfl
@[simp] theorem State.raiseEvt_east_caps (s : State) (h : Half) (b : Nat) : (s.raiseEvt h b).east.caps = s.east.caps := by cases h <;> rfl
@[simp] theorem State.raiseEvt_east_mismatches (s : State) (h : Half) (b : Nat) : (s.raiseEvt h b).east.mismatches = s.east.mismatches := by cases h <;> rfl
@[simp] theorem State.raiseEvt_east_staged (s : State) (h : Half) (b : Nat) : (s.raiseEvt h b).east.staged = s.east.staged := by cases h <;> rfl
@[simp] theorem State.raiseEvt_east_tlb (s : State) (h : Half) (b : Nat) : (s.raiseEvt h b).east.tlb = s.east.tlb := by cases h <;> rfl
@[simp] theorem State.raiseEvt_east_unitTlb (s : State) (h : Half) (b : Nat) : (s.raiseEvt h b).east.unitTlb = s.east.unitTlb := by cases h <;> rfl
@[simp] theorem State.raiseEvt_east_walkCache (s : State) (h : Half) (b : Nat) : (s.raiseEvt h b).east.walkCache = s.east.walkCache := by cases h <;> rfl
@[simp] theorem State.raiseEvt_east_redirects (s : State) (h : Half) (b : Nat) : (s.raiseEvt h b).east.redirects = s.east.redirects := by cases h <;> rfl
@[simp] theorem State.raiseEvt_east_leaseHolder (s : State) (h : Half) (b : Nat) : (s.raiseEvt h b).east.leaseHolder = s.east.leaseHolder := by cases h <;> rfl
@[simp] theorem State.raiseEvt_east_leaseSeq (s : State) (h : Half) (b : Nat) : (s.raiseEvt h b).east.leaseSeq = s.east.leaseSeq := by cases h <;> rfl
@[simp] theorem State.raiseEvt_east_leaseCourse (s : State) (h : Half) (b : Nat) : (s.raiseEvt h b).east.leaseCourse = s.east.leaseCourse := by cases h <;> rfl
@[simp] theorem State.raiseEvt_east_running (s : State) (h : Half) (b : Nat) : (s.raiseEvt h b).east.running = s.east.running := by cases h <;> rfl
@[simp] theorem State.raiseEvt_east_ctlMem (s : State) (h : Half) (b : Nat) : (s.raiseEvt h b).east.ctlMem = s.east.ctlMem := by cases h <;> rfl
@[simp] theorem State.raiseEvt_holder (s : State) (h : Half) (b : Nat) : (s.raiseEvt h b).holder = s.holder := by simp [State.holder]

@[simp] theorem State.modRun_pending (s : State) (e : Engine) (f : Work → Work) : (s.modRun e f).pending = s.pending := by cases e with | mk c i => cases c <;> rfl
@[simp] theorem State.modRun_out (s : State) (e : Engine) (f : Work → Work) : (s.modRun e f).out = s.out := by cases e with | mk c i => cases c <;> rfl
@[simp] theorem State.modRun_todo (s : State) (e : Engine) (f : Work → Work) : (s.modRun e f).todo = s.todo := by cases e with | mk c i => cases c <;> rfl
@[simp] theorem State.modRun_now (s : State) (e : Engine) (f : Work → Work) : (s.modRun e f).now = s.now := by cases e with | mk c i => cases c <;> rfl
@[simp] theorem State.modRun_free (s : State) (e : Engine) (f : Work → Work) : (s.modRun e f).free = s.free := by cases e with | mk c i => cases c <;> rfl
@[simp] theorem State.modRun_phase (s : State) (e : Engine) (f : Work → Work) : (s.modRun e f).phase = s.phase := by cases e with | mk c i => cases c <;> rfl
@[simp] theorem State.modRun_nodeNum (s : State) (e : Engine) (f : Work → Work) : (s.modRun e f).nodeNum = s.nodeNum := by cases e with | mk c i => cases c <;> rfl
@[simp] theorem State.modRun_crs (s : State) (e : Engine) (f : Work → Work) : (s.modRun e f).crs = s.crs := by cases e with | mk c i => cases c <;> rfl
@[simp] theorem State.modRun_spc (s : State) (e : Engine) (f : Work → Work) : (s.modRun e f).spc = s.spc := by cases e with | mk c i => cases c <;> rfl
@[simp] theorem State.modRun_near (s : State) (e : Engine) (f : Work → Work) : (s.modRun e f).near = s.near := by cases e with | mk c i => cases c <;> rfl
@[simp] theorem State.modRun_plc (s : State) (e : Engine) (f : Work → Work) : (s.modRun e f).plc = s.plc := by cases e with | mk c i => cases c <;> rfl
@[simp] theorem State.modRun_ylx (s : State) (e : Engine) (f : Work → Work) : (s.modRun e f).ylx = s.ylx := by cases e with | mk c i => cases c <;> rfl
@[simp] theorem State.modRun_itg (s : State) (e : Engine) (f : Work → Work) : (s.modRun e f).itg = s.itg := by cases e with | mk c i => cases c <;> rfl
@[simp] theorem State.modRun_rdg (s : State) (e : Engine) (f : Work → Work) : (s.modRun e f).rdg = s.rdg := by cases e with | mk c i => cases c <;> rfl
@[simp] theorem State.modRun_fab (s : State) (e : Engine) (f : Work → Work) : (s.modRun e f).fab = s.fab := by cases e with | mk c i => cases c <;> rfl
@[simp] theorem State.modRun_opt (s : State) (e : Engine) (f : Work → Work) : (s.modRun e f).opt = s.opt := by cases e with | mk c i => cases c <;> rfl
@[simp] theorem State.modRun_gel (s : State) (e : Engine) (f : Work → Work) : (s.modRun e f).gel = s.gel := by cases e with | mk c i => cases c <;> rfl
@[simp] theorem State.modRun_west (s : State) (e : Engine) (f : Work → Work) : (s.modRun e f).west = s.west := by cases e with | mk c i => cases c <;> rfl
@[simp] theorem State.modRun_east (s : State) (e : Engine) (f : Work → Work) : (s.modRun e f).east = s.east := by cases e with | mk c i => cases c <;> rfl
@[simp] theorem State.modRun_avl (s : State) (e : Engine) (f : Work → Work) : (s.modRun e f).avl = s.avl := by cases e with | mk c i => cases c <;> rfl
@[simp] theorem State.modRun_enc (s : State) (e : Engine) (f : Work → Work) : (s.modRun e f).enc = s.enc := by cases e with | mk c i => cases c <;> rfl
@[simp] theorem State.modRun_fuse (s : State) (e : Engine) (f : Work → Work) : (s.modRun e f).fuse = s.fuse := by cases e with | mk c i => cases c <;> rfl
@[simp] theorem State.modRun_slt (s : State) (e : Engine) (f : Work → Work) : (s.modRun e f).slt = s.slt := by cases e with | mk c i => cases c <;> rfl
@[simp] theorem State.modRun_mgm (s : State) (e : Engine) (f : Work → Work) : (s.modRun e f).mgm = s.mgm := by cases e with | mk c i => cases c <;> rfl
@[simp] theorem State.modRun_mon (s : State) (e : Engine) (f : Work → Work) : (s.modRun e f).mon = s.mon := by cases e with | mk c i => cases c <;> rfl

@[simp] theorem State.modRegs_pending (s : State) (h : Half) (f : Regs → Regs) : (s.modRegs h f).pending = s.pending := by cases h <;> rfl
@[simp] theorem State.modRegs_out (s : State) (h : Half) (f : Regs → Regs) : (s.modRegs h f).out = s.out := by cases h <;> rfl
@[simp] theorem State.modRegs_todo (s : State) (h : Half) (f : Regs → Regs) : (s.modRegs h f).todo = s.todo := by cases h <;> rfl
@[simp] theorem State.modRegs_now (s : State) (h : Half) (f : Regs → Regs) : (s.modRegs h f).now = s.now := by cases h <;> rfl
@[simp] theorem State.modRegs_free (s : State) (h : Half) (f : Regs → Regs) : (s.modRegs h f).free = s.free := by cases h <;> rfl
@[simp] theorem State.modRegs_phase (s : State) (h : Half) (f : Regs → Regs) : (s.modRegs h f).phase = s.phase := by cases h <;> rfl
@[simp] theorem State.modRegs_nodeNum (s : State) (h : Half) (f : Regs → Regs) : (s.modRegs h f).nodeNum = s.nodeNum := by cases h <;> rfl
@[simp] theorem State.modRegs_crs (s : State) (h : Half) (f : Regs → Regs) : (s.modRegs h f).crs = s.crs := by cases h <;> rfl
@[simp] theorem State.modRegs_spc (s : State) (h : Half) (f : Regs → Regs) : (s.modRegs h f).spc = s.spc := by cases h <;> rfl
@[simp] theorem State.modRegs_near (s : State) (h : Half) (f : Regs → Regs) : (s.modRegs h f).near = s.near := by cases h <;> rfl
@[simp] theorem State.modRegs_plc (s : State) (h : Half) (f : Regs → Regs) : (s.modRegs h f).plc = s.plc := by cases h <;> rfl
@[simp] theorem State.modRegs_ylx (s : State) (h : Half) (f : Regs → Regs) : (s.modRegs h f).ylx = s.ylx := by cases h <;> rfl
@[simp] theorem State.modRegs_itg (s : State) (h : Half) (f : Regs → Regs) : (s.modRegs h f).itg = s.itg := by cases h <;> rfl
@[simp] theorem State.modRegs_rdg (s : State) (h : Half) (f : Regs → Regs) : (s.modRegs h f).rdg = s.rdg := by cases h <;> rfl
@[simp] theorem State.modRegs_eng (s : State) (h : Half) (f : Regs → Regs) : (s.modRegs h f).eng = s.eng := by cases h <;> rfl
@[simp] theorem State.modRegs_fab (s : State) (h : Half) (f : Regs → Regs) : (s.modRegs h f).fab = s.fab := by cases h <;> rfl
@[simp] theorem State.modRegs_opt (s : State) (h : Half) (f : Regs → Regs) : (s.modRegs h f).opt = s.opt := by cases h <;> rfl
@[simp] theorem State.modRegs_gel (s : State) (h : Half) (f : Regs → Regs) : (s.modRegs h f).gel = s.gel := by cases h <;> rfl
@[simp] theorem State.modRegs_avl (s : State) (h : Half) (f : Regs → Regs) : (s.modRegs h f).avl = s.avl := by cases h <;> rfl
@[simp] theorem State.modRegs_enc (s : State) (h : Half) (f : Regs → Regs) : (s.modRegs h f).enc = s.enc := by cases h <;> rfl
@[simp] theorem State.modRegs_fuse (s : State) (h : Half) (f : Regs → Regs) : (s.modRegs h f).fuse = s.fuse := by cases h <;> rfl
@[simp] theorem State.modRegs_slt (s : State) (h : Half) (f : Regs → Regs) : (s.modRegs h f).slt = s.slt := by cases h <;> rfl
@[simp] theorem State.modRegs_mgm (s : State) (h : Half) (f : Regs → Regs) : (s.modRegs h f).mgm = s.mgm := by cases h <;> rfl
@[simp] theorem State.modRegs_mon (s : State) (h : Half) (f : Regs → Regs) : (s.modRegs h f).mon = s.mon := by cases h <;> rfl

@[simp] theorem State.modGroup_pending (s : State) (c j : Nat) (f : Group → Group) : (s.modGroup c j f).pending = s.pending := by unfold State.modGroup; split <;> rfl
@[simp] theorem State.modGroup_out (s : State) (c j : Nat) (f : Group → Group) : (s.modGroup c j f).out = s.out := by unfold State.modGroup; split <;> rfl
@[simp] theorem State.modGroup_todo (s : State) (c j : Nat) (f : Group → Group) : (s.modGroup c j f).todo = s.todo := by unfold State.modGroup; split <;> rfl
@[simp] theorem State.modGroup_now (s : State) (c j : Nat) (f : Group → Group) : (s.modGroup c j f).now = s.now := by unfold State.modGroup; split <;> rfl
@[simp] theorem State.modGroup_free (s : State) (c j : Nat) (f : Group → Group) : (s.modGroup c j f).free = s.free := by unfold State.modGroup; split <;> rfl
@[simp] theorem State.modGroup_phase (s : State) (c j : Nat) (f : Group → Group) : (s.modGroup c j f).phase = s.phase := by unfold State.modGroup; split <;> rfl
@[simp] theorem State.modGroup_nodeNum (s : State) (c j : Nat) (f : Group → Group) : (s.modGroup c j f).nodeNum = s.nodeNum := by unfold State.modGroup; split <;> rfl
@[simp] theorem State.modGroup_crs (s : State) (c j : Nat) (f : Group → Group) : (s.modGroup c j f).crs = s.crs := by unfold State.modGroup; split <;> rfl
@[simp] theorem State.modGroup_spc (s : State) (c j : Nat) (f : Group → Group) : (s.modGroup c j f).spc = s.spc := by unfold State.modGroup; split <;> rfl
@[simp] theorem State.modGroup_near (s : State) (c j : Nat) (f : Group → Group) : (s.modGroup c j f).near = s.near := by unfold State.modGroup; split <;> rfl
@[simp] theorem State.modGroup_plc (s : State) (c j : Nat) (f : Group → Group) : (s.modGroup c j f).plc = s.plc := by unfold State.modGroup; split <;> rfl
@[simp] theorem State.modGroup_ylx (s : State) (c j : Nat) (f : Group → Group) : (s.modGroup c j f).ylx = s.ylx := by unfold State.modGroup; split <;> rfl
@[simp] theorem State.modGroup_rdg (s : State) (c j : Nat) (f : Group → Group) : (s.modGroup c j f).rdg = s.rdg := by unfold State.modGroup; split <;> rfl
@[simp] theorem State.modGroup_eng (s : State) (c j : Nat) (f : Group → Group) : (s.modGroup c j f).eng = s.eng := by unfold State.modGroup; split <;> rfl
@[simp] theorem State.modGroup_fab (s : State) (c j : Nat) (f : Group → Group) : (s.modGroup c j f).fab = s.fab := by unfold State.modGroup; split <;> rfl
@[simp] theorem State.modGroup_opt (s : State) (c j : Nat) (f : Group → Group) : (s.modGroup c j f).opt = s.opt := by unfold State.modGroup; split <;> rfl
@[simp] theorem State.modGroup_gel (s : State) (c j : Nat) (f : Group → Group) : (s.modGroup c j f).gel = s.gel := by unfold State.modGroup; split <;> rfl
@[simp] theorem State.modGroup_west (s : State) (c j : Nat) (f : Group → Group) : (s.modGroup c j f).west = s.west := by unfold State.modGroup; split <;> rfl
@[simp] theorem State.modGroup_east (s : State) (c j : Nat) (f : Group → Group) : (s.modGroup c j f).east = s.east := by unfold State.modGroup; split <;> rfl
@[simp] theorem State.modGroup_avl (s : State) (c j : Nat) (f : Group → Group) : (s.modGroup c j f).avl = s.avl := by unfold State.modGroup; split <;> rfl
@[simp] theorem State.modGroup_enc (s : State) (c j : Nat) (f : Group → Group) : (s.modGroup c j f).enc = s.enc := by unfold State.modGroup; split <;> rfl
@[simp] theorem State.modGroup_fuse (s : State) (c j : Nat) (f : Group → Group) : (s.modGroup c j f).fuse = s.fuse := by unfold State.modGroup; split <;> rfl
@[simp] theorem State.modGroup_slt (s : State) (c j : Nat) (f : Group → Group) : (s.modGroup c j f).slt = s.slt := by unfold State.modGroup; split <;> rfl
@[simp] theorem State.modGroup_mgm (s : State) (c j : Nat) (f : Group → Group) : (s.modGroup c j f).mgm = s.mgm := by unfold State.modGroup; split <;> rfl
@[simp] theorem State.modGroup_mon (s : State) (c j : Nat) (f : Group → Group) : (s.modGroup c j f).mon = s.mon := by unfold State.modGroup; split <;> rfl

@[simp] theorem State.modFront_pending (s : State) (id : Nat) (f : Front → Front) : (s.modFront id f).pending = s.pending := by rfl
@[simp] theorem State.modFront_out (s : State) (id : Nat) (f : Front → Front) : (s.modFront id f).out = s.out := by rfl
@[simp] theorem State.modFront_todo (s : State) (id : Nat) (f : Front → Front) : (s.modFront id f).todo = s.todo := by rfl
@[simp] theorem State.modFront_now (s : State) (id : Nat) (f : Front → Front) : (s.modFront id f).now = s.now := by rfl
@[simp] theorem State.modFront_free (s : State) (id : Nat) (f : Front → Front) : (s.modFront id f).free = s.free := by rfl
@[simp] theorem State.modFront_phase (s : State) (id : Nat) (f : Front → Front) : (s.modFront id f).phase = s.phase := by rfl
@[simp] theorem State.modFront_nodeNum (s : State) (id : Nat) (f : Front → Front) : (s.modFront id f).nodeNum = s.nodeNum := by rfl
@[simp] theorem State.modFront_crs (s : State) (id : Nat) (f : Front → Front) : (s.modFront id f).crs = s.crs := by rfl
@[simp] theorem State.modFront_spc (s : State) (id : Nat) (f : Front → Front) : (s.modFront id f).spc = s.spc := by rfl
@[simp] theorem State.modFront_near (s : State) (id : Nat) (f : Front → Front) : (s.modFront id f).near = s.near := by rfl
@[simp] theorem State.modFront_plc (s : State) (id : Nat) (f : Front → Front) : (s.modFront id f).plc = s.plc := by rfl
@[simp] theorem State.modFront_ylx (s : State) (id : Nat) (f : Front → Front) : (s.modFront id f).ylx = s.ylx := by rfl
@[simp] theorem State.modFront_itg (s : State) (id : Nat) (f : Front → Front) : (s.modFront id f).itg = s.itg := by rfl
@[simp] theorem State.modFront_rdg (s : State) (id : Nat) (f : Front → Front) : (s.modFront id f).rdg = s.rdg := by rfl
@[simp] theorem State.modFront_fab (s : State) (id : Nat) (f : Front → Front) : (s.modFront id f).fab = s.fab := by rfl
@[simp] theorem State.modFront_opt (s : State) (id : Nat) (f : Front → Front) : (s.modFront id f).opt = s.opt := by rfl
@[simp] theorem State.modFront_gel (s : State) (id : Nat) (f : Front → Front) : (s.modFront id f).gel = s.gel := by rfl
@[simp] theorem State.modFront_west (s : State) (id : Nat) (f : Front → Front) : (s.modFront id f).west = s.west := by rfl
@[simp] theorem State.modFront_east (s : State) (id : Nat) (f : Front → Front) : (s.modFront id f).east = s.east := by rfl
@[simp] theorem State.modFront_avl (s : State) (id : Nat) (f : Front → Front) : (s.modFront id f).avl = s.avl := by rfl
@[simp] theorem State.modFront_enc (s : State) (id : Nat) (f : Front → Front) : (s.modFront id f).enc = s.enc := by rfl
@[simp] theorem State.modFront_fuse (s : State) (id : Nat) (f : Front → Front) : (s.modFront id f).fuse = s.fuse := by rfl
@[simp] theorem State.modFront_slt (s : State) (id : Nat) (f : Front → Front) : (s.modFront id f).slt = s.slt := by rfl
@[simp] theorem State.modFront_mgm (s : State) (id : Nat) (f : Front → Front) : (s.modFront id f).mgm = s.mgm := by rfl
@[simp] theorem State.modFront_mon (s : State) (id : Nat) (f : Front → Front) : (s.modFront id f).mon = s.mon := by rfl

@[simp] theorem State.modMove_pending (s : State) (page : Nat) (f : PMove → PMove) : (s.modMove page f).pending = s.pending := by rfl
@[simp] theorem State.modMove_out (s : State) (page : Nat) (f : PMove → PMove) : (s.modMove page f).out = s.out := by rfl
@[simp] theorem State.modMove_todo (s : State) (page : Nat) (f : PMove → PMove) : (s.modMove page f).todo = s.todo := by rfl
@[simp] theorem State.modMove_now (s : State) (page : Nat) (f : PMove → PMove) : (s.modMove page f).now = s.now := by rfl
@[simp] theorem State.modMove_free (s : State) (page : Nat) (f : PMove → PMove) : (s.modMove page f).free = s.free := by rfl
@[simp] theorem State.modMove_phase (s : State) (page : Nat) (f : PMove → PMove) : (s.modMove page f).phase = s.phase := by rfl
@[simp] theorem State.modMove_nodeNum (s : State) (page : Nat) (f : PMove → PMove) : (s.modMove page f).nodeNum = s.nodeNum := by rfl
@[simp] theorem State.modMove_crs (s : State) (page : Nat) (f : PMove → PMove) : (s.modMove page f).crs = s.crs := by rfl
@[simp] theorem State.modMove_spc (s : State) (page : Nat) (f : PMove → PMove) : (s.modMove page f).spc = s.spc := by rfl
@[simp] theorem State.modMove_near (s : State) (page : Nat) (f : PMove → PMove) : (s.modMove page f).near = s.near := by rfl
@[simp] theorem State.modMove_ylx (s : State) (page : Nat) (f : PMove → PMove) : (s.modMove page f).ylx = s.ylx := by rfl
@[simp] theorem State.modMove_itg (s : State) (page : Nat) (f : PMove → PMove) : (s.modMove page f).itg = s.itg := by rfl
@[simp] theorem State.modMove_rdg (s : State) (page : Nat) (f : PMove → PMove) : (s.modMove page f).rdg = s.rdg := by rfl
@[simp] theorem State.modMove_eng (s : State) (page : Nat) (f : PMove → PMove) : (s.modMove page f).eng = s.eng := by rfl
@[simp] theorem State.modMove_fab (s : State) (page : Nat) (f : PMove → PMove) : (s.modMove page f).fab = s.fab := by rfl
@[simp] theorem State.modMove_opt (s : State) (page : Nat) (f : PMove → PMove) : (s.modMove page f).opt = s.opt := by rfl
@[simp] theorem State.modMove_gel (s : State) (page : Nat) (f : PMove → PMove) : (s.modMove page f).gel = s.gel := by rfl
@[simp] theorem State.modMove_west (s : State) (page : Nat) (f : PMove → PMove) : (s.modMove page f).west = s.west := by rfl
@[simp] theorem State.modMove_east (s : State) (page : Nat) (f : PMove → PMove) : (s.modMove page f).east = s.east := by rfl
@[simp] theorem State.modMove_avl (s : State) (page : Nat) (f : PMove → PMove) : (s.modMove page f).avl = s.avl := by rfl
@[simp] theorem State.modMove_enc (s : State) (page : Nat) (f : PMove → PMove) : (s.modMove page f).enc = s.enc := by rfl
@[simp] theorem State.modMove_fuse (s : State) (page : Nat) (f : PMove → PMove) : (s.modMove page f).fuse = s.fuse := by rfl
@[simp] theorem State.modMove_slt (s : State) (page : Nat) (f : PMove → PMove) : (s.modMove page f).slt = s.slt := by rfl
@[simp] theorem State.modMove_mgm (s : State) (page : Nat) (f : PMove → PMove) : (s.modMove page f).mgm = s.mgm := by rfl
@[simp] theorem State.modMove_mon (s : State) (page : Nat) (f : PMove → PMove) : (s.modMove page f).mon = s.mon := by rfl

@[simp] theorem State.modRows_pending (s : State) (n b : Nat) (f : RMove → RMove) : (s.modRows n b f).pending = s.pending := by rfl
@[simp] theorem State.modRows_out (s : State) (n b : Nat) (f : RMove → RMove) : (s.modRows n b f).out = s.out := by rfl
@[simp] theorem State.modRows_todo (s : State) (n b : Nat) (f : RMove → RMove) : (s.modRows n b f).todo = s.todo := by rfl
@[simp] theorem State.modRows_now (s : State) (n b : Nat) (f : RMove → RMove) : (s.modRows n b f).now = s.now := by rfl
@[simp] theorem State.modRows_free (s : State) (n b : Nat) (f : RMove → RMove) : (s.modRows n b f).free = s.free := by rfl
@[simp] theorem State.modRows_phase (s : State) (n b : Nat) (f : RMove → RMove) : (s.modRows n b f).phase = s.phase := by rfl
@[simp] theorem State.modRows_nodeNum (s : State) (n b : Nat) (f : RMove → RMove) : (s.modRows n b f).nodeNum = s.nodeNum := by rfl
@[simp] theorem State.modRows_crs (s : State) (n b : Nat) (f : RMove → RMove) : (s.modRows n b f).crs = s.crs := by rfl
@[simp] theorem State.modRows_spc (s : State) (n b : Nat) (f : RMove → RMove) : (s.modRows n b f).spc = s.spc := by rfl
@[simp] theorem State.modRows_near (s : State) (n b : Nat) (f : RMove → RMove) : (s.modRows n b f).near = s.near := by rfl
@[simp] theorem State.modRows_plc (s : State) (n b : Nat) (f : RMove → RMove) : (s.modRows n b f).plc = s.plc := by rfl
@[simp] theorem State.modRows_itg (s : State) (n b : Nat) (f : RMove → RMove) : (s.modRows n b f).itg = s.itg := by rfl
@[simp] theorem State.modRows_rdg (s : State) (n b : Nat) (f : RMove → RMove) : (s.modRows n b f).rdg = s.rdg := by rfl
@[simp] theorem State.modRows_eng (s : State) (n b : Nat) (f : RMove → RMove) : (s.modRows n b f).eng = s.eng := by rfl
@[simp] theorem State.modRows_fab (s : State) (n b : Nat) (f : RMove → RMove) : (s.modRows n b f).fab = s.fab := by rfl
@[simp] theorem State.modRows_opt (s : State) (n b : Nat) (f : RMove → RMove) : (s.modRows n b f).opt = s.opt := by rfl
@[simp] theorem State.modRows_gel (s : State) (n b : Nat) (f : RMove → RMove) : (s.modRows n b f).gel = s.gel := by rfl
@[simp] theorem State.modRows_west (s : State) (n b : Nat) (f : RMove → RMove) : (s.modRows n b f).west = s.west := by rfl
@[simp] theorem State.modRows_east (s : State) (n b : Nat) (f : RMove → RMove) : (s.modRows n b f).east = s.east := by rfl
@[simp] theorem State.modRows_avl (s : State) (n b : Nat) (f : RMove → RMove) : (s.modRows n b f).avl = s.avl := by rfl
@[simp] theorem State.modRows_enc (s : State) (n b : Nat) (f : RMove → RMove) : (s.modRows n b f).enc = s.enc := by rfl
@[simp] theorem State.modRows_fuse (s : State) (n b : Nat) (f : RMove → RMove) : (s.modRows n b f).fuse = s.fuse := by rfl
@[simp] theorem State.modRows_slt (s : State) (n b : Nat) (f : RMove → RMove) : (s.modRows n b f).slt = s.slt := by rfl
@[simp] theorem State.modRows_mgm (s : State) (n b : Nat) (f : RMove → RMove) : (s.modRows n b f).mgm = s.mgm := by rfl
@[simp] theorem State.modRows_mon (s : State) (n b : Nat) (f : RMove → RMove) : (s.modRows n b f).mon = s.mon := by rfl

@[simp] theorem State.drawFree_snd (s : State) : s.drawFree.2 = { s with free := s.free + 1 } := rfl

end Sys2Proof.Machine
end

