-- ==== Sys2Proof/Laws/Ops.lean ====
section
/-! SUPPORT. What the shared operations do: tables, near memory, the frame of a command, and its settling. -/

namespace Sys2Proof.Machine

/-! ### Tables -/

@[simp] theorem tget_nil {κ α : Type} [DecidableEq κ] (k : κ) : tget k ([] : Tbl κ α) = none := rfl

@[simp] theorem tget_tput_same {κ α : Type} [DecidableEq κ] (k : κ) (v : α) (t : Tbl κ α) :
    tget k (tput k v t) = some v := by
  induction t with
  | nil => simp [tput, tget]
  | cons x t ih =>
    obtain ⟨j, w⟩ := x
    by_cases h : j = k <;> simp [tput, tget, h, ih]

theorem tget_tput_ne {κ α : Type} [DecidableEq κ] {k j : κ} (v : α) (t : Tbl κ α) (h : j ≠ k) :
    tget j (tput k v t) = tget j t := by
  induction t with
  | nil => simp [tput, tget, Ne.symm h]
  | cons x t ih =>
    obtain ⟨i, w⟩ := x
    by_cases h1 : i = k
    · subst h1; simp [tput, tget, Ne.symm h]
    · by_cases h2 : i = j
      · subst h2; simp [tput, tget, h1]
      · simp [tput, tget, h1, h2, ih]

theorem tget_tdel_ne {κ α : Type} [DecidableEq κ] {k j : κ} (t : Tbl κ α) (h : j ≠ k) :
    tget j (tdel k t) = tget j t := by
  induction t with
  | nil => rfl
  | cons x t ih =>
    obtain ⟨i, w⟩ := x
    by_cases h1 : i = k
    · subst h1; simp [tdel, tget, Ne.symm h]
    · by_cases h2 : i = j
      · subst h2; simp [tdel, tget, h1]
      · simp [tdel, tget, h1, h2, ih]

@[simp] theorem tgetD_tput_same {κ α : Type} [DecidableEq κ] (k : κ) (d v : α) (t : Tbl κ α) :
    tgetD k d (tput k v t) = v := by simp [tgetD]

theorem tgetD_tput_ne {κ α : Type} [DecidableEq κ] {k j : κ} (d v : α) (t : Tbl κ α) (h : j ≠ k) :
    tgetD j d (tput k v t) = tgetD j d t := by simp [tgetD, tget_tput_ne v t h]

@[simp] theorem tgetD_tmod_same {κ α : Type} [DecidableEq κ] (k : κ) (d : α) (f : α → α) (t : Tbl κ α) :
    tgetD k d (tmod k d f t) = f (tgetD k d t) := by simp [tmod]

theorem tgetD_tmod_ne {κ α : Type} [DecidableEq κ] {k j : κ} (d : α) (f : α → α) (t : Tbl κ α) (h : j ≠ k) :
    tgetD j d (tmod k d f t) = tgetD j d t := by simp [tmod, tgetD_tput_ne _ _ t h]

/-! ### Near memory -/

/-- Every address of a list lies above `a`. -/
def memAbove (a : Nat) (m : List Host.Cell) : Prop := ∀ c ∈ m, a < c.1

theorem memWf_cons (k : Nat) (b : Byte) (t : List Host.Cell) :
    memWf ((k, b) :: t) = true ↔ b ≠ freshByte ∧ memAbove k t ∧ memWf t = true := by
  simp [memWf, memAbove, and_assoc]

theorem memPut_above (a k : Nat) (b : Byte) (m : List Host.Cell) (hk : k < a) (h : memAbove k m) :
    memAbove k (memPut a b m) := by
  induction m with
  | nil =>
    unfold memPut; split
    · simp [memAbove]
    · intro c hc; simp at hc; subst hc; exact hk
  | cons x t ih =>
    obtain ⟨j, w⟩ := x
    have ht : memAbove k t := fun c hc => h c (List.mem_cons_of_mem _ hc)
    have hj : k < j := h (j, w) (by simp)
    unfold memPut
    split
    · split
      · exact h
      · intro c hc
        rcases List.mem_cons.mp hc with rfl | hc
        · exact hk
        · exact h c hc
    · split
      · split
        · exact ht
        · intro c hc
          rcases List.mem_cons.mp hc with rfl | hc
          · exact hk
          · exact ht c hc
      · intro c hc
        rcases List.mem_cons.mp hc with rfl | hc
        · exact hj
        · exact ih ht c hc

/-- A write keeps the canonical form. -/
theorem memPut_wf (a : Nat) (b : Byte) (m : List Host.Cell) (h : memWf m = true) : memWf (memPut a b m) = true := by
  induction m with
  | nil => unfold memPut; split <;> simp_all [memWf]
  | cons x t ih =>
    obtain ⟨j, w⟩ := x
    obtain ⟨hw, hab, ht⟩ := (memWf_cons j w t).mp h
    unfold memPut
    split
    · rename_i haj
      split
      · exact h
      · rename_i hb
        refine (memWf_cons _ _ _).mpr ⟨hb, ?_, h⟩
        intro c hc
        rcases List.mem_cons.mp hc with rfl | hc
        · exact haj
        · exact Nat.lt_trans haj (hab c hc)
    · rename_i haj
      split
      · rename_i heq
        subst heq
        split
        · exact ht
        · rename_i hb
          exact (memWf_cons _ _ _).mpr ⟨hb, hab, ht⟩
      · rename_i hne
        exact (memWf_cons _ _ _).mpr ⟨hw, memPut_above a j b t (by omega) hab, ih ht⟩

theorem memPutAll_wf (a : Nat) (bs : Bytes) (m : List Host.Cell) (h : memWf m = true) :
    memWf (memPutAll a bs m) = true := by
  induction bs generalizing a m with
  | nil => exact h
  | cons b t ih => exact ih (a + 1) (memPut a b m) (memPut_wf a b m h)

theorem memGet_above (a : Nat) (m : List Host.Cell) (h : memAbove a m) : memGet a m = freshByte := by
  cases m with
  | nil => rfl
  | cons x t =>
    obtain ⟨j, w⟩ := x
    have hj : a < j := h (j, w) (by simp)
    simp [memGet, Nat.ne_of_gt hj, hj]

/-- Read after write of the same byte. -/
theorem memGet_memPut_same (a : Nat) (b : Byte) (m : List Host.Cell) (h : memWf m = true) :
    memGet a (memPut a b m) = b := by
  induction m with
  | nil => unfold memPut; split <;> simp_all [memGet]
  | cons x t ih =>
    obtain ⟨j, w⟩ := x
    obtain ⟨_, hab, ht⟩ := (memWf_cons j w t).mp h
    unfold memPut
    split
    · rename_i haj
      split
      · rename_i hb
        simp [memGet, Nat.ne_of_gt haj, haj, hb]
      · simp [memGet]
    · split
      · rename_i heq
        subst heq
        split
        · rename_i hb
          simpa [hb] using memGet_above a t hab
        · simp [memGet]
      · rename_i h1 h2
        simp [memGet, Ne.symm h2, h1, ih ht]

/-- A write leaves every other byte alone. -/
theorem memGet_memPut_ne (a c : Nat) (b : Byte) (m : List Host.Cell) (h : memWf m = true) (hne : c ≠ a) :
    memGet c (memPut a b m) = memGet c m := by
  induction m with
  | nil =>
    unfold memPut
    split
    · rfl
    · simp [memGet, Ne.symm hne]
  | cons x t ih =>
    obtain ⟨j, w⟩ := x
    obtain ⟨_, hab, ht⟩ := (memWf_cons j w t).mp h
    unfold memPut
    split
    · rename_i haj
      split
      · rfl
      · by_cases hca : c < a
        · have : c < j := Nat.lt_trans hca haj
          simp [memGet, Ne.symm hne, hca, Nat.ne_of_gt this, this]
        · simp [memGet, Ne.symm hne, hca]
    · split
      · rename_i heq
        subst heq
        split
        · by_cases hca : c < a
          · have h2 : memAbove c t := fun d hd => Nat.lt_trans hca (hab d hd)
            simp [memGet, Ne.symm hne, hca, memGet_above c t h2]
          · simp [memGet, Ne.symm hne, hca]
        · simp [memGet, Ne.symm hne]
      · by_cases hcj : j = c
        · simp [memGet, hcj]
        · by_cases hlt : c < j
          · simp [memGet, hcj, hlt]
          · simp [memGet, hcj, hlt, ih ht]

/-- A byte string written leaves every byte outside it alone. -/
theorem memGet_memPutAll_out (a c : Nat) (bs : Bytes) (m : List Host.Cell) (h : memWf m = true)
    (hout : c < a ∨ a + bs.length ≤ c) : memGet c (memPutAll a bs m) = memGet c m := by
  induction bs generalizing a m with
  | nil => rfl
  | cons b t ih =>
    simp only [memPutAll]
    rw [ih (a + 1) (memPut a b m) (memPut_wf a b m h) (by simp at hout; omega)]
    exact memGet_memPut_ne a c b m h (by simp at hout; omega)

/-- A byte string written reads back. -/
theorem memGetAll_memPutAll (a : Nat) (bs : Bytes) (m : List Host.Cell) (h : memWf m = true) :
    memGetAll (memPutAll a bs m) a bs.length = bs := by
  induction bs generalizing a m with
  | nil => rfl
  | cons b t ih =>
    have hw := memPut_wf a b m h
    simp only [memPutAll, List.length_cons, memGetAll]
    rw [memGet_memPutAll_out (a + 1) a t (memPut a b m) hw (by omega), memGet_memPut_same a b m h,
      ih (a + 1) (memPut a b m) hw]

theorem State.loadBytes_storeBytes (s : State) (off : Nat) (bs : Bytes) (h : memWf s.near.mem = true) :
    (s.storeBytes off bs).loadBytes off bs.length = bs := memGetAll_memPutAll off bs s.near.mem h

/-! ### Halves, ports and other named parts -/

@[simp] theorem State.half_modHalf_same (s : State) (h : Half) (f : HalfSt → HalfSt) :
    (s.modHalf h f).half h = f (s.half h) := by cases h <;> rfl

@[simp] theorem State.half_modHalf_other (s : State) (h : Half) (f : HalfSt → HalfSt) :
    (s.modHalf h f).half h.other = s.half h.other := by cases h <;> rfl

@[simp] theorem State.port_modPort_same (s : State) (p : Nat) (f : Port → Port) : (s.modPort p f).port p = f (s.port p) := by
  simp [State.port, State.modPort]

theorem State.port_modPort_ne (s : State) {p q : Nat} (f : Port → Port) (h : q ≠ p) : (s.modPort p f).port q = s.port q := by
  simp [State.port, State.modPort, tgetD_tmod_ne _ _ _ h]

@[simp] theorem State.ctx_modCtx_same (s : State) (c : Nat) (f : Ctx → Ctx) : (s.modCtx c f).ctx c = f (s.ctx c) := by
  simp [State.ctx, State.modCtx]

theorem State.ctx_modCtx_ne (s : State) {c d : Nat} (f : Ctx → Ctx) (h : d ≠ c) : (s.modCtx c f).ctx d = s.ctx d := by
  simp [State.ctx, State.modCtx, tgetD_tmod_ne _ _ _ h]

@[simp] theorem State.extent_modExtent_same (s : State) (n : Nat) (f : Extent → Extent) :
    (s.modExtent n f).extent n = f (s.extent n) := by simp [State.extent, State.modExtent]

@[simp] theorem State.lane_modLane_same (s : State) (n : Nat) (f : Lane → Lane) : (s.modLane n f).lane n = f (s.lane n) := by
  simp [State.lane, State.modLane]

theorem State.lane_modLane_ne (s : State) {n m : Nat} (f : Lane → Lane) (h : m ≠ n) : (s.modLane n f).lane m = s.lane m := by
  simp [State.lane, State.modLane, tgetD_tmod_ne _ _ _ h]

@[simp] theorem State.laserModule_modModule_same (s : State) (m : Nat) (f : Module → Module) :
    (s.modModule m f).laserModule m = f (s.laserModule m) := by simp [State.laserModule, State.modModule]

@[simp] theorem State.node_modNode_same (s : State) (n : Nat) (f : Node → Node) : (s.modNode n f).node n = f (s.node n) := by
  simp [State.node, State.modNode]

@[simp] theorem State.slot_modSlot_same (s : State) (k : Nat) (f : Slot → Slot) : (s.modSlot k f).slot k = f (s.slot k) := by
  simp [State.slot, State.modSlot]

@[simp] theorem State.engOf_modEng_same (s : State) (e : Engine) (f : Eng → Eng) : (s.modEng e f).engOf e = f (s.engOf e) := by
  unfold State.modEng State.engOf; cases e.cls <;> simp

@[simp] theorem State.geled_modGeled_same (s : State) (e : Half) (f : GEnd → GEnd) : (s.modGeled e f).geled e = f (s.geled e) := by
  cases e <;> rfl

/-! ### The frame of a command -/

theorem run_next (dt : Nat) (s : State) (f : State → State) :
    run true dt s f = .next { f { s with out := [], now := s.now + dt } with
      pending := s.pending, now := s.now + dt, fuse := joinFuses s.fuse (f { s with out := [], now := s.now + dt }).fuse } := rfl

/-- A command no sender can form has no effect but that time passes, whatever the state (log entry 4). -/
theorem run_illFormed (dt : Nat) (s : State) (f : State → State) :
    run false dt s f = .next { s with out := [], now := s.now + dt } := rfl

/-! ### Settling -/

@[simp] theorem State.work_idle (n : Nat) (s : State) (h : s.todo = []) : s.work n = s := by
  cases n with
  | zero => rfl
  | succ n => simp [State.work, h]

end Sys2Proof.Machine
end

