-- ==== Sys2Proof/Laws/Frame.lean ====
section
/-! SUPPORT. What every command does to the whole state, and how a dictionary write is taken. -/

namespace Sys2Proof.Machine

/-! ### Registers noted after a command -/

@[simp] theorem State.noteEvents_pending (a b : State) : (State.noteEvents a b).pending = b.pending := rfl
@[simp] theorem State.noteEvents_out (a b : State) : (State.noteEvents a b).out = b.out := rfl
@[simp] theorem State.noteEvents_todo (a b : State) : (State.noteEvents a b).todo = b.todo := rfl
@[simp] theorem State.noteEvents_now (a b : State) : (State.noteEvents a b).now = b.now := rfl
@[simp] theorem State.noteEvents_free (a b : State) : (State.noteEvents a b).free = b.free := rfl
@[simp] theorem State.noteEvents_phase (a b : State) : (State.noteEvents a b).phase = b.phase := rfl
@[simp] theorem State.noteEvents_nodeNum (a b : State) : (State.noteEvents a b).nodeNum = b.nodeNum := rfl
@[simp] theorem State.noteEvents_crs (a b : State) : (State.noteEvents a b).crs = b.crs := rfl
@[simp] theorem State.noteEvents_spc (a b : State) : (State.noteEvents a b).spc = b.spc := rfl
@[simp] theorem State.noteEvents_near (a b : State) : (State.noteEvents a b).near = b.near := rfl
@[simp] theorem State.noteEvents_plc (a b : State) : (State.noteEvents a b).plc = b.plc := rfl
@[simp] theorem State.noteEvents_ylx (a b : State) : (State.noteEvents a b).ylx = b.ylx := rfl
@[simp] theorem State.noteEvents_itg (a b : State) : (State.noteEvents a b).itg = b.itg := rfl
@[simp] theorem State.noteEvents_rdg (a b : State) : (State.noteEvents a b).rdg = b.rdg := rfl
@[simp] theorem State.noteEvents_eng (a b : State) : (State.noteEvents a b).eng = b.eng := rfl
@[simp] theorem State.noteEvents_fab (a b : State) : (State.noteEvents a b).fab = b.fab := rfl
@[simp] theorem State.noteEvents_opt (a b : State) : (State.noteEvents a b).opt = b.opt := rfl
@[simp] theorem State.noteEvents_gel (a b : State) : (State.noteEvents a b).gel = b.gel := rfl
@[simp] theorem State.noteEvents_avl (a b : State) : (State.noteEvents a b).avl = b.avl := rfl
@[simp] theorem State.noteEvents_enc (a b : State) : (State.noteEvents a b).enc = b.enc := rfl
@[simp] theorem State.noteEvents_fuse (a b : State) : (State.noteEvents a b).fuse = b.fuse := rfl
@[simp] theorem State.noteEvents_slt (a b : State) : (State.noteEvents a b).slt = b.slt := rfl
@[simp] theorem State.noteEvents_mgm (a b : State) : (State.noteEvents a b).mgm = b.mgm := rfl
@[simp] theorem State.noteEvents_mon (a b : State) : (State.noteEvents a b).mon = b.mon := rfl
@[simp] theorem State.noteEvents_west_course (a b : State) : (State.noteEvents a b).west.course = b.west.course := rfl
@[simp] theorem State.noteEvents_west_armed (a b : State) : (State.noteEvents a b).west.armed = b.west.armed := rfl
@[simp] theorem State.noteEvents_west_events (a b : State) : (State.noteEvents a b).west.events = b.west.events := rfl
@[simp] theorem State.noteEvents_west_unacked (a b : State) : (State.noteEvents a b).west.unacked = b.west.unacked := rfl
@[simp] theorem State.noteEvents_west_slate (a b : State) : (State.noteEvents a b).west.slate = b.west.slate := rfl
@[simp] theorem State.noteEvents_west_counts (a b : State) : (State.noteEvents a b).west.counts = b.west.counts := rfl
@[simp] theorem State.noteEvents_west_dir (a b : State) : (State.noteEvents a b).west.dir = b.west.dir := rfl
@[simp] theorem State.noteEvents_west_pend (a b : State) : (State.noteEvents a b).west.pend = b.west.pend := rfl
@[simp] theorem State.noteEvents_west_recalls (a b : State) : (State.noteEvents a b).west.recalls = b.west.recalls := rfl
@[simp] theorem State.noteEvents_west_aged (a b : State) : (State.noteEvents a b).west.aged = b.west.aged := rfl
@[simp] theorem State.noteEvents_west_retried (a b : State) : (State.noteEvents a b).west.retried = b.west.retried := rfl
@[simp] theorem State.noteEvents_west_held (a b : State) : (State.noteEvents a b).west.held = b.west.held := rfl
@[simp] theorem State.noteEvents_west_caps (a b : State) : (State.noteEvents a b).west.caps = b.west.caps := rfl
@[simp] theorem State.noteEvents_west_mismatches (a b : State) : (State.noteEvents a b).west.mismatches = b.west.mismatches := rfl
@[simp] theorem State.noteEvents_west_staged (a b : State) : (State.noteEvents a b).west.staged = b.west.staged := rfl
@[simp] theorem State.noteEvents_west_tlb (a b : State) : (State.noteEvents a b).west.tlb = b.west.tlb := rfl
@[simp] theorem State.noteEvents_west_unitTlb (a b : State) : (State.noteEvents a b).west.unitTlb = b.west.unitTlb := rfl
@[simp] theorem State.noteEvents_west_walkCache (a b : State) : (State.noteEvents a b).west.walkCache = b.west.walkCache := rfl
@[simp] theorem State.noteEvents_west_redirects (a b : State) : (State.noteEvents a b).west.redirects = b.west.redirects := rfl
@[simp] theorem State.noteEvents_west_leaseHolder (a b : State) : (State.noteEvents a b).west.leaseHolder = b.west.leaseHolder := rfl
@[simp] theorem State.noteEvents_west_leaseSeq (a b : State) : (State.noteEvents a b).west.leaseSeq = b.west.leaseSeq := rfl
@[simp] theorem State.noteEvents_west_leaseCourse (a b : State) : (State.noteEvents a b).west.leaseCourse = b.west.leaseCourse := rfl
@[simp] theorem State.noteEvents_west_running (a b : State) : (State.noteEvents a b).west.running = b.west.running := rfl
@[simp] theorem State.noteEvents_west_ctlMem (a b : State) : (State.noteEvents a b).west.ctlMem = b.west.ctlMem := rfl
@[simp] theorem State.noteEvents_east_course (a b : State) : (State.noteEvents a b).east.course = b.east.course := rfl
@[simp] theorem State.noteEvents_east_armed (a b : State) : (State.noteEvents a b).east.armed = b.east.armed := rfl
@[simp] theorem State.noteEvents_east_events (a b : State) : (State.noteEvents a b).east.events = b.east.events := rfl
@[simp] theorem State.noteEvents_east_unacked (a b : State) : (State.noteEvents a b).east.unacked = b.east.unacked := rfl
@[simp] theorem State.noteEvents_east_slate (a b : State) : (State.noteEvents a b).east.slate = b.east.slate := rfl
@[simp] theorem State.noteEvents_east_counts (a b : State) : (State.noteEvents a b).east.counts = b.east.counts := rfl
@[simp] theorem State.noteEvents_east_dir (a b : State) : (State.noteEvents a b).east.dir = b.east.dir := rfl
@[simp] theorem State.noteEvents_east_pend (a b : State) : (State.noteEvents a b).east.pend = b.east.pend := rfl
@[simp] theorem State.noteEvents_east_recalls (a b : State) : (State.noteEvents a b).east.recalls = b.east.recalls := rfl
@[simp] theorem State.noteEvents_east_aged (a b : State) : (State.noteEvents a b).east.aged = b.east.aged := rfl
@[simp] theorem State.noteEvents_east_retried (a b : State) : (State.noteEvents a b).east.retried = b.east.retried := rfl
@[simp] theorem State.noteEvents_east_held (a b : State) : (State.noteEvents a b).east.held = b.east.held := rfl
@[simp] theorem State.noteEvents_east_caps (a b : State) : (State.noteEvents a b).east.caps = b.east.caps := rfl
@[simp] theorem State.noteEvents_east_mismatches (a b : State) : (State.noteEvents a b).east.mismatches = b.east.mismatches := rfl
@[simp] theorem State.noteEvents_east_staged (a b : State) : (State.noteEvents a b).east.staged = b.east.staged := rfl
@[simp] theorem State.noteEvents_east_tlb (a b : State) : (State.noteEvents a b).east.tlb = b.east.tlb := rfl
@[simp] theorem State.noteEvents_east_unitTlb (a b : State) : (State.noteEvents a b).east.unitTlb = b.east.unitTlb := rfl
@[simp] theorem State.noteEvents_east_walkCache (a b : State) : (State.noteEvents a b).east.walkCache = b.east.walkCache := rfl
@[simp] theorem State.noteEvents_east_redirects (a b : State) : (State.noteEvents a b).east.redirects = b.east.redirects := rfl
@[simp] theorem State.noteEvents_east_leaseHolder (a b : State) : (State.noteEvents a b).east.leaseHolder = b.east.leaseHolder := rfl
@[simp] theorem State.noteEvents_east_leaseSeq (a b : State) : (State.noteEvents a b).east.leaseSeq = b.east.leaseSeq := rfl
@[simp] theorem State.noteEvents_east_leaseCourse (a b : State) : (State.noteEvents a b).east.leaseCourse = b.east.leaseCourse := rfl
@[simp] theorem State.noteEvents_east_running (a b : State) : (State.noteEvents a b).east.running = b.east.running := rfl
@[simp] theorem State.noteEvents_east_ctlMem (a b : State) : (State.noteEvents a b).east.ctlMem = b.east.ctlMem := rfl

/-! ### The frame of a command -/

@[simp] theorem joinFuses_self (a : Fuses) : joinFuses a a = a := by
  cases a; simp [joinFuses, Nat.or_self]

/-- An effect that leaves nothing to do is the whole of its command. -/
theorem State.settle_idle (s : State) (h : s.Quiet) : s.settle = s := by
  have e1 : s.resend = s := by
    have h1 := h.retries
    have h2 := h.fronts
    have h3 := h.todo
    unfold State.resend State.pushAll
    rw [h1, h2]
    cases s with
    | mk p o t nw fr ph nn cr sp ne pl yl it rd en fa op ge we ea av ec fu sl mg mo =>
      cases en
      simp_all
  have e2 : s.endFences = s := by
    have h1 := h.fences
    have h2 := h.waiting
    have h3 := h.behind
    have h4 := h.todo
    unfold State.endFences State.pushAll
    rw [h1]
    cases s with
    | mk p o t nw fr ph nn cr sp ne pl yl it rd en fa op ge we ea av ec fu sl mg mo =>
      cases pl
      simp_all
  have e3 : s.sendRetracts = s := by
    have h1 := h.retracts
    unfold State.sendRetracts
    rw [h1]
    cases s with
    | mk p o t nw fr ph nn cr sp ne pl yl it rd en fa op ge we ea av ec fu sl mg mo =>
      cases it
      simp_all
  unfold State.settle
  rw [e1, State.work_idle _ s h.todo, e2, State.work_idle _ s h.todo, e3]

theorem act_next (c : Instr) (dt : Nat) (s : State) (f : State → State) (hw : c.wf = true) :
    act c dt s f = .next (s.after dt (f (s.begun dt)).settle) := by
  simp [act, run, hw, State.begun, State.after]

/-- An effect that leaves nothing else to do is all that its command does. -/
theorem act_idle (c : Instr) (dt : Nat) (s : State) (f : State → State) (hw : c.wf = true)
    (h : (f (s.begun dt)).Quiet) : act c dt s f = .next (s.after dt (f (s.begun dt))) := by
  rw [act_next c dt s f hw, State.settle_idle _ h]

theorem State.Quiet.begun {s : State} (h : s.Quiet) (dt : Nat) : (s.begun dt).Quiet := ⟨h.1, h.2, h.3, h.4, h.5, h.6, h.7⟩

@[simp] theorem State.begun_todo (s : State) (dt : Nat) : (s.begun dt).todo = s.todo := rfl
@[simp] theorem State.begun_eng (s : State) (dt : Nat) : (s.begun dt).eng = s.eng := rfl

/-! ### Dictionary writes -/

theorem State.takePdu_keeps (s : State) (p : Pdu) :
    (s.takePdu p).mgm = s.mgm ∧ (s.takePdu p).phase = s.phase ∧ (s.takePdu p).avl = s.avl ∧ (s.takePdu p).enc = s.enc ∧
    (s.takePdu p).slt = s.slt ∧ (s.takePdu p).spc = s.spc ∧ (s.takePdu p).crs = s.crs ∧ (s.takePdu p).holder = s.holder ∧
    (s.takePdu p).now = s.now := by
  unfold State.takePdu State.countPort
  rcases p.path with i | _ | ⟨e, hv, c⟩
  all_goals simp [State.holder]

theorem State.reassemble_whole (s : State) (p : Pdu) (index sub : Nat) (hm : bitOf p.flags 1 = false) (ho : p.offset = 0)
    (ht : p.total = p.data.length) (hl : p.total ≤ 131072) (hr : ∀ r ∈ s.mgm.reasm, sameReasm r p index sub = false)
    (he : ∀ r ∈ s.mgm.evicted, sameReasm r p index sub = false) : s.reassemble p index sub = (.inl p.data, s) := by
  have h1 : s.mgm.evicted.any (fun r => sameReasm r p index sub) = false := by
    rw [List.any_eq_false]; intro r hmem; simp [he r hmem]
  have h2 : s.mgm.reasm.find? (fun r => sameReasm r p index sub) = none := by
    rw [List.find?_eq_none]; intro r hmem; simp [hr r hmem]
  have h3 : s.mgm.reasm.filter (fun r => !sameReasm r p index sub) = s.mgm.reasm := by
    rw [List.filter_eq_self]; intro r hmem; simp [hr r hmem]
  have h4 : (decide (p.data.length > p.data.length) || decide (p.data.length > 131072)) = false := by
    simp; omega
  unfold State.reassemble
  simp only [h1, h2, h3, hm, ho, ht, Nat.zero_add, h4, Bool.false_eq_true, if_false, joinSegs, List.foldl,
    List.nil_append, Option.map_none, Option.getD_none, List.length_nil, List.take_nil, List.drop_nil, List.append_nil,
    Nat.le_refl, if_true, beq_self_eq_true]

/-- A write that is taken and is no critical command: its effect on the whole value, then the answer. -/
theorem State.dictWrite_plain (s : State) (p : Pdu) (index sub : Nat) (eff : Bytes → State → Result × State)
    (h : s.Takes p index sub) (hc : cmdClass index sub p.data = none) (ht : p.trailer = none) :
    s.dictWrite p index sub eff =
      (eff p.data (s.takePdu p)).2.answered p index sub (eff p.data (s.takePdu p)).1 := by
  obtain ⟨hg, hp, hm, ho, htot, hl, hk, hr, he, hf, hb, o, hobj, ha1, ha2, hw, hlen⟩ := h
  obtain ⟨km, kp, ka, ke, ks, kx, kc, kh, _⟩ := s.takePdu_keeps p
  have k1 : (s.takePdu p).keptReply p 2 index sub = none := by unfold State.keptReply; rw [km]; exact hk
  have k2 := State.reassemble_whole (s.takePdu p) p index sub hm ho htot hl (by rw [km]; exact hr) (by rw [km]; exact he)
  have k3 : (s.takePdu p).mayWrite p index sub o p.data = true := by
    rw [← hw]; unfold State.mayWrite; simp [State.ctx, kx]
  have k4 : (s.takePdu p).fencedOff p = false := by rw [← hf]; unfold State.fencedOff; rw [ka, kh]
  have k5 : (s.takePdu p).startupBusy index sub p.data = false := by rw [← hb]; unfold State.startupBusy; rw [kp, kc]
  unfold State.dictWrite
  simp only [hg, hp, k1, k2, Bool.not_true, Bool.false_eq_true, if_false]
  unfold State.performWrite
  have kb : (s.takePdu p).writeBarred p index sub o p.data = none := by simp [State.writeBarred, ha1, ha2, k3, k4]
  simp [hobj, kb, k5, hc, ht, hlen, State.answered]

/-- A critical command that is taken with a good trailer: its counter is used, its effect happens, then the answer. -/
theorem State.dictWrite_critical (s : State) (p : Pdu) (index sub k c : Nat) (eff : Bytes → State → Result × State)
    (h : s.Takes p index sub) (hau : s.Authorized p index sub k c) :
    s.dictWrite p index sub eff =
      (eff p.data (s.authorized p k c)).2.answered p index sub (eff p.data (s.authorized p k c)).1 := by
  obtain ⟨hg, hp, hm, ho, htot, hl, hk, hr, he, hf, hb, o, hobj, ha1, ha2, hw, hlen⟩ := h
  obtain ⟨hst, hsb, hpu, t, cls, key, htr, hts, htc, hcls, hk15, hfc, hkey, hlast, hthr, htag, hcnt, hsc⟩ := hau
  obtain ⟨km, kp, ka, ke, ks, kx, kc, kh, kn⟩ := s.takePdu_keeps p
  have k1 : (s.takePdu p).keptReply p 2 index sub = none := by unfold State.keptReply; rw [km]; exact hk
  have k2 := State.reassemble_whole (s.takePdu p) p index sub hm ho htot hl (by rw [km]; exact hr) (by rw [km]; exact he)
  have k3 : (s.takePdu p).mayWrite p index sub o p.data = true := by
    rw [← hw]; unfold State.mayWrite; simp [State.ctx, kx]
  have k4 : (s.takePdu p).fencedOff p = false := by rw [← hf]; unfold State.fencedOff; rw [ka, kh]
  have k5 : (s.takePdu p).startupBusy index sub p.data = false := by rw [← hb]; unfold State.startupBusy; rw [kp, kc]
  have k6 : (s.takePdu p).slateBusy index sub = false := by rw [← hsb]; unfold State.slateBusy; rw [ks]
  have kslot : ∀ i, (s.takePdu p).slot i = s.slot i := by intro i; simp [State.slot, ke]
  have k7 : (s.takePdu p).verify p index sub cls p.data = (none, s.authorized p k c) := by
    subst hts htc
    have hfc' : (s.takePdu p).firstClaim p index sub t p.data = false := by
      rw [← hfc]; unfold State.firstClaim State.owned; simp [State.slot, ke]
    have hsc' : bitOf ((((s.takePdu p).tagGood t.slot).useCounter t.slot t.counter).scopeOf t.slot) cls = true := by
      rw [← hsc]
      unfold State.scopeOf State.tagGood State.useCounter
      simp [kslot]
    unfold State.verify
    rw [htr]
    simp only [ke, hst, hfc', kslot, hkey, hthr, htag]
    have : ¬ (15 < t.slot) := by omega
    simp [this, hlast, Nat.not_le.mpr hcnt, hsc', State.authorized]
  unfold State.dictWrite
  simp only [hg, hp, k1, k2, Bool.not_true, Bool.false_eq_true, if_false]
  unfold State.performWrite
  have k8 : (!(s.takePdu p).avl.purlinUp && (s.takePdu p).holder == Half.east) = false := by
    rw [ka, kh]
    rcases hpu with h | h <;> simp [h]
  have kb : (s.takePdu p).writeBarred p index sub o p.data = none := by simp [State.writeBarred, ha1, ha2, k3, k4]
  simp [hobj, kb, k5, hcls, htr, k6, k8, k7, hlen, State.answered]

end Sys2Proof.Machine
end

