-- ==== Sys2Proof/Laws/Transport.lean ====
section
/-! SUPPORT. Sending a message touches only what leaves the device, the fabric, the Geled Link and counts: one relation,
and a lemma for each operation that sends. -/

namespace Sys2Proof.Machine

/-- A half without its counts and registers. -/
def HalfSt.core (x : HalfSt) : HalfSt := { x with counts := [], regs := {} }

/-- `t` is `s` after sending: everything but messages, ports, link ends and counts is as it was. -/
structure State.Sends (s t : State) : Prop where
  pending : t.pending = s.pending
  todo : t.todo = s.todo
  now : t.now = s.now
  free : t.free = s.free
  phase : t.phase = s.phase
  nodeNum : t.nodeNum = s.nodeNum
  crs : t.crs = s.crs
  spc : t.spc = s.spc
  near : t.near = s.near
  plc : t.plc = s.plc
  ylx : t.ylx = s.ylx
  itg : t.itg = s.itg
  rdg : t.rdg = s.rdg
  eng : t.eng = s.eng
  opt : t.opt = s.opt
  avl : t.avl = s.avl
  enc : t.enc = s.enc
  fuse : t.fuse = s.fuse
  slt : t.slt = s.slt
  mgm : t.mgm = s.mgm
  mon : t.mon = s.mon
  west : t.west.core = s.west.core
  east : t.east.core = s.east.core

namespace State

theorem Sends.refl (s : State) : s.Sends s := by constructor <;> rfl

theorem Sends.trans {s t u : State} (h : s.Sends t) (k : t.Sends u) : s.Sends u := by
  obtain ⟨a1, a2, a3, a4, a5, a6, a7, a8, a9, a10, a11, a12, a13, a14, a15, a16, a17, a18, a19, a20, a21, a22, a23⟩ := h
  obtain ⟨b1, b2, b3, b4, b5, b6, b7, b8, b9, b10, b11, b12, b13, b14, b15, b16, b17, b18, b19, b20, b21, b22, b23⟩ := k
  constructor
  all_goals first | exact b1.trans a1 | exact b2.trans a2 | exact b3.trans a3 | exact b4.trans a4 | exact b5.trans a5 |
    exact b6.trans a6 | exact b7.trans a7 | exact b8.trans a8 | exact b9.trans a9 | exact b10.trans a10 |
    exact b11.trans a11 | exact b12.trans a12 | exact b13.trans a13 | exact b14.trans a14 | exact b15.trans a15 |
    exact b16.trans a16 | exact b17.trans a17 | exact b18.trans a18 | exact b19.trans a19 | exact b20.trans a20 |
    exact b21.trans a21 | exact b22.trans a22 | exact b23.trans a23

theorem Sends.foldl {α : Type} (f : State → α → State) (hf : ∀ (s : State) x, s.Sends (f s x)) (l : List α) (s : State) :
    s.Sends (l.foldl f s) := by
  induction l generalizing s with
  | nil => exact Sends.refl s
  | cons x t ih => exact (hf s x).trans (ih (f s x))

theorem sends_count (s : State) (h : Half) (i j n : Nat) : s.Sends (s.count h i j n) := by
  cases h <;> constructor <;> rfl

theorem sends_emit (s : State) (o : Out) : s.Sends (s.emit o) := by constructor <;> rfl

theorem sends_emitAll (s : State) (os : List Out) : s.Sends (s.emitAll os) := by constructor <;> rfl

theorem sends_modPort (s : State) (p : Nat) (f : Port → Port) : s.Sends (s.modPort p f) := by constructor <;> rfl

theorem sends_modGeled (s : State) (e : Half) (f : GEnd → GEnd) : s.Sends (s.modGeled e f) := by
  cases e <;> constructor <;> rfl

theorem sends_raiseEvt (s : State) (h : Half) (b : Nat) : s.Sends (s.raiseEvt h b) := by
  cases h <;> constructor <;> rfl

theorem sends_portFlash (s : State) (p units : Nat) (c : List Pkt) : s.Sends (s.portFlash p units c) := by
  unfold portFlash
  rcases intoFlash (s.port p).link s.now units c with ⟨l, n⟩
  cases n with
  | none => exact sends_modPort _ _ _
  | some q => exact (sends_modPort _ _ _).trans (sends_emit _ _)

theorem sends_offer (s : State) (p : Nat) (x : Pkt) : s.Sends (s.offer p x) := by
  unfold offer
  simp only
  split
  · exact (((sends_modPort _ _ _).trans (sends_portFlash _ _ _ _)).trans (sends_count _ _ _ _ _)).trans (sends_emit _ _)
  · exact sends_modPort _ _ _

theorem sends_drainPort (s : State) (p : Nat) : s.Sends (s.drainPort p) := by
  unfold drainPort
  simp only
  refine Sends.trans (t := _) ?_ (Sends.foldl _ (fun s x => sends_offer s p x) _ _)
  refine Sends.trans ?_ (sends_modPort _ _ _)
  split
  · split
    · exact sends_count _ _ _ _ _
    · exact Sends.refl _
  · split
    · exact sends_count _ _ _ _ _
    · exact Sends.refl _

theorem sends_bseq (s : State) (n : Nat) : s.Sends { s with fab.bseq := n } := by constructor <;> rfl

theorem sends_closeBatch (s : State) (p vc : Nat) : s.Sends (s.closeBatch p vc) := by
  unfold closeBatch
  split
  · exact Sends.refl _
  · simp only
    split
    · refine Sends.trans ?_ (sends_emit _ _)
      refine Sends.trans ?_ (sends_count _ _ _ _ _)
      refine Sends.trans ?_ (sends_portFlash _ _ _ _)
      refine Sends.trans ?_ (sends_modPort _ _ _)
      split
      · exact sends_count _ _ _ _ _
      · exact (sends_bseq _ _).trans (sends_count _ _ _ _ _)
    · exact sends_modPort _ _ _

theorem sends_drainBatches (s : State) (p : Nat) : s.Sends (s.drainBatches p) := by
  unfold drainBatches
  apply Sends.foldl
  intro s b
  split
  · split
    · exact sends_closeBatch _ _ _
    · exact Sends.refl _
  · exact Sends.refl _

theorem sends_sealBatch (s : State) (p vc : Nat) : s.Sends (s.sealBatch p vc) :=
  (sends_modPort _ _ _).trans (sends_drainBatches _ _)

theorem sends_intoBatch (s : State) (p : Nat) (x : Pkt) : s.Sends (s.intoBatch p x) := by
  have rest : ∀ (t : State) (f : Port → Port) (b : Bool),
      t.Sends (if b then (t.modPort p f).sealBatch p x.vc else t.modPort p f) := by
    intro t f b; cases b
    · exact sends_modPort _ _ _
    · exact (sends_modPort _ _ _).trans (sends_sealBatch _ _ _)
  unfold intoBatch
  dsimp only
  by_cases h : ((s.port p).batches.any (fun b => b.vc == x.vc && !b.closed && decide (8192 < b.units + x.units))) = true
  · simp only [if_pos h]; exact (sends_sealBatch s p x.vc).trans (rest _ _ _)
  · simp only [if_neg h]; exact rest _ _ _

theorem sends_toPort (s : State) (p : Nat) (x : Pkt) : s.Sends (s.toPort p x) := by
  unfold toPort
  split
  · exact sends_intoBatch _ _ _
  · exact sends_offer _ _ _

theorem sends_route (s : State) (x : Pkt) : s.Sends (s.route x).2 := by
  unfold route
  split
  · exact Sends.refl _
  · exact (sends_modPort _ _ _).trans (sends_toPort _ _ _)
  · exact (sends_modPort _ _ _).trans (sends_offer _ _ _)
  · split
    · exact sends_intoBatch _ _ _
    · exact sends_modPort _ _ _
  · exact Sends.refl _

theorem sends_control (s : State) (d units : Nat) (m : Msg) : s.Sends (s.control d units m) := sends_route _ _

theorem sends_offerGeled (s : State) (e : Half) (hv : Bool) (m : Msg) : s.Sends (s.offerGeled e hv m) := by
  unfold offerGeled
  rcases geledChannel m with ⟨vc, n⟩
  simp only
  split
  · rcases intoFlash (s.geled e).link s.now n [] with ⟨l, f⟩
    refine Sends.trans ?_ (sends_emit _ _)
    refine Sends.trans ?_ (sends_modGeled _ _ _)
    cases f with
    | none => exact Sends.refl _
    | some q => exact sends_emit _ _
  · exact sends_modGeled _ _ _

theorem sends_toCompanion (s : State) (e : Half) (hv : Bool) (m : Msg) : s.Sends (s.toCompanion e hv m) := by
  unfold toCompanion
  split
  · exact sends_offerGeled _ _ _ _
  · split
    · exact sends_offerGeled _ _ _ _
    · split
      · exact Sends.refl _
      · exact sends_offerGeled _ _ _ _

theorem sends_sendTo (s : State) (d : Party) (vc units : Nat) (m : Msg) : s.Sends (s.sendTo d vc units m) := by
  unfold sendTo
  split
  · exact sends_toPort _ _ _
  · exact sends_toCompanion _ _ _ _
  · exact sends_route _ _
  · exact sends_emit _ _
  · exact Sends.refl _
  · exact Sends.refl _

theorem sends_sendIntegrity (s : State) (d : Party) (op reason ctx job node serial course : Nat) :
    s.Sends (s.sendIntegrity d op reason ctx job node serial course) := sends_sendTo _ _ _ _ _

theorem sends_coordinate (s : State) (node kind ans t n ga : Nat) : s.Sends (s.coordinate node kind ans t n ga) :=
  sends_control _ _ _ _

/-! ### Answers of the dictionary -/

/-- Answering a dictionary request changes nothing but what sending changes and the management state. -/
theorem answered_keeps (v : State) (p : Pdu) (index sub : Nat) (x : Result) :
    ∃ m, State.Sends { v with mgm := m } (v.answered p index sub x) := by
  have hc : ∀ s : State, s.Sends (s.countAuth x) := by
    intro s; unfold countAuth; split
    · exact sends_count _ _ _ _ _
    · split
      · exact sends_count _ _ _ _ _
      · exact Sends.refl _
  have hm : ∀ (s : State) (m : Mgmt), ({ s with mgm := m } : State).countAuth x = { s.countAuth x with mgm := m } := by
    intro s m; unfold countAuth; split
    · rfl
    · split <;> rfl
  unfold answered answerWrite
  have keep : ∀ (s : State) (r : Option WReply), ∃ m, s.keepReply p 2 index sub r = { s with mgm := m } := by
    intro s r
    unfold keepReply
    simp only
    repeat' split
    all_goals exact ⟨_, rfl⟩
  split
  · obtain ⟨m, e⟩ := keep (v.countAuth x) none
    refine ⟨m, ?_⟩
    rw [e, ← hm]
    exact hc _
  · obtain ⟨m, e⟩ := keep (v.countAuth x) (some (replyPdu p index sub x 0 x.data.length))
    simp only [e]
    unfold sendWaest
    split
    · rename_i e' hv c _
      refine ⟨{ m with mailbox := m.mailbox.erase p.src }, ?_⟩
      refine Sends.trans (t := ({ v.countAuth x with mgm := { m with mailbox := m.mailbox.erase p.src } } : State)) ?_ (sends_toCompanion _ _ _ _)
      rw [← hm]; exact hc _
    · refine ⟨m, ?_⟩
      refine Sends.trans ?_ (sends_emit _ _)
      refine Sends.trans (t := ({ v.countAuth x with mgm := m } : State)) ?_ ?_
      · rw [← hm]; exact hc _
      · unfold countPort
        split
        · exact sends_count _ _ _ _ _
        · exact Sends.refl _

end State
end Sys2Proof.Machine
end

