-- ==== Sys2Proof/Laws/Served.lean ====
section
/-! SUPPORT. How a request of another node reaches the memory of its home when nothing is in its way, and what the home
answers. -/

namespace Sys2Proof.Machine
namespace State

theorem sends_modNode (s : State) (n : Nat) (f : Node → Node) : s.Sends (s.modNode n f) := by constructor <;> rfl

theorem sends_countArrival (s : State) (v : Via) (vc units : Nat) : s.Sends (s.countArrival v vc units) := by
  unfold countArrival
  split
  · unfold portArrival
    refine Sends.trans ?_ (sends_emit _ _)
    refine Sends.trans ?_ (sends_count _ _ _ _ _)
    refine Sends.trans ?_ (sends_modPort _ _ _)
    split
    · exact sends_modNode _ _ _
    · exact Sends.refl _
  · exact Sends.refl _

theorem Sends.half {s t : State} (k : s.Sends t) (h : Half) : (t.half h).core = (s.half h).core := by
  cases h
  · exact k.west
  · exact k.east

theorem Sends.slate {s t : State} (k : s.Sends t) (h : Half) : (t.half h).slate = (s.half h).slate := by
  simpa [HalfSt.core] using congrArg HalfSt.slate (k.half h)

theorem Sends.cfg {s t : State} (k : s.Sends t) (h : Half) (i j : Nat) : t.cfg h i j = s.cfg h i j := by
  simp [State.cfg, slateBytes, k.slate h]

theorem Sends.cfgBit {s t : State} (k : s.Sends t) (h : Half) (i j b : Nat) : t.cfgBit h i j b = s.cfgBit h i j b := by
  simp [State.cfgBit, k.cfg]

theorem Sends.holder {s t : State} (k : s.Sends t) : t.holder = s.holder := by
  have w := k.west
  have e := k.east
  have w1 : t.west.leaseSeq = s.west.leaseSeq := by simpa [HalfSt.core] using congrArg HalfSt.leaseSeq w
  have w2 : t.west.leaseHolder = s.west.leaseHolder := by simpa [HalfSt.core] using congrArg HalfSt.leaseHolder w
  have e1 : t.east.leaseSeq = s.east.leaseSeq := by simpa [HalfSt.core] using congrArg HalfSt.leaseSeq e
  have e2 : t.east.leaseHolder = s.east.leaseHolder := by simpa [HalfSt.core] using congrArg HalfSt.leaseHolder e
  simp [State.holder, w1, w2, e1, e2]

theorem Sends.roleOf {s t : State} (k : s.Sends t) (p : Nat) : t.roleOf p = s.roleOf p := by
  have e : t.gcfg 0x20D1 (p + 1) = s.gcfg 0x20D1 (p + 1) := by unfold gcfg; rw [k.cfg, k.holder]
  unfold State.roleOf; rw [e]

theorem Sends.entersHere {s t : State} (k : s.Sends t) (v : Via) : t.entersHere v = s.entersHere v := by
  cases v <;> simp [State.entersHere, k.roleOf]

theorem Sends.isSelf {s t : State} (k : s.Sends t) (n : Nat) : t.isSelf n = s.isSelf n := by
  simp [State.isSelf, k.nodeNum]

theorem Sends.at' {s t : State} (k : s.Sends t) (h : Half) (f : HalfSt → α) (hf : ∀ x, f x.core = f x) :
    f (t.half h) = f (s.half h) := by
  rw [← hf (t.half h), k.half, hf]

/-- Sending leaves nothing to do. -/
theorem Sends.quiet {s t : State} (k : s.Sends t) (h : s.Quiet) : t.Quiet :=
  ⟨by rw [k.todo]; exact h.1, by rw [k.eng]; exact h.2, by rw [k.eng]; exact h.3, by rw [k.near]; exact h.4,
    by rw [k.plc]; exact h.5, by rw [k.plc]; exact h.6, by rw [k.itg]; exact h.7⟩

theorem Served.mono {s t : State} {q : Req} {off n : Nat} (h : s.Served q off n) (k : s.Sends t) : t.Served q off n := by
  have hh := fun (g : Half) (α : Type) (f : HalfSt → α) (hf : ∀ x, f x.core = f x) => Sends.at' k g f hf
  constructor
  · exact k.quiet h.quiet
  · rw [k.entersHere]; exact h.fabric
  · rw [k.isSelf]; exact h.dst
  · intro p hp; rw [k.cfgBit]; exact h.bucket p hp
  · rw [k.phase]; exact h.service
  · exact h.ctx
  · exact h.job
  · exact h.cap
  · exact h.taint
  · exact h.fresh
  · rw [k.nodeNum]; exact h.number
  · rw [k.nodeNum]; exact h.home
  · exact h.place
  · exact h.some'
  · exact h.near
  · rw [k.avl]; exact h.purlin
  · rw [k.rdg]; exact h.mode
  · rw [← h.space]; simp [inSpace, k.plc, k.isSelf]
  · obtain ⟨a, x, h1, h2⟩ := h.granted
    exact ⟨a, x, by rw [← h1]; simp [extentAt, k.spc], h2⟩
  · rw [k.plc]; exact h.placed
  · rw [k.ylx]; exact h.rows
  · rw [k.avl]; exact h.serving
  · rw [k.rdg]; exact h.ridge
  · rw [hh _ _ HalfSt.dir (fun _ => rfl), hh _ _ HalfSt.aged (fun _ => rfl)]; exact h.lines
  · intro g
    rw [hh g _ HalfSt.caps (fun _ => rfl), hh g _ HalfSt.held (fun _ => rfl), hh g _ HalfSt.retried (fun _ => rfl)]
    exact h.waits g
  · rw [k.itg]; exact h.groups
  · have w := hh .west _ HalfSt.staged (fun _ => rfl)
    have e := hh .east _ HalfSt.staged (fun _ => rfl)
    exact ⟨w.trans h.staged.1, e.trans h.staged.2⟩
  · rw [k.cfgBit]; exact h.uncounted
  · rw [k.near]; exact h.stack
  · intro b hb; simp only [metaOf, k.near]; exact h.confirmed b hb

theorem Served.begun {s : State} {q : Req} {off n : Nat} (h : s.Served q off n) (dt : Nat) : (s.begun dt).Served q off n := by
  obtain ⟨a1, a2, a3, a4, a5, a6, a7, a8, a9, a10, a11, a12, a13, a14, a15, a16, a17, a18, a19, a20, a21, a22, a23, a24, a25, a26, a27, a28, a29, a30⟩ := h
  exact ⟨a1.begun dt, a2, a3, a4, a5, a6, a7, a8, a9, a10, a11, a12, a13, a14, a15, a16, a17, a18, a19, a20, a21, a22, a23, a24, a25, a26, a27, a28, a29, a30⟩

theorem Served.heard {s : State} {q : Req} {off n : Nat} (h : s.Served q off n) (dt : Nat) : (s.heard dt q).Served q off n :=
  (h.begun dt).mono (sends_countArrival _ _ _ _)

theorem foldl_fixed {α β : Type} (f : β → α → β) (b : β) (l : List α) (h : ∀ x, f b x = b) : l.foldl f b = b := by
  induction l with
  | nil => rfl
  | cons x t ih => simp [List.foldl_cons, h, ih]

theorem foldl_fixed_mem {α β : Type} (f : β → α → β) (b : β) (l : List α) (h : ∀ x ∈ l, f b x = b) : l.foldl f b = b := by
  induction l with
  | nil => rfl
  | cons x t ih => rw [List.foldl_cons, h x (by simp)]; exact ih (fun y hy => h y (by simp [hy]))

/-- The way to the ridge is free. -/
theorem Served.homeGo {s : State} {q : Req} {off n : Nat} (h : s.Served q off n) (a : Acc) (ha : a.q = q) (hn : accBytes a = n)
    (hop : a.op = .read ∨ a.op = .write ∨ a.op = .bget ∨ a.op = .bput ∨ (a.op = .atomic ∧ s.cfg (offHalf off) 0x20C0 1 ≠ 0))
    (hga : a.ga = q.addr) :
    s.homeGo a off = s.perform { a with passed := true } off := by
  obtain ⟨k, x, hx, hst⟩ := h.granted
  have hne : ∀ l, s.entryOf (offHalf off) l = none := by intro l; simp [entryOf, h.lines.1, tget]
  have hrec : ∀ l, s.reclaimLine (offHalf off) l = s := by intro l; simp [reclaimLine, hne]
  have hpub : (a.op == MemOp.pub) = false := by rcases hop with e | e | e | e | ⟨e, _⟩ <;> simp [e]
  unfold State.homeGo
  simp only [hpub, Bool.false_eq_true, if_false]
  unfold atHome
  have w := h.waits .west
  have e := h.waits .east
  simp only [State.half] at w e
  have hf : s.mustFollow a true = false := by
    simp [mustFollow, w.1, w.2.1, e.1, e.2.1, h.ridge.2, h.quiet.behind, h.quiet.waiting, h.groups]
  have hci : capIgnored a = false := by simp [capIgnored, ha, h.cap]
  have hcp : capping a = false := by simp [capping, ha, h.cap]
  simp only [hci, hcp, hf, w.2.2, e.2.2, List.append_nil, List.find?_nil, Bool.false_and, Bool.and_false, Bool.false_eq_true, if_false]
  unfold atRidge
  have hv : ∀ l, s.isVersionLine l = false := by intro l; simp [isVersionLine, h.ridge.1]
  have hrf : s.refusal (offHalf off) a off = none := by
    have h1 := h.near
    have h2 := h.some'
    have hsz : ¬ (off ≥ nearSize) := by omega
    have hsz2 : ¬ (off + accBytes a > nearSize) := by omega
    have hat : (a.op == MemOp.atomic || a.op == MemOp.rowAdd) = true → s.cfg (offHalf off) 0x20C0 1 ≠ 0 := by
      rcases hop with e | e | e | e | ⟨e, e2⟩ <;> simp [e]
      exact e2
    unfold refusal
    simp only [hsz, hsz2, decide_false, Bool.or_false, Bool.false_eq_true, if_false, ha, h.taint, Bool.false_and, h.purlin]
    have : (s.rdg.mode == 0) = false := by simp [h.mode]
    simp only [this, Bool.not_true, Bool.false_and, Bool.false_eq_true, if_false]
    have hany : (accLines a off).any s.isVersionLine = false := by simp [List.any_eq_false, hv]
    simp only [hany, Bool.and_false, Bool.false_eq_true, if_false]
    by_cases hc : s.cfg (offHalf off) 0x20C0 1 = 0
    · have : (a.op == MemOp.atomic || a.op == MemOp.rowAdd) = false := by
        cases hb : (a.op == MemOp.atomic || a.op == MemOp.rowAdd)
        · rfl
        · exact absurd hc (hat hb)
      simp [this]
    · simp [hc]
  dsimp only
  rw [hrf]
  have hg : s.isSelf (gaNode (s.homeGa a.ga)) = true := by
    rw [hga]; simp [homeGa, h.home, h.number, isSelf]
  have hec : s.extentCheck a.q.ctx a.ga off = none := by
    unfold extentCheck
    rw [ha]
    have hc : (q.ctx == 0) = false := by simp [h.ctx]
    have hat : gaOff (s.homeGa a.ga) = off := by rw [hga]; simp [homeGa, h.home, h.number, h.place]
    simp [hc, hg, h.quiet.fences, h.space, hx, hst, hat]
  rw [hec]
  dsimp only
  rw [ite_self]
  dsimp only
  generalize hb : ({ a with passed := true } : Acc) = b
  have hbq : b.q = q := by rw [← hb]; exact ha
  have hbo : b.op = a.op := by rw [← hb]
  have hage : ∀ l, s.ageGate (offHalf off) b l false = (true, s) := by
    intro l; simp [ageGate, h.lines.2, hbq, Nat.not_le.mpr h.fresh]
  unfold pastFence
  have hadm : s.admitTainted (offHalf off) b off = none := by simp [admitTainted, hbq, h.taint]
  simp only [hadm]
  have hco : s.coherePlain (offHalf off) b off [] = s.perform b off := by
    unfold coherePlain
    dsimp only
    rw [foldl_fixed (fun s l => s.reclaimLine (offHalf off) l) s _ (fun l => hrec l)]
    rw [foldl_fixed _ ((true, s) : Bool × State) _ (fun l => by simp [hne, hage])]
    first
      | (simp [hne]; done)
      | (simp [hne]; rw [List.filterMap_eq_nil_iff.mpr (by simp)]; rfl)
  rcases hop with e | e | e | e | ⟨e, _⟩ <;> simp [hbo, e, hco]

theorem Served.entryReq {s : State} {q : Req} {off n : Nat} (h : s.Served q off n) : s.entryReq q = q := by
  simp [State.entryReq, h.fabric]

theorem Served.requester {s : State} {q : Req} {off n : Nat} (h : s.Served q off n) :
    s.requester q = .node q.src q.sid := by
  have hf := h.fabric
  unfold State.requester
  rcases hv : q.via with p | p | ⟨e, b⟩ <;> simp_all [State.entersHere]

theorem Served.entryAcc {s : State} {q : Req} {off n : Nat} (h : s.Served q off n) (op : MemOp) :
    s.entryAcc op q = { op := op, q := q, ga := q.addr, org := .remote (.node q.src q.sid) } := by
  simp [State.entryAcc, h.fabric, h.requester]

/-- A well-formed request gets past the bucket and stage 1, to its home. -/
theorem Served.letIn {s : State} {q : Req} {off n : Nat} (h : s.Served q off n) (a : Acc) (ha : a.q = q)
    (hga : a.ga = q.addr) (hop : a.op ≠ .pub) : s.letIn a = s.homeGo a off := by
  have hj : (q.job == 0xFFFF) = false := by simp [h.job]
  have hc : (q.ctx == 0) = false := by simp [h.ctx]
  have hb : s.bucketPass a.op q q.src = (true, s) := by
    have hp : ∀ p, (q.via = .port p ∨ q.via = .batch p ∨ ∃ t, q.via = .onward p t) →
        (if !s.cfgBit (portHalf p) 0x20D0 1 2 || q.job == 0xFFFF then (true, s)
          else s.bucketTake p q.src q.ctx (bucketCost a.op q)) = (true, s) := by
      intro p e; simp [h.bucket p e]
    unfold bucketPass chargeBucket
    dsimp only
    split
    · rfl
    · split
      · exact hp _ (.inl ‹_›)
      · exact hp _ (.inr (.inl ‹_›))
      · split
        · rfl
        · exact hp _ (.inr (.inr ⟨_, ‹_›⟩))
      · rfl
  have hs : s.stage1 q = none := by
    unfold stage1
    have hf := h.fabric
    simp only [h.service, Nat.lt_irrefl, decide_false, Bool.false_and, Bool.false_eq_true, if_false]
    rcases hv : q.via with p | p | ⟨e, b⟩ <;> simp_all [State.entersHere]
  have hw : s.writeBackTo a = none := by simp [writeBackTo, ha, hc, h.ctx]
  have hn : s.noteArrival a = s := by
    have hg : s.goLive (s.homeGa a.ga / 65536) = s := by simp [goLive, h.placed.1, tget]
    simp [noteArrival, ha, h.job, hg, h.placed.2.2.1, h.rows.1, tget, tgetD]
  have hsw : s.switching a.ga = false := by simp [switching, h.placed.2.2.2, blockAtGa, h.rows.2]
  have hl : s.locateHere a.ga = .near off := by
    simp [locateHere, hga, homeGa, h.home, h.number, isSelf, h.placed.2.1, tget, movedTo, h.rows.1, admittedTo, h.serving, h.place]
  unfold State.letIn
  simp only [ha, h.fabric, h.dst, hb, hs, hw, hn, hl, hsw]
  simp [hop]

/-- The home's answer goes straight to the node that asked. -/
theorem Served.answer {s : State} {q : Req} {off n : Nat} (h : s.Served q off n) (a : Acc) (r : Reply) (d : Party)
    (ho : a.org = .remote d) (hga : a.ga = q.addr) (hw : a.waited = false) (hf : a.fell = false) (hr : r.status ≠ .retry) :
    s.answer (offHalf off) a r = s.sendReply d a r := by
  have hself : s.isSelf (gaNode a.ga) = true := by rw [hga, h.home]; simp [isSelf]
  have e1 : ∀ f : HalfSt → HalfSt, f (s.half (offHalf off)) = s.half (offHalf off) → s.modHalf (offHalf off) f = s := by
    intro f hf
    cases hh : offHalf off <;> simp only [hh, State.half] at hf <;> simp [modHalf, hf]
  have h2 : s.noteRetry (offHalf off) a r.status = s := by
    unfold noteRetry
    split
    · simp only [hr, beq_iff_eq, if_false]
      apply e1
      have := (h.waits (offHalf off)).2.2
      generalize s.half (offHalf off) = x at this
      cases x; simp_all
    · rfl
  have h3 : s.ageDone (offHalf off) a = s := by
    simp [ageDone, h.lines.2]
  unfold State.answer
  simp [ho, hself, hr, hw, hf, h2, h3, h.quiet.behind, State.finish, State.finishAt, State.deliver]

theorem countAccess_off (s : State) (h : Half) (a : Acc) (hc : s.cfgBit h 0x2070 1 0 = false) : s.countAccess h a = s := by
  simp [countAccess, hc]

theorem retiredAt_none (s : State) (off : Nat) (h : s.near.stackRecs = []) : s.retiredAt off = false := by
  simp [retiredAt, stackRec, h, tgetD, tget]

theorem retiredIn_none (s : State) (off n : Nat) (h : s.near.stackRecs = []) : s.retiredIn off n = false := by
  simp [retiredIn, retiredAt_none s _ h]

theorem uncopied_none (s : State) (l : Nat) (h : s.near.stackRecs = []) : s.uncopied l = false := by
  simp [uncopied, stackRec, h, tgetD, tget]

theorem markCopied_none (s : State) (l : Nat) (h : s.near.stackRecs = []) : s.markCopied l = s := by
  simp [markCopied, uncopied_none s l h]

theorem Served.readBlocked {s : State} {q : Req} {off n : Nat} (h : s.Served q off n) (hc : s.Clean off n) :
    s.readBlocked off n = none := by
  have h1 : (linesOf off n).any s.poisoned = false := by rw [List.any_eq_false]; intro l hl; simp [hc l hl]
  have h2 : (blocksOf off n).any (fun b => (s.metaOf b).st == 2) = false := by
    rw [List.any_eq_false]; intro b hb; simp [h.confirmed b hb]
  simp [State.readBlocked, retiredIn_none s off _ h.stack, h1, h2]

theorem Served.rangeId {s : State} {q : Req} {off n : Nat} (h : s.Served q off n) : s.rangeId off n = none := by
  unfold State.rangeId
  rw [List.findSome?_eq_none_iff]
  intro b hb
  simp [h.confirmed b hb]

theorem Served.doRead {s : State} {q : Req} {off n : Nat} (h : s.Served q off n) (a : Acc) (ha : a.q = q) (hop : a.op = .read)
    (ho : a.org = .remote (.node q.src q.sid)) (hga : a.ga = q.addr) (hw : a.waited = false) (hf : a.fell = false)
    (hn : q.size = n) (hc : s.Clean off n) :
    s.perform a off = s.sendReply (.node q.src q.sid) a
      { data := s.loadBytes off n, tg := (s.metaOf (off / 4096)).tag } := by
  unfold perform
  dsimp only
  rw [countAccess_off _ _ _ h.uncounted]
  simp only [hop]
  unfold State.doRead
  rw [ha, hn, h.readBlocked hc]
  have hrow : s.countRow (offHalf off) a.ga true = s := by simp [countRow, h.rows.2]
  have hu : (linesOf off n).any s.uncopied = false := by
    rw [List.any_eq_false]; intro l _; simp [uncopied_none s l h.stack]
  have hm : (linesOf off n).foldl markCopied s = s := foldl_fixed _ _ _ (fun l => markCopied_none s l h.stack)
  dsimp only
  rw [hrow]
  simp only [ite_self, hu, hm, Bool.false_and, Bool.false_eq_true, if_false, h.rangeId, ha]
  rw [h.answer a _ _ ho hga hw hf (by simp)]

theorem modHalf_self (s : State) (h : Half) (f : HalfSt → HalfSt) (hf : f (s.half h) = s.half h) : s.modHalf h f = s := by
  cases h <;> simp only [State.half] at hf <;> simp [modHalf, hf]

theorem setMeta_st (s : State) (b c : Nat) (f : Meta → Meta) (hf : ∀ m, (f m).st = m.st ∧ (f m).tag = m.tag) :
    ((s.setMeta b f).metaOf c).st = (s.metaOf c).st ∧ ((s.setMeta b f).metaOf c).tag = (s.metaOf c).tag := by
  unfold metaOf setMeta
  by_cases e : c = b
  · subst e; simp [hf]
  · simp [tgetD_tmod_ne _ _ _ e]

/-- A write without a spar keeps every block's state and tag (R202). -/
structure KeepsState (s t : State) : Prop where
  all : ∀ c, (t.metaOf c).st = (s.metaOf c).st ∧ (t.metaOf c).tag = (s.metaOf c).tag
  rest : { t with near.mem := s.near.mem, near.clean := s.near.clean, near.metas := s.near.metas } = s

theorem KeepsState.refl (s : State) : KeepsState s s := ⟨fun _ => ⟨rfl, rfl⟩, rfl⟩
theorem KeepsState.trans {s t u : State} (h : KeepsState s t) (k : KeepsState t u) : KeepsState s u := by
  refine ⟨fun c => ⟨(k.all c).1.trans (h.all c).1, (k.all c).2.trans (h.all c).2⟩, ?_⟩
  have h2 := h.rest
  have k2 := k.rest
  rw [← h2, ← k2]

theorem keeps_setMeta (s : State) (b : Nat) (f : Meta → Meta) (hf : ∀ m, (f m).st = m.st ∧ (f m).tag = m.tag) :
    KeepsState s (s.setMeta b f) := ⟨fun c => setMeta_st s b c f hf, rfl⟩

theorem keeps_cleanLine (s : State) (l : Nat) : KeepsState s (s.cleanLine l) := by
  unfold cleanLine
  dsimp only
  have k : KeepsState s ({ s with near.clean := insNat l s.near.clean } : State) := ⟨fun _ => ⟨rfl, rfl⟩, rfl⟩
  split
  · exact k.trans (keeps_setMeta _ _ _ (fun _ => ⟨rfl, rfl⟩))
  · exact k

theorem KeepsState.foldl {α : Type} (f : State → α → State) (hf : ∀ s x, KeepsState s (f s x)) (l : List α) (s : State) :
    KeepsState s (l.foldl f s) := by
  induction l generalizing s with
  | nil => exact KeepsState.refl s
  | cons x t ih => exact (hf s x).trans (ih _)

theorem keeps_writeInBlock (s : State) (off : Nat) (bs : Bytes) : KeepsState s (s.writeInBlock off bs) := by
  unfold writeInBlock
  by_cases hr : s.retiredAt off = true
  · rw [if_pos hr]; exact KeepsState.refl s
  rw [if_neg hr]
  dsimp only
  refine KeepsState.trans ?_ (KeepsState.foldl _ ?_ _ _)
  · have k : ∀ u : State, KeepsState u (u.storeBytes off bs) := fun u => ⟨fun _ => ⟨rfl, rfl⟩, rfl⟩
    split
    · exact k _
    · refine KeepsState.trans (keeps_setMeta s (off / 4096) _ ?_) (k _)
      intro m; exact ⟨rfl, rfl⟩
  · intro s x
    split
    · exact keeps_cleanLine _ _
    · exact KeepsState.refl _

theorem keeps_writeNear (s : State) (off : Nat) (bs : Bytes) : KeepsState s (s.writeNear off bs) := by
  unfold writeNear
  dsimp only
  split
  · exact (keeps_writeInBlock _ _ _).trans (keeps_writeInBlock _ _ _)
  · exact keeps_writeInBlock _ _ _

theorem KeepsState.served {s t : State} {q : Req} {off n : Nat} (h : s.Served q off n) (k : KeepsState s t) :
    t.Served q off n := by
  have e : t = { s with near.mem := t.near.mem, near.clean := t.near.clean, near.metas := t.near.metas } := by
    rw [← k.rest]
  have hc := h.confirmed
  have qt := h.quiet
  obtain ⟨a1, a2, a3, a4, a5, a6, a7, a8, a9, a10, a11, a12, a13, a14, a15, a16, a17, a18, a19, a20, a21, a22, a23, a24, a25, a26, a27, a28, a29, a30⟩ := h
  have a30' : ∀ b ∈ blocksOf off n, (t.metaOf b).st = 0 := fun b hb => ((k.all b).1).trans (hc b hb)
  rw [e] at a30' ⊢
  exact ⟨⟨qt.1, qt.2, qt.3, qt.4, qt.5, qt.6, qt.7⟩, a2, a3, a4, a5, a6, a7, a8, a9, a10, a11, a12, a13, a14, a15, a16, a17, a18, a19, a20, a21, a22, a23, a24, a25, a26, a27, a28, a29, a30'⟩

theorem Served.noteWrite {s : State} {q : Req} {off n : Nat} (h : s.Served q off n) (x y : Nat) : s.noteWrite x y = s := by
  have h1 := h.staged
  have h2 := h.placed.2.2.2
  have h3 := h.serving
  have h4 := h.rows.2
  have hw : ∀ (x : HalfSt) (p : Staged → Bool), x.staged = [] → { x with staged := x.staged.filter p } = x := by
    intro x p hx; cases x; simp_all
  have hm : ∀ m : RMove, (if (m.phase == 0) = true then m else
      { m with marks := (s.rowsMet m x y).foldl (fun l x => addOnce x l) m.marks }) = m := by
    intro m; simp [rowsMet, h4, tget]
  unfold State.noteWrite
  simp only [h2, h3, List.map_nil, modBoth, hm, List.map_id']
  rw [hw _ _ h1.1, hw _ _ h1.2, ← h2, ← h3]

/-- Lines that come poisoned are poisoned; the request is served as before. -/
theorem Served.poisonLine {s : State} {q : Req} {off n : Nat} (h : s.Served q off n) (l : Nat) : (s.poisonLine l).Served q off n := by
  have h1 : (if s.poisoned l then s else s.count (offHalf (l * 128)) 0x4080 5).Served q off n := by
    split
    · exact h
    · exact h.mono (sends_count _ _ _ _ _)
  unfold State.poisonLine
  dsimp only
  generalize (if s.poisoned l then s else s.count (offHalf (l * 128)) 0x4080 5) = t at h1
  have k : KeepsState t ({ t with near.clean := t.near.clean.filter (· ≠ l) } : State) := ⟨fun _ => ⟨rfl, rfl⟩, rfl⟩
  exact KeepsState.served h1 (k.trans (keeps_setMeta _ _ _ (fun _ => ⟨rfl, rfl⟩)))

theorem Served.poisonCarried {s : State} {q : Req} {off n : Nat} (h : s.Served q off n) (o m pz : Nat) :
    (s.poisonCarried o m pz).Served q off n := by
  unfold State.poisonCarried
  split
  · exact h
  · generalize (List.range (linesOf o m).length).zip (linesOf o m) = l
    induction l generalizing s with
    | nil => exact h
    | cons x t ih =>
      simp only [List.foldl_cons]
      split
      · exact ih (h.poisonLine _)
      · exact ih h

theorem Served.doWrite {s : State} {q : Req} {off n : Nat} (h : s.Served q off n) (a : Acc) (ha : a.q = q) (hop : a.op = .write)
    (ho : a.org = .remote (.node q.src q.sid)) (hga : a.ga = q.addr) (hw : a.waited = false) (hf : a.fell = false)
    (hn : q.size = n) (hc : ∀ l ∈ linesOf off n, ¬ (off ≤ l * 128 ∧ l * 128 + 128 ≤ off + n) → s.poisoned l = false) :
    s.perform a off = ((s.writeNear off (fitTo n q.data)).poisonCarried off n q.pz).sendReply (.node q.src q.sid) a {} := by
  have hlen : (fitTo n q.data).length = n := by simp [fitTo, zeros]; omega
  have hj : (q.job == 0xFFFF) = false := by simp [h.job]
  have hblk : ∀ l ∈ linesOf off n, l / 32 ∈ blocksOf off n := by
    intro l hl
    simp only [linesOf, blocksOf, List.mem_map, List.mem_range] at hl ⊢
    obtain ⟨i, hi, rfl⟩ := hl
    exact ⟨(i + off / 128) / 32 - off / 4096, by omega, by omega⟩
  have hshut : ∀ l ∈ linesOf off n, s.lineShut off n l = none := by
    intro l hl
    unfold lineShut
    rw [retiredAt_none s _ h.stack, h.confirmed _ (hblk l hl)]
    by_cases hin : off ≤ l * 128 ∧ l * 128 + 128 ≤ off + n
    · simp [hin]
    · simp [hc l hl hin]
  have h1 : (linesOf off n).filter (fun l => (s.lineShut off n l).isSome) = [] := by
    rw [List.filter_eq_nil_iff]; intro l hl; simp [hshut l hl]
  have hm : (linesOf off n).foldl markCopied s = s := foldl_fixed _ _ _ (fun l => markCopied_none s l h.stack)
  have hsb : ∀ (t : State) b, t.settleBlock a b false = t := by intro t b; simp [settleBlock, ha, h.taint]
  unfold perform
  dsimp only
  rw [countAccess_off _ _ _ h.uncounted]
  simp only [hop, ha, hn]
  unfold State.doWrite
  dsimp only
  rw [hlen, h1, hm, foldl_fixed_mem (β := Status) _ _ _ (by intro l hl; simp [hshut l hl])]
  have k := keeps_writeNear s off (fitTo n q.data)
  have hs := (KeepsState.served h k).poisonCarried off n q.pz
  simp only [writeLines, List.isEmpty_nil, if_true, ha, hj, Bool.and_false, Bool.false_eq_true, if_false]
  rw [foldl_fixed _ _ _ (fun b => hsb _ b), hs.noteWrite, hs.answer a _ _ ho hga hw hf (by simp)]

theorem Served.doAtomic {s : State} {q : Req} {off n : Nat} (h : s.Served q off n) (a : Acc) (ha : a.q = q) (hop : a.op = .atomic)
    (ho : a.org = .remote (.node q.src q.sid)) (hga : a.ga = q.addr) (hw : a.waited = false) (hf : a.fell = false)
    (hn : aopSize q.aop = n) (hc : s.Clean off n) :
    s.perform a off = ((s.writeNear off (atomicApply q.aop (s.loadBytes off n) q.data)).count (offHalf off) 0x40A0 1).sendReply
      (.node q.src q.sid) a { data := if aopFetch q.aop then s.loadBytes off n else [], tg := (s.metaOf (off / 4096)).tag } := by
  unfold perform
  dsimp only
  rw [countAccess_off _ _ _ h.uncounted]
  simp only [hop]
  unfold State.doAtomic partBlocked
  dsimp only
  rw [ha, hn, h.readBlocked hc]
  dsimp only
  rw [h.rangeId, ite_self]
  dsimp only
  unfold applyAtomic
  dsimp only
  rw [ha, hn]
  have hsb : ∀ (t : State) b, t.settleBlock a b false = t := by intro t b; simp [settleBlock, ha, h.taint]
  have k := keeps_writeNear s off (atomicApply q.aop (s.loadBytes off n) q.data)
  have hs := KeepsState.served h k
  rw [foldl_fixed _ _ _ (fun b => hsb _ b), hs.noteWrite]
  have hs' := hs.mono (sends_count _ (offHalf off) 0x40A0 1 1)
  rw [hs'.answer a _ _ ho hga hw hf (by simp)]

theorem readBlks_plain (s : State) (a : Acc) (l : List Nat) (h : ∀ b ∈ l, (s.metaOf b).st = 0) :
    s.readBlks a l = some (l.map (blkAt s), s) := by
  induction l with
  | nil => rfl
  | cons b t ih =>
      have hb := h b (by simp)
      have ht := ih (fun x hx => h x (by simp [hx]))
      simp [readBlks, readBlk, hb, ht, blkAt]

theorem Served.doBget {s : State} {q : Req} {off : Nat} (h : s.Served q off (4096 * q.size)) (a : Acc) (ha : a.q = q)
    (hop : a.op = .bget) (ho : a.org = .remote (.node q.src q.sid)) (hga : a.ga = q.addr) (hw : a.waited = false)
    (hf : a.fell = false) :
    s.perform a off = s.sendReply (.node q.src q.sid) a { blks := (blocksOf off (4096 * q.size)).map (blkAt s) } := by
  have hp : 1 ≤ q.size := by have := h.some'; omega
  unfold perform
  dsimp only
  rw [countAccess_off _ _ _ h.uncounted]
  simp only [hop]
  unfold State.doBget
  rw [ha, Nat.max_eq_right hp]
  have hl : s.loadRead a = false := by simp [loadRead, ha, h.job]
  have hsv : ({ s with avl.serving := s.avl.serving.map (fun (v : Serving) =>
      if (q.job == 0xFFFF && q.src == v.node && decide (v.base ≤ off) && decide (off < v.base + v.pages * 65536)) = true then
        { v with copied := (linesOf off (4096 * q.size)).foldl (fun l x => addOnce x l) v.copied,
                 log := v.log.filter (fun x => !(linesOf off (4096 * q.size)).contains x) } else v) } : State) = s := by
    rw [h.serving, List.map_nil, ← h.serving]
  dsimp only
  rw [retiredIn_none s off _ h.stack, hl]
  simp only [Bool.false_eq_true, if_false, Bool.false_and]
  rw [hsv, readBlks_plain s a _ h.confirmed]
  dsimp only
  rw [h.answer a _ _ ho hga hw hf (by simp)]

theorem Served.receive {s : State} {q : Req} {off n : Nat} (h : s.Served q off n) (dt : Nat) (op : MemOp)
    (hop : op = .read ∨ op = .write ∨ op = .bget ∨ (op = .atomic ∧ s.cfg (offHalf off) 0x20C0 1 ≠ 0))
    (hw : wellFormed op q = true) (hn : accBytes { op := op, q := q, org := .device } = n) :
    (s.begun dt).receive op q = (s.heard dt q).perform
      { op := op, q := q, ga := q.addr, org := .remote (.node q.src q.sid), passed := true } off := by
  have h1 := h.heard dt
  have hb := h.begun dt
  have hv : (op == .wbd || op == .evc) = false := by rcases hop with e | e | e | ⟨e, _⟩ <;> simp [e]
  have he : (s.begun dt).entryReq q = q := hb.entryReq
  unfold State.receive
  simp only [hv, Bool.false_eq_true, if_false, hw, Bool.not_true]
  have hq : (s.heard dt q) = (s.begun dt).countArrival q.via 0 q.len := rfl
  rw [← hq, h1.entryReq, h1.entryAcc]
  rw [h1.letIn _ rfl rfl (by rcases hop with e | e | e | ⟨e, _⟩ <;> simp [e])]
  refine h1.homeGo { op := op, q := q, ga := q.addr, org := .remote (.node q.src q.sid) } rfl ?_ ?_ rfl
  · simpa [accBytes] using hn
  · have hc : (s.heard dt q).cfg (offHalf off) 0x20C0 1 = s.cfg (offHalf off) 0x20C0 1 :=
      (sends_countArrival (s.begun dt) q.via 0 q.len).cfg _ _ _
    rcases hop with e | e | e | ⟨e, e2⟩
    · simp [e]
    · simp [e]
    · simp [e]
    · simp [e, hc, e2]

/-- A command whose effect only sends is that effect. -/
theorem idle_sends {s u v : State} (k : u.Sends v) (h : u.Quiet) (c : Instr) (dt : Nat) (f : State → State)
    (hw : c.wf = true) (hf : f (s.begun dt) = v) : act c dt s f = .next (s.after dt v) := by
  subst hf
  exact act_idle c dt s f hw (k.quiet h)

theorem loadNow_service (s : State) (h : s.phase = 0xA) : s.loadNow = s.fab.loadLevel := by simp [loadNow, h]

theorem portArrival_load (s : State) (p vc u : Nat) : (s.portArrival p vc u).fab.loadLevel = s.fab.loadLevel := by
  unfold portArrival; dsimp only; cases s.peerOn p <;> simp [modPort, modNode]

theorem heard_load (s : State) (dt : Nat) (q : Req) : (s.heard dt q).fab.loadLevel = s.fab.loadLevel := by
  unfold State.heard countArrival; split
  · exact portArrival_load _ _ _ _
  · rfl

theorem heard_near (s : State) (dt : Nat) (q : Req) : (s.heard dt q).near = s.near :=
  (sends_countArrival (s.begun dt) q.via 0 q.len).near

theorem memGetAll_length (m : List Host.Cell) (a n : Nat) : (memGetAll m a n).length = n := by
  induction n generalizing a with
  | zero => rfl
  | succ n ih => simp [memGetAll, ih]

end State
end Sys2Proof.Machine
end

