-- ==== Sys2Proof/Laws/Witness.lean ====
section
/-! SUPPORT. Checks that decide the premises of the statements on a concrete state, and the lemmas that say so. -/

namespace Sys2Proof.Machine

theorem shaRounds_length (l : List (BitVec 64 × BitVec 64)) (h : List (BitVec 64)) (k : h.length = 8) :
    (l.foldl shaRound h).length = 8 := by
  induction l generalizing h with
  | nil => exact k
  | cons x t ih => exact ih _ rfl

theorem shaBlock_length (h : List (BitVec 64)) (b : Bytes) (k : h.length = 8) : (shaBlock h b).length = 8 := by
  simp [shaBlock, shaRounds_length _ _ k, k]

theorem shaBlocks_length (l : List Nat) (p : Bytes) (h : List (BitVec 64)) (k : h.length = 8) :
    (l.foldl (fun h i => shaBlock h (slice (128 * i) 128 p)) h).length = 8 := by
  induction l generalizing h with
  | nil => exact k
  | cons x t ih => exact ih _ (shaBlock_length _ _ k)

theorem le_length (w n : Nat) : (le w n).length = w := by
  induction w generalizing n with
  | zero => rfl
  | succ w ih => simp [le, ih]

theorem bytes_length (l : List (BitVec 64)) : ((l.map (fun x => be 8 x.toNat)).flatten).length = 8 * l.length := by
  induction l with
  | nil => rfl
  | cons x t ih => simp only [List.map_cons, List.flatten_cons, List.length_append, List.length_cons, ih]; simp only [be,
      List.length_reverse, le_length]; omega

theorem sha384_length (m : Bytes) : (sha384 m).length = 48 := by
  simp only [sha384]
  rw [bytes_length, List.length_take, shaBlocks_length _ _ _ rfl]; rfl

/-- A tag has 32 bytes (R414). -/
theorem tag256_length (key m : Bytes) : (tag256 key m).length = 32 := by
  simp [tag256, hmac384, sha384_length]

/-- A PDU on management port 0 with a trailer of slot 0, counter c and the tag its key 1, 2, 3 gives. -/
def signed (index sub c : Nat) (d : Bytes) : Pdu :=
  { path := .mgmt 0, src := 1, tag := 1, flags := 1, total := d.length, data := d,
    trailer := some { slot := 0, counter := c, tag := tag256 [1, 2, 3] (State.cmdMessage index sub { slot := 0, counter := c, tag := [] } d) } }

namespace State

/-- What a trailer's tag is computed over does not hold the tag. -/
theorem cmdMessage_tag (index sub : Nat) (t : Trailer) (d x : Bytes) :
    cmdMessage index sub { t with tag := x } d = cmdMessage index sub t d := rfl

/-- Memory with nothing listed reads as zero bytes. -/
theorem loadBytes_empty (s : State) (off n : Nat) (h : s.near.mem = []) : s.loadBytes off n = zeros n := by
  unfold loadBytes
  rw [h]
  induction n generalizing off with
  | zero => rfl
  | succ n ih => exact congrArg (0 :: ·) (ih (off + 1))

theorem blockCrc_empty (s : State) (b : Nat) (h : s.near.mem = []) : s.blockCrc b = crc32c (zeros 4096) := by
  rw [blockCrc, loadBytes_empty _ _ _ h]

theorem succ_ne (x : BitVec 32) : x + 1 ≠ x := by
  intro h; have := congrArg BitVec.toNat h; simp at this; omega

def quietB (s : State) : Bool :=
  decide (s.todo = [] ∧ s.eng.retries = [] ∧ s.eng.fronts = [] ∧ s.near.behind = [] ∧ s.plc.fences = [] ∧ s.plc.waiting = [] ∧
    s.itg.retracts = [])

theorem quiet_of (s : State) (h : s.quietB = true) : s.Quiet := by
  obtain ⟨a, b, c, d, e, f, g⟩ := of_decide_eq_true h
  exact ⟨a, b, c, d, e, f, g⟩

theorem clean_of (s : State) (off n : Nat) (h : (linesOf off n).all (fun l => !s.poisoned l) = true) : s.Clean off n := by
  intro l hl; simpa using (List.all_eq_true.mp h) l hl

def takesB (s : State) (p : Pdu) (index sub : Nat) : Bool :=
  decide (s.phaseGate p index sub = .go) && pduGood p && !bitOf p.flags 1 && decide (p.offset = 0) &&
  decide (p.total = p.data.length) && decide (p.total ≤ 131072) && (s.keptReply p 2 index sub).isNone &&
  s.mgm.reasm.all (fun r => !sameReasm r p index sub) && s.mgm.evicted.all (fun r => !sameReasm r p index sub) &&
  !s.fencedOff p && !s.startupBusy index sub p.data &&
  match objAt index sub with
  | some o => decide (o.acc ≠ .const) && decide (o.acc ≠ .ro) && s.mayWrite p index sub o p.data && lengthOk o index sub p.data
  | none => false

theorem takes_of (s : State) (p : Pdu) (index sub : Nat) (h : s.takesB p index sub = true) : s.Takes p index sub := by
  unfold takesB at h
  cases ho : objAt index sub with
  | none => simp [ho] at h
  | some o =>
    simp only [ho, Bool.and_eq_true, decide_eq_true_eq, Bool.not_eq_true', Option.isNone_iff_eq_none, List.all_eq_true] at h
    obtain ⟨⟨⟨⟨⟨⟨⟨⟨⟨⟨⟨h1, h2⟩, h3⟩, h4⟩, h5⟩, h6⟩, h7⟩, h8⟩, h9⟩, h10⟩, h11⟩, ⟨⟨h12, h13⟩, h14⟩, h15⟩ := h
    exact ⟨h1, h2, h3, h4, h5, h6, h7, h8, h9, h10, h11, o, ho, h12, h13, h14, h15⟩

theorem signed_wf (index sub c : Nat) (d : Bytes) (hc : c < 2 ^ 64) (hd : d.length < 2 ^ 16) : (signed index sub c d).wf = true := by
  have hd' : d.length < 4294967296 := by omega
  have hc' : c < 18446744073709551616 := by omega
  have hd'' : d.length < 65536 := by omega
  simp [signed, Pdu.wf, Path.wf, Trailer.wf, tag256_length, hc', hd'', hd']

def authB (s : State) (index sub c : Nat) (d : Bytes) : Bool :=
  decide (s.enc.st = 1) && !s.slateBusy index sub && (s.avl.purlinUp || decide (s.holder = .west)) &&
  decide ((s.slot 0).key = some [1, 2, 3]) && decide ((s.slot 0).last ≠ lastCounter) && decide ((s.slot 0).throttle = none) &&
  decide ((s.slot 0).last < c) &&
  match cmdClass index sub d with
  | some cls => bitOf (s.scopeOf 0) cls
  | none => false

theorem signed_authorized (s : State) (index sub c : Nat) (d : Bytes) (h : s.authB index sub c d = true) :
    s.Authorized (signed index sub c d) index sub 0 c := by
  unfold authB at h
  cases hc : cmdClass index sub d with
  | none => simp [hc] at h
  | some cls =>
    simp only [hc, Bool.and_eq_true, Bool.or_eq_true, decide_eq_true_eq, Bool.not_eq_true'] at h
    obtain ⟨⟨⟨⟨⟨⟨⟨h1, h2⟩, h3⟩, h4⟩, h5⟩, h6⟩, h7⟩, h8⟩ := h
    exact ⟨h1, h2, h3, _, cls, _, rfl, rfl, rfl, hc, by omega, by simp [firstClaim], h4, h5, h6, rfl, h7, h8⟩

def servedB (s : State) (q : Req) (off n : Nat) : Bool :=
  s.quietB && !s.entersHere q.via && s.isSelf q.dst &&
  (match q.via with
   | .port p | .batch p | .onward p _ => !s.cfgBit (portHalf p) 0x20D0 1 2
   | .geled _ _ => true) &&
  decide (s.phase = 0xA) && decide (q.ctx ≠ 0) && decide (q.job ≠ 0xFFFF) && !q.cap && !q.u && decide (q.rc < 8) &&
  decide (s.nodeNum ≠ 0x3FFF) && decide (gaNode q.addr = s.nodeNum) && decide (gaOff q.addr = off) && decide (0 < n) &&
  decide (off + n ≤ nearSize) && s.avl.purlinUp && decide (s.rdg.mode ≠ 0) && !s.inSpace off &&
  (match s.extentAt q.ctx off with
   | some (_, x) => decide (x.state = 2)
   | none => false) &&
  decide (s.plc.here = [] ∧ s.plc.away = [] ∧ s.plc.backs = [] ∧ s.plc.moves = []) &&
  decide (s.ylx.overs = [] ∧ s.ylx.tables = []) && decide (s.avl.serving = []) &&
  decide (s.rdg.regions = [] ∧ s.rdg.blocked = []) &&
  decide ((s.half (offHalf off)).dir = [] ∧ (s.half (offHalf off)).aged = []) &&
  decide (s.west.caps = [] ∧ s.west.held = [] ∧ s.west.retried = []) &&
  decide (s.east.caps = [] ∧ s.east.held = [] ∧ s.east.retried = []) && decide (s.itg.waits = []) &&
  decide (s.west.staged = [] ∧ s.east.staged = []) && !s.cfgBit (offHalf off) 0x2070 1 0 && decide (s.near.stackRecs = []) &&
  (blocksOf off n).all (fun b => decide ((s.metaOf b).st = 0))

theorem served_of (s : State) (q : Req) (off n : Nat) (h : s.servedB q off n = true) : s.Served q off n := by
  unfold servedB at h
  cases hx : s.extentAt q.ctx off with
  | none => simp [hx] at h
  | some y =>
    simp only [hx, Bool.and_eq_true, decide_eq_true_eq, Bool.not_eq_true', List.all_eq_true] at h
    obtain ⟨⟨⟨⟨⟨⟨⟨⟨⟨⟨⟨⟨⟨⟨⟨⟨⟨⟨⟨⟨⟨⟨⟨⟨⟨⟨⟨⟨⟨⟨w1, w2⟩, w3⟩, w4⟩, w5⟩, w6⟩, w7⟩, w8⟩, w9⟩, w10⟩, w11⟩, w12⟩, w13⟩, w14⟩, w15⟩, w16⟩, w17⟩, w18⟩, w19⟩, w20⟩, w21⟩, w22⟩, w23⟩, w24⟩, w25⟩, w26⟩, w27⟩, w28⟩, w29⟩, w30⟩, w31⟩ := h
    exact ⟨quiet_of s w1, w2, w3, fun p hp => by rcases hp with hp | hp | ⟨t, hp⟩ <;> simpa [hp] using w4, w5, w6, w7, w8, w9,
      w10, w11, w12, w13, w14, w15, w16, w17, w18, ⟨y.1, y.2, hx, w19⟩, w20, w21, w22, w23, w24,
      fun g => by cases g <;> assumption, w27, w28, w29, w30, w31⟩

end State
end Sys2Proof.Machine
end

