-- ==== Sys2Proof/Tests/Slice0.lean ====
section
/-! SUPPORT. Tests of single commands on small states, and for every statement with hypotheses the states and operands
that meet them, one line for each of its clauses. -/

namespace Sys2Proof.Tests

set_option maxRecDepth 100000
set_option Elab.async false

open Sys2Proof Sys2Proof.Machine

/-- In service: node 5, one running extent of context 1, course 100. -/
def w0 : State :=
  { phase := 0xA, nodeNum := 5, now := 1000000000, crs := { first := 90, lastEdge := some 999000000, silentBase := 999000000 },
    spc := { extents := [(0, { state := 2, ctx := 1, base := 0, pages := 16, grantNode := 5 })],
             ctxs := [(1, { on := true, s1root := 0, s2geo := 0, nearQuota := 64, bulkQuota := 64 })] },
    rdg := { mode := 1, agents := [(0, { state := 1, node := 5 })] },
    west := { course := 100, slate := [((0x2070, 1), [0]), ((0x20D0, 1), [0])] }, east := { course := 100, slate := [((0x2070, 1), [0]), ((0x20D0, 1), [0])] },
    avl := { tested := true, joined := true },
    enc := { st := 1, slots := [(0, { key := some [1, 2, 3], scope := 0x7F, last := 4, reserved := 4100 })], testsOk := true },
    near := { clean := List.range 64 } }

/-- A request of node 9. -/
def q0 : Req := { via := .batch 0, ctx := 1, job := 7, tag := 3, src := 9, sid := 0xF0, dst := 5, addr := mkGa 5 0, size := 8 }

/-- A PDU on management port 0. -/
def pdu (d : Bytes) : Pdu := { path := .mgmt 0, src := 1, tag := 1, total := d.length, data := d }


/-! Ill-formed terms: what no sender can put on the pins. -/

theorem test_illformed_units :
    viaOk (.port 32) = false ∧ viaOk (.batch 32) = false ∧ nodeOk 16384 = false ∧ ctxOk 1024 = false ∧ jobOk 65536 = false ∧
    courseOk (2 ^ 48) = false ∧ ckOk ⟨16384, 0⟩ = false ∧ ckOk ⟨0, 2 ^ 32⟩ = false ∧ viaOk (.onward 0 { dst := 16384 }) = false ∧ Transit.wf { dst := 0, hop := 16 } = false ∧
    Link.wf (.port 32) = false ∧ lineOk (16 * stackLines) = false := by decide

theorem test_illformed_requests :
    q0.wf = true ∧ Req.wf { q0 with via := .port 32 } = false ∧ Req.wf { q0 with ctx := 1024 } = false ∧
    Req.wf { q0 with job := 65536 } = false ∧ Req.wf { q0 with tag := 2 ^ 20 } = false ∧
    Req.wf { q0 with src := 16384 } = false ∧ Req.wf { q0 with sid := 256 } = false ∧
    Req.wf { q0 with dst := 16384 } = false ∧ Req.wf { q0 with addr := 2 ^ 62 } = false ∧
    Req.wf { q0 with size := 512 } = false ∧ Req.wf { q0 with len := 4096 } = false ∧
    Req.wf { q0 with rc := 16 } = false ∧ Req.wf { q0 with ck := ⟨0, 2 ^ 32⟩ } = false ∧
    Req.wf { q0 with hop := 16 } = false ∧ Req.wf { q0 with aop := 256 } = false ∧
    Req.wf { q0 with data := List.replicate 257 0 } = false ∧ Req.wf { q0 with pz := 4 } = false ∧
    Req.wf { q0 with st := 4 } = false ∧ Req.wf { q0 with seg := 65536 } = false ∧
    Req.wf { q0 with agentTag := 65536 } = false ∧
    Req.wfAtomic { q0 with aop := 3 } 2 = false ∧ Req.wfAdd { q0 with aop := 2 } = false := by
  decide +kernel

theorem test_illformed_responses :
    Rsp.wf { src := 9, sid := 0, tag := 0 } = true ∧ Rsp.wf { src := 16384, sid := 0, tag := 0 } = false ∧
    Rsp.wf { src := 9, sid := 256, tag := 0 } = false ∧ Rsp.wf { src := 9, sid := 0, tag := 2 ^ 20 } = false ∧
    Rsp.wf { src := 9, sid := 0, tag := 0, port := 32 } = false ∧ Rsp.wf { src := 9, sid := 0, tag := 0, status := 256 } = false ∧
    Rsp.wf { src := 9, sid := 0, tag := 0, fault := 256 } = false ∧ Rsp.wf { src := 9, sid := 0, tag := 0, stall := 8 } = false ∧
    Rsp.wf { src := 9, sid := 0, tag := 0, ld := 16 } = false ∧ Rsp.wf { src := 9, sid := 0, tag := 0, tg := 256 } = false ∧
    Rsp.wf { src := 9, sid := 0, tag := 0, data := List.replicate 257 0 } = false ∧
    Rsp.wf { src := 9, sid := 0, tag := 0, pz := 65536 } = false ∧ Rsp.wf { src := 9, sid := 0, tag := 0, loc := some 16384 } = false ∧
    Rsp.wf { src := 9, sid := 0, tag := 0, seg := 65536 } = false ∧ Rsp.wf { src := 9, sid := 0, tag := 0, st := 4 } = false ∧
    Rsp.wf { src := 9, sid := 0, tag := 0, grant := 4 } = false ∧ Rsp.wf { src := 9, sid := 0, tag := 0, ck := ⟨16384, 0⟩ } = false ∧
    Instr.wf (.srsp 0 ⟨.port 0, 65536, 0, true, false, false, [], 0, 0, false, ⟨0, 0⟩⟩) = false := by decide +kernel

theorem test_illformed_pdus :
    (pdu [1]).wf = true ∧ Pdu.wf { pdu [1] with path := .mgmt 2 } = false ∧ Pdu.wf { pdu [1] with path := .mailbox .west true 1024 } = false ∧
    Pdu.wf { pdu [1] with magic := 65536 } = false ∧ Pdu.wf { pdu [1] with version := 256 } = false ∧
    Pdu.wf { pdu [1] with tag := 65536 } = false ∧ Pdu.wf { pdu [1] with flags := 256 } = false ∧
    Pdu.wf { pdu [1] with offset := 2 ^ 32 } = false ∧ Pdu.wf { pdu [1] with total := 2 ^ 32 } = false ∧
    Pdu.wf { pdu [1] with trailer := some ⟨0, 1, [1]⟩ } = false ∧ Trailer.wf ⟨256, 0, List.replicate 32 0⟩ = false ∧
    Trailer.wf ⟨0, 2 ^ 64, List.replicate 32 0⟩ = false ∧ Instr.wf (.waestRead 0 (pdu []) 65536 0) = false ∧
    Instr.wf (.objectWrite 0 (pdu []) 0 256) = false ∧ Instr.wf (.contextDescriptorWrite 0 0 1 (pdu [])) = false := by decide +kernel

theorem test_illformed_jobs :
    Submit.wf ⟨.port 0, 1, 2, 3, List.replicate 64 0⟩ = true ∧ Submit.wf ⟨.port 0, 1, 2, 3, List.replicate 32761 0⟩ = false ∧
    Submit.wf ⟨.port 0, 1024, 2, 3, []⟩ = false ∧ Submit.wf ⟨.port 0, 1, 65536, 3, []⟩ = false ∧
    Submit.wf ⟨.port 0, 1, 2, 2 ^ 20, []⟩ = false ∧
    Instr.wf (.gather 0 ⟨.port 0, 1, 2, 3, List.replicate 64 2⟩) = false ∧
    Engine.wf ⟨.tile, 16⟩ = false ∧ Engine.wf ⟨.yealm, 32⟩ = false ∧ Engine.wf ⟨.update, 32⟩ = false ∧
    PartEntry.wf ⟨2 ^ 64, 0, 0⟩ = false ∧ PartEntry.wf ⟨0, 2 ^ 24, 0⟩ = false ∧
    Part.wf { src := 9, sid := 0, tag := 0, ctx := 1, job := 2, desc := [1], tableTag := 0, partNo := 0, entries := [] } = false ∧
    Part.wf { src := 9, sid := 0, tag := 0, ctx := 1, job := 2, desc := List.replicate 64 0, tableTag := 2 ^ 32, partNo := 0, entries := [] } = false ∧
    PartAnswer.wf { src := 9, tag := 0, partNo := 65536, status := 0, entries := [] } = false ∧
    RowUpdate.wf { src := 9, sid := 0, tag := 0, ctx := 1, job := 2, table := 128, row := 0, set := false, vfmt := 0, seq := 0, pos := 0, data := [] } = false ∧
    RowUpdate.wf { src := 9, sid := 0, tag := 0, ctx := 1, job := 2, table := 1, row := 2 ^ 48, set := false, vfmt := 0, seq := 0, pos := 0, data := [] } = false ∧
    IntegrityMsg.wf { via := .port 0, ctx := 1024 } = false ∧ IntegrityMsg.wf { via := .port 0, ctx := 1, reason := 16 } = false ∧
    IntegrityMsg.wf { via := .port 0, ctx := 1, course := 2 ^ 48 } = false ∧
    Inner.wf (.integrity 16 { via := .port 0, ctx := 1 }) = false ∧ Inner.wf (.mem .pub q0) = false ∧
    Inner.wf (.hint 9 [1]) = false := by decide +kernel

theorem test_illformed_links :
    Codeword.wf ⟨18, List.replicate 272 0⟩ = false ∧ Codeword.wf ⟨0, [1]⟩ = false ∧
    TrainRec.wf ⟨16384, 0, 0, 0, 0⟩ = false ∧ TrainRec.wf ⟨0, 256, 0, 0, 0⟩ = false ∧
    Instr.wf (.linkWord 0 0 65536 0 0 0) = false ∧ Instr.wf (.batch 0 0 0 0 4 0 []) = false ∧
    Instr.wf (.trainingStepDone 0 324 0 true 0 ⟨0, 0, 0, 0, 0⟩) = false ∧ Instr.wf (.laneDeclaredBad 0 324) = false ∧
    Instr.wf (.laserModuleFlag 0 9 0 0 true) = false ∧ Instr.wf (.endWidthChange 0 .west 19) = false ∧
    Instr.wf (.registerWrite 0 .west true 0 .west 2 0) = false ∧ Instr.wf (.mailboxRequest 0 .west true 1 0 []) = false := by decide +kernel

theorem test_illformed_memory_and_management :
    StackError.wf 0 (.corrected stackLines) = false ∧ StackError.wf 1 (.uncorrectable 0) = false ∧
    StackError.wf 0 (.altered 0x1800000000 0) = false ∧ Instr.wf (.scrub 0 16 []) = false ∧
    Instr.wf (.channelFailure 0 0 32 []) = false ∧ Instr.wf (.directoryScrub 0 .west [16 * stackLines]) = false ∧
    DebugAccess.wf (.read .west (2 ^ 32)) = false ∧ DebugAccess.wf (.write .west 0 (2 ^ 32)) = false ∧
    Instr.wf (.leaseRecord 0 .west .west (2 ^ 32) 0) = false ∧ Instr.wf (.monitorSample 0 [] [] 0) = false ∧
    Instr.wf (.challenge 0 0 0 []) = false ∧ Instr.wf (.i3cDynamicAddress 0 128) = false ∧
    Instr.wf (.managementPortLinkChange 0 2 true false) = false ∧ Instr.wf (.gangStart 0 16) = false := by decide +kernel

/-- A term that no sender can put on the pins is a NOP: only time passes (log entry 4). -/
theorem test_illformed_command_only_waits : exec (.laneDeclaredBad 7 324) w0 = .next (w0.begun 7) := rfl

theorem test_wellformed_both_ways :
    State.wellFormed .read q0 = true ∧ Instr.wf (.laneDeclaredBad 7 3) = true ∧ Instr.wf (.laneDeclaredBad 7 324) = false := by
  decide +kernel

/-! The queue, and the table's words (no row of the table has bits). -/

theorem test_word_spells_nothing : decodeTableWord 32 0xFFFFFFFF = none ∧ State.withFetchWord w0 32 5 = w0 := ⟨rfl, rfl⟩

theorem test_empty_queue_idles : step State.reset = .next State.reset := rfl

theorem test_queue_first_in_first_out :
    step { w0 with pending := [.laneDeclaredBad 7 324, .read 0 q0] } = .next ({ w0 with pending := [.read 0 q0] }.begun 7) := rfl

/-! One command each, the expected values worked out from the rules. -/

/-- The number a command leaves, read from the next state; none where it stops. -/
def after (f : State → Nat) : Host.Outcome State Fault Refusal → Option Nat
  | .next t => some (f t)
  | _ => none

/-- R27: an edge 12.5 µs after the last one taken numbers no course. -/
theorem test_early_edge_counted :
    after (fun t => (t.half .west).course) (exec (.courseBeaconEdge 10000) { w0 with crs.lastEdge := some 999990000 }) = some 100 := by
  decide +kernel

/-- R32: without an announcement an edge is numbered one above the last; the course chapter's example of a pause takes
the announced 52,802 after 52,801. -/
theorem test_edge_numbers :
    State.numberOf 100 none = (some 101, some (5, 1)) ∧ State.numberOf 52801 (some 52802) = (some 52802, none) := by decide +kernel

/-- R202: a write to a running extent stores its bytes, little-endian, at the offset of its GA. -/
theorem test_write_stores :
    after (fun t => ofLe (t.loadBytes 0 4)) (exec (.write 5 { q0 with size := 4, len := 5, data := [0x78, 0x56, 0x34, 0x12] }) w0) = some 0x12345678 := by
  decide +kernel

/-- R200: the published CRC-32C of the one byte "a". -/
theorem test_crc32c_check : crc32c [0x61] = 0xC1D04330#32 := by decide +kernel

/-- Binary32 sums: 1 + 2 = 3; the half-way case 16777216 + 1 goes to the even number; x - x is +0. -/
theorem test_fadd :
    fadd 0x3F800000#32 0x40000000#32 = 0x40400000#32 ∧ fadd 0x4B800000#32 0x3F800000#32 = 0x4B800000#32 ∧
    fadd 0x3F800000#32 0xBF800000#32 = 0#32 := by decide +kernel

/-- R461: the registers chapter's own example: window offset 0x23_F014 reaches slot 0x23 (tile 8h + 3). -/
theorem test_register_slot : regSlot 0x23F014 = 0x23 ∧ 0x23F014 % 65536 % 16 = 4 := by decide +kernel

/-- The node and the offset of a GA are its bits [61:48] and [47:0]. -/
theorem test_ga_fields : gaNode (mkGa 0x0115 0x8000) = 0x0115 ∧ gaOff (mkGa 0x0115 0x8000) = 0x8000 := by decide +kernel

/-! For every statement with hypotheses, states and operands that meet them together, one line for each clause. -/

/-- A well-formed command and an ill-formed one (WellFormedCompletes). -/
theorem witness_WellFormedCompletes : State.wellFormed .read q0 = true ∧ Instr.wf (.laserModuleFlag 0 9 0 0 true) = false := by
  decide +kernel

namespace B1

def mw : State := { w0 with near.mem := [(5, 1), (4099, 7)] }
def wkf : State := { w0 with fuse := { revoke := 3, minSvn := 3 } }
def mret : State := { w0 with near.stackRecs := [(0, { spare := some 4, retired := [5] })] }
def mz : State := { w0 with near.metas := [(0, {crc := crc32c (zeros 4096), void := false})] }
def x1_14_1 := { q0 with data := [1,2,3,4,5,6,7,8], len := 5 }

theorem witness_StepKeepsFuses :
    (wkf.FusesAbove { revoke := 3, minSvn := 2 : Fuses } ∧ step wkf = Host.Outcome.next wkf) := ⟨⟨fun _ h => h, by decide⟩, rfl⟩


theorem witness_MemoryStaysCanonical :
    (mw.MemOk) := by decide +kernel


theorem witness_WriteReadsBack :
    ((∀ (a : Nat), 4094 ≤ a → a < 4094 + [1, 2, 3, 4].length → mw.retiredAt a = false) ∧ mw.MemOk ∧ [1, 2, 3, 4].length ≤ 4096) ∧
    (mw.MemOk ∧ (List.replicate 4096 3).length = 4096 ∧ 6 < 2 ^ 32 ∧ mw.retiredAt (1 * 4096) = false) ∧
    (mret.retiredAt (5 * 4096) = true) := ⟨⟨by first | decide +kernel | (intros; rfl) | (intro _ h; cases h; done) | (intro _ h; cases h; decide +kernel) | (intro k; cases k <;> decide +kernel), by decide +kernel⟩,
   by decide +kernel,
   by decide +kernel⟩


theorem witness_PartialWriteKeepsCrc :
    ((mz.metaOf (1000 / 4096)).crc = mz.blockCrc (1000 / 4096) ∧ (∀ (i : Nat), i < 32 → mz.poisoned (1000 / 4096 * 32 + i) =
       false) ∧ mz.MemOk ∧ 1000 % 4096 + [1, 2, 3].length ≤ 4096 ∧ (mz.metaOf (1000 / 4096)).void = false) := ⟨(State.blockCrc_empty _ _ rfl).symm, by first | decide +kernel | (intros; rfl) | (intro _ h; cases h; done) | (intro _ h; cases h; decide +kernel) | (intro k; cases k <;> decide +kernel), by decide +kernel⟩


theorem witness_ReadAnswersNode :
    (w0.Served q0 0 q0.size ∧ w0.Clean 0 q0.size ∧ (Instr.read 3 q0).wf = true ∧ State.wellFormed MemOp.read q0 = true) := ⟨State.served_of _ _ _ _ (by decide +kernel), State.clean_of _ _ _ (by decide +kernel), by decide +kernel⟩


theorem witness_WriteStoresForNode :
    (w0.Served x1_14_1 0 x1_14_1.size ∧ (∀ (l : Nat), l ∈ State.linesOf 0 x1_14_1.size → ¬(0 ≤ l * 128 ∧ l * 128 + 128 ≤ 0 +
       x1_14_1.size) → w0.poisoned l = false) ∧ (Instr.write 3 x1_14_1).wf = true ∧ State.wellFormed MemOp.write x1_14_1 = true) := ⟨State.served_of _ _ _ _ (by decide +kernel), by first | decide +kernel | (intros; rfl) | (intro _ h; cases h; done) | (intro _ h; cases h; decide +kernel) | (intro k; cases k <;> decide +kernel), by decide +kernel⟩

end B1
namespace B2

def x2_1_1 := { q0 with data := [1,2,3,4,5,6,7,8], len := 5 }
def qa (op : Nat) (n : Nat) : Req := { q0 with aop := op, size := n, len := 4 + (n + 7) / 8, data := List.replicate n 1 }
def x2_3_1 := { q0 with size := 2 }
def x2_4_1 := { State.reset with phase := 0 }
def x2_5_1 := { State.reset with phase := 1 }
def x2_6_1 := { State.reset with phase := 1, mon.mfg := true }
def x2_7_1 := { State.reset with phase := 5 }
def x2_8_1 := { State.reset with phase := 6, avl.purlinUp := false }
def x2_9_1 := { State.reset with phase := 6, avl.purlinUp := false, avl.tries := 1 }
def x2_10_1 := { w0 with west.running := false }
def x2_11_1 := { State.reset with phase := 7, rdg.mode := 0, gel.west.st := 4, nodeNum := 5 }
def x2_12_1 := { State.reset with phase := 8 }
def x2_13_1 := { State.reset with phase := 8, crs.first := 9 }
def x2_15_1 := { State.reset with phase := 2 }
def x2_16_1 := { State.reset with phase := 2 }
def p3 : State := { State.reset with phase := 3 }
def p4 : State := { State.reset with phase := 4, opt.modules := [(1, {present := true}),(2,{})] }
def v7 : Via := .port 7
def wv : State := { w0 with west.slate := w0.west.slate ++ [((0x2001,1), [7]),((0x20D1,8),[1])] }

theorem witness_ReadAnswersNode_2 :
    (w0.Served q0 0 q0.size ∧ w0.Clean 0 q0.size ∧ (Instr.read 3 q0).wf = true ∧ State.wellFormed MemOp.read q0 = true) := ⟨State.served_of _ _ _ _ (by decide +kernel), State.clean_of _ _ _ (by decide +kernel), by decide +kernel⟩


theorem witness_WriteStoresForNode_2 :
    (w0.Served x2_1_1 0 x2_1_1.size ∧ (∀ (l : Nat), l ∈ State.linesOf 0 x2_1_1.size → ¬(0 ≤ l * 128 ∧ l * 128 + 128 ≤ 0 +
       x2_1_1.size) → w0.poisoned l = false) ∧ (Instr.write 3 x2_1_1).wf = true ∧ State.wellFormed MemOp.write x2_1_1 = true) := ⟨State.served_of _ _ _ _ (by decide +kernel), by first | decide +kernel | (intros; rfl) | (intro _ h; cases h; done) | (intro _ h; cases h; decide +kernel) | (intro k; cases k <;> decide +kernel), by decide +kernel⟩


theorem witness_AtomicsUpdateMemory :
    (w0.Served (qa 33 4) 0 (aopSize (qa 33 4).aop) ∧ w0.Clean 0 (aopSize (qa 33 4).aop) ∧ Instr.add 3 (qa 33 4) ∈
       [Instr.add 3 (qa 33 4), Instr.smin 3 (qa 33 4), Instr.smax 3 (qa 33 4), Instr.umin 3 (qa 33 4), Instr.umax 3 (qa 33 4), Instr.and 3 (qa 33 4), Instr.or 3 (qa 33 4), Instr.xor 3 (qa 33 4), Instr.swap 3 (qa 33 4), Instr.cas 3 (qa 33 4), Instr.fadd 3 (qa 33 4), Instr.vadd 3 (qa 33 4)]
       ∧ (Instr.add 3 (qa 33 4)).wf = true ∧ State.wellFormed MemOp.atomic (qa 33 4) = true ∧ w0.cfg (offHalf 0) 0x20C0 1 ≠ 0) := ⟨State.served_of _ _ _ _ (by decide +kernel), State.clean_of _ _ _ (by decide +kernel), by decide +kernel⟩


theorem witness_BgetSendsBlocks :
    (w0.Served x2_3_1 0 (4096 * x2_3_1.size) ∧ (Instr.bget 3 x2_3_1).wf = true ∧ State.wellFormed MemOp.bget x2_3_1 = true) := ⟨State.served_of _ _ _ _ (by decide +kernel), by decide +kernel⟩


theorem witness_StartUpPhases :
    (x2_4_1.Quiet ∧ x2_4_1.startupHeld = false ∧ 3 < 8 ∧ x2_4_1.phase = 0) ∧
    (x2_5_1.Quiet ∧ x2_5_1.startupHeld = false ∧ x2_5_1.phase = 1 ∧ x2_5_1.mon.mfg = false) ∧
    (x2_6_1.Quiet ∧ x2_6_1.startupHeld = false ∧ x2_6_1.phase = 1 ∧ x2_6_1.mon.mfg = true) ∧
    (x2_7_1.Quiet ∧ x2_7_1.startupHeld = false ∧ x2_7_1.phase = 5) ∧
    (x2_8_1.Quiet ∧ x2_8_1.startupHeld = false ∧ x2_8_1.phase = 6) ∧
    (x2_9_1.Quiet ∧ x2_9_1.startupHeld = false ∧ x2_9_1.phase = 6 ∧ x2_9_1.avl.tries < 2) ∧
    (x2_10_1.Quiet ∧ x2_10_1.startupHeld = true) ∧
    (x2_11_1.Quiet ∧ x2_11_1.startupHeld = false ∧ x2_11_1.phase = 7 ∧ x2_11_1.rdg.blocked = []) ∧
    (x2_12_1.Quiet ∧ x2_12_1.startupHeld = false ∧ x2_12_1.phase = 8 ∧ x2_12_1.avl.tested = false) ∧
    (x2_13_1.Quiet ∧ x2_13_1.startupHeld = false ∧ x2_13_1.phase = 8 ∧ x2_13_1.avl.tested = false) ∧
    (w0.Quiet ∧ w0.startupHeld = false ∧ w0.crs.first ≠ noCourse) := ⟨⟨State.quiet_of _ (by decide +kernel), by decide +kernel⟩,
   ⟨State.quiet_of _ (by decide +kernel), by decide +kernel⟩,
   ⟨State.quiet_of _ (by decide +kernel), by decide +kernel⟩,
   ⟨State.quiet_of _ (by decide +kernel), by decide +kernel⟩,
   ⟨State.quiet_of _ (by decide +kernel), by decide +kernel⟩,
   ⟨State.quiet_of _ (by decide +kernel), by decide +kernel⟩,
   ⟨State.quiet_of _ (by decide +kernel), by decide +kernel⟩,
   ⟨State.quiet_of _ (by decide +kernel), by decide +kernel⟩,
   ⟨State.quiet_of _ (by decide +kernel), by decide +kernel⟩,
   ⟨State.quiet_of _ (by decide +kernel), by decide +kernel⟩,
   ⟨State.quiet_of _ (by decide +kernel), by decide +kernel⟩⟩


theorem witness_EnclaveBoot :
    (x2_15_1.Quiet ∧ x2_15_1.phase = 2) ∧
    (x2_16_1.Quiet ∧ x2_16_1.phase = 2 ∧ x2_16_1.enc.active < 2) := ⟨⟨State.quiet_of _ (by decide +kernel), by decide +kernel⟩,
   ⟨State.quiet_of _ (by decide +kernel), by decide +kernel⟩⟩


theorem witness_SlateAndStacks :
    (p3.Quiet ∧ p3.startupHeld = false ∧ p3.phase = 3) ∧
    (p4.Quiet ∧ p4.startupHeld = false ∧ p4.phase = 4) := ⟨⟨State.quiet_of _ (by decide +kernel), by decide +kernel⟩,
   ⟨State.quiet_of _ (by decide +kernel), by decide +kernel⟩⟩


theorem witness_EdgeNumber :
    (5 + 1 < noCourse ∧ 6 = 5 + 1) ∧
    (5 + 1 < noCourse ∧ 5 + 1 < 9) ∧
    (5 + 1 < noCourse ∧ 5 ≤ 5) := ⟨by decide +kernel,
   by decide +kernel,
   by decide +kernel⟩

end B2
namespace B3

def qa (op : Nat) : Req := { q0 with aop := op, size := operandSize op, len := 4 + operandSize op / 8 + (if operandSize op % 8 = 0 then 0 else 1), data := (List.range (operandSize op)).map (fun i => BitVec.ofNat 8 (i*3+1)) }
def wv : State := { w0 with west.slate := w0.west.slate ++ [((0x2040,1), [8])] }
def x3_13_1 := { wv with west.armed := some 3 }
def x3_15_1 := { w0 with crs.lastEdge := some 999999000 }
def x3_16_1 := { State.reset with phase := 7 }
def pk1 := signed 0x5200 1 9 (le 1 3 ++ le 1 5 ++ zeros (156-2))
def bk (p : Pdu) : State := (w0.begun 3).authorized p 0 9
def pk2 := signed 0x5200 2 9 (le 1 3)
def pk2b := signed 0x5200 2 9 (le 2 3)
def pk3 := signed 0x5200 3 9 []
def pk4 := signed 0x5200 4 9 (le 1 1)

theorem witness_AtomicsUpdateMemory_2 :
    (w0.Served (qa 49) 0 (aopSize (qa 49).aop) ∧ w0.Clean 0 (aopSize (qa 49).aop) ∧ Instr.add 3 (qa 49) ∈
       [Instr.add 3 (qa 49), Instr.smin 3 (qa 49), Instr.smax 3 (qa 49), Instr.umin 3 (qa 49), Instr.umax 3 (qa 49), Instr.and 3 (qa 49), Instr.or 3 (qa 49), Instr.xor 3 (qa 49), Instr.swap 3 (qa 49), Instr.cas 3 (qa 49), Instr.fadd 3 (qa 49), Instr.vadd 3 (qa 49)]
       ∧ (Instr.add 3 (qa 49)).wf = true ∧ State.wellFormed MemOp.atomic (qa 49) = true ∧ w0.cfg (offHalf 0) 0x20C0 1 ≠ 0) ∧
    (w0.Served (qa 50) 0 (aopSize (qa 50).aop) ∧ w0.Clean 0 (aopSize (qa 50).aop) ∧ Instr.smin 3 (qa 50) ∈
       [Instr.add 3 (qa 50), Instr.smin 3 (qa 50), Instr.smax 3 (qa 50), Instr.umin 3 (qa 50), Instr.umax 3 (qa 50), Instr.and 3 (qa 50), Instr.or 3 (qa 50), Instr.xor 3 (qa 50), Instr.swap 3 (qa 50), Instr.cas 3 (qa 50), Instr.fadd 3 (qa 50), Instr.vadd 3 (qa 50)]
       ∧ (Instr.smin 3 (qa 50)).wf = true ∧ State.wellFormed MemOp.atomic (qa 50) = true ∧ w0.cfg (offHalf 0) 0x20C0 1 ≠ 0) ∧
    (w0.Served (qa 35) 0 (aopSize (qa 35).aop) ∧ w0.Clean 0 (aopSize (qa 35).aop) ∧ Instr.smax 3 (qa 35) ∈
       [Instr.add 3 (qa 35), Instr.smin 3 (qa 35), Instr.smax 3 (qa 35), Instr.umin 3 (qa 35), Instr.umax 3 (qa 35), Instr.and 3 (qa 35), Instr.or 3 (qa 35), Instr.xor 3 (qa 35), Instr.swap 3 (qa 35), Instr.cas 3 (qa 35), Instr.fadd 3 (qa 35), Instr.vadd 3 (qa 35)]
       ∧ (Instr.smax 3 (qa 35)).wf = true ∧ State.wellFormed MemOp.atomic (qa 35) = true ∧ w0.cfg (offHalf 0) 0x20C0 1 ≠ 0) ∧
    (w0.Served (qa 4) 0 (aopSize (qa 4).aop) ∧ w0.Clean 0 (aopSize (qa 4).aop) ∧ Instr.umin 3 (qa 4) ∈
       [Instr.add 3 (qa 4), Instr.smin 3 (qa 4), Instr.smax 3 (qa 4), Instr.umin 3 (qa 4), Instr.umax 3 (qa 4), Instr.and 3 (qa 4), Instr.or 3 (qa 4), Instr.xor 3 (qa 4), Instr.swap 3 (qa 4), Instr.cas 3 (qa 4), Instr.fadd 3 (qa 4), Instr.vadd 3 (qa 4)]
       ∧ (Instr.umin 3 (qa 4)).wf = true ∧ State.wellFormed MemOp.atomic (qa 4) = true ∧ w0.cfg (offHalf 0) 0x20C0 1 ≠ 0) ∧
    (w0.Served (qa 5) 0 (aopSize (qa 5).aop) ∧ w0.Clean 0 (aopSize (qa 5).aop) ∧ Instr.umax 3 (qa 5) ∈
       [Instr.add 3 (qa 5), Instr.smin 3 (qa 5), Instr.smax 3 (qa 5), Instr.umin 3 (qa 5), Instr.umax 3 (qa 5), Instr.and 3 (qa 5), Instr.or 3 (qa 5), Instr.xor 3 (qa 5), Instr.swap 3 (qa 5), Instr.cas 3 (qa 5), Instr.fadd 3 (qa 5), Instr.vadd 3 (qa 5)]
       ∧ (Instr.umax 3 (qa 5)).wf = true ∧ State.wellFormed MemOp.atomic (qa 5) = true ∧ w0.cfg (offHalf 0) 0x20C0 1 ≠ 0) ∧
    (w0.Served (qa 6) 0 (aopSize (qa 6).aop) ∧ w0.Clean 0 (aopSize (qa 6).aop) ∧ Instr.and 3 (qa 6) ∈
       [Instr.add 3 (qa 6), Instr.smin 3 (qa 6), Instr.smax 3 (qa 6), Instr.umin 3 (qa 6), Instr.umax 3 (qa 6), Instr.and 3 (qa 6), Instr.or 3 (qa 6), Instr.xor 3 (qa 6), Instr.swap 3 (qa 6), Instr.cas 3 (qa 6), Instr.fadd 3 (qa 6), Instr.vadd 3 (qa 6)]
       ∧ (Instr.and 3 (qa 6)).wf = true ∧ State.wellFormed MemOp.atomic (qa 6) = true ∧ w0.cfg (offHalf 0) 0x20C0 1 ≠ 0) ∧
    (w0.Served (qa 7) 0 (aopSize (qa 7).aop) ∧ w0.Clean 0 (aopSize (qa 7).aop) ∧ Instr.or 3 (qa 7) ∈
       [Instr.add 3 (qa 7), Instr.smin 3 (qa 7), Instr.smax 3 (qa 7), Instr.umin 3 (qa 7), Instr.umax 3 (qa 7), Instr.and 3 (qa 7), Instr.or 3 (qa 7), Instr.xor 3 (qa 7), Instr.swap 3 (qa 7), Instr.cas 3 (qa 7), Instr.fadd 3 (qa 7), Instr.vadd 3 (qa 7)]
       ∧ (Instr.or 3 (qa 7)).wf = true ∧ State.wellFormed MemOp.atomic (qa 7) = true ∧ w0.cfg (offHalf 0) 0x20C0 1 ≠ 0) ∧
    (w0.Served (qa 8) 0 (aopSize (qa 8).aop) ∧ w0.Clean 0 (aopSize (qa 8).aop) ∧ Instr.xor 3 (qa 8) ∈
       [Instr.add 3 (qa 8), Instr.smin 3 (qa 8), Instr.smax 3 (qa 8), Instr.umin 3 (qa 8), Instr.umax 3 (qa 8), Instr.and 3 (qa 8), Instr.or 3 (qa 8), Instr.xor 3 (qa 8), Instr.swap 3 (qa 8), Instr.cas 3 (qa 8), Instr.fadd 3 (qa 8), Instr.vadd 3 (qa 8)]
       ∧ (Instr.xor 3 (qa 8)).wf = true ∧ State.wellFormed MemOp.atomic (qa 8) = true ∧ w0.cfg (offHalf 0) 0x20C0 1 ≠ 0) ∧
    (w0.Served (qa 9) 0 (aopSize (qa 9).aop) ∧ w0.Clean 0 (aopSize (qa 9).aop) ∧ Instr.swap 3 (qa 9) ∈
       [Instr.add 3 (qa 9), Instr.smin 3 (qa 9), Instr.smax 3 (qa 9), Instr.umin 3 (qa 9), Instr.umax 3 (qa 9), Instr.and 3 (qa 9), Instr.or 3 (qa 9), Instr.xor 3 (qa 9), Instr.swap 3 (qa 9), Instr.cas 3 (qa 9), Instr.fadd 3 (qa 9), Instr.vadd 3 (qa 9)]
       ∧ (Instr.swap 3 (qa 9)).wf = true ∧ State.wellFormed MemOp.atomic (qa 9) = true ∧ w0.cfg (offHalf 0) 0x20C0 1 ≠ 0) ∧
    (w0.Served (qa 58) 0 (aopSize (qa 58).aop) ∧ w0.Clean 0 (aopSize (qa 58).aop) ∧ Instr.cas 3 (qa 58) ∈
       [Instr.add 3 (qa 58), Instr.smin 3 (qa 58), Instr.smax 3 (qa 58), Instr.umin 3 (qa 58), Instr.umax 3 (qa 58), Instr.and 3 (qa 58), Instr.or 3 (qa 58), Instr.xor 3 (qa 58), Instr.swap 3 (qa 58), Instr.cas 3 (qa 58), Instr.fadd 3 (qa 58), Instr.vadd 3 (qa 58)]
       ∧ (Instr.cas 3 (qa 58)).wf = true ∧ State.wellFormed MemOp.atomic (qa 58) = true ∧ w0.cfg (offHalf 0) 0x20C0 1 ≠ 0) ∧
    (w0.Served (qa 11) 0 (aopSize (qa 11).aop) ∧ w0.Clean 0 (aopSize (qa 11).aop) ∧ Instr.fadd 3 (qa 11) ∈
       [Instr.add 3 (qa 11), Instr.smin 3 (qa 11), Instr.smax 3 (qa 11), Instr.umin 3 (qa 11), Instr.umax 3 (qa 11), Instr.and 3 (qa 11), Instr.or 3 (qa 11), Instr.xor 3 (qa 11), Instr.swap 3 (qa 11), Instr.cas 3 (qa 11), Instr.fadd 3 (qa 11), Instr.vadd 3 (qa 11)]
       ∧ (Instr.fadd 3 (qa 11)).wf = true ∧ State.wellFormed MemOp.atomic (qa 11) = true ∧ w0.cfg (offHalf 0) 0x20C0 1 ≠ 0) ∧
    (w0.Served (qa 44) 0 (aopSize (qa 44).aop) ∧ w0.Clean 0 (aopSize (qa 44).aop) ∧ Instr.vadd 3 (qa 44) ∈
       [Instr.add 3 (qa 44), Instr.smin 3 (qa 44), Instr.smax 3 (qa 44), Instr.umin 3 (qa 44), Instr.umax 3 (qa 44), Instr.and 3 (qa 44), Instr.or 3 (qa 44), Instr.xor 3 (qa 44), Instr.swap 3 (qa 44), Instr.cas 3 (qa 44), Instr.fadd 3 (qa 44), Instr.vadd 3 (qa 44)]
       ∧ (Instr.vadd 3 (qa 44)).wf = true ∧ State.wellFormed MemOp.atomic (qa 44) = true ∧ w0.cfg (offHalf 0) 0x20C0 1 ≠ 0) := ⟨⟨State.served_of _ _ _ _ (by decide +kernel), State.clean_of _ _ _ (by decide +kernel), by decide +kernel⟩,
   ⟨State.served_of _ _ _ _ (by decide +kernel), State.clean_of _ _ _ (by decide +kernel), by decide +kernel⟩,
   ⟨State.served_of _ _ _ _ (by decide +kernel), State.clean_of _ _ _ (by decide +kernel), by decide +kernel⟩,
   ⟨State.served_of _ _ _ _ (by decide +kernel), State.clean_of _ _ _ (by decide +kernel), by decide +kernel⟩,
   ⟨State.served_of _ _ _ _ (by decide +kernel), State.clean_of _ _ _ (by decide +kernel), by decide +kernel⟩,
   ⟨State.served_of _ _ _ _ (by decide +kernel), State.clean_of _ _ _ (by decide +kernel), by decide +kernel⟩,
   ⟨State.served_of _ _ _ _ (by decide +kernel), State.clean_of _ _ _ (by decide +kernel), by decide +kernel⟩,
   ⟨State.served_of _ _ _ _ (by decide +kernel), State.clean_of _ _ _ (by decide +kernel), by decide +kernel⟩,
   ⟨State.served_of _ _ _ _ (by decide +kernel), State.clean_of _ _ _ (by decide +kernel), by decide +kernel⟩,
   ⟨State.served_of _ _ _ _ (by decide +kernel), State.clean_of _ _ _ (by decide +kernel), by decide +kernel⟩,
   ⟨State.served_of _ _ _ _ (by decide +kernel), State.clean_of _ _ _ (by decide +kernel), by decide +kernel⟩,
   ⟨State.served_of _ _ _ _ (by decide +kernel), State.clean_of _ _ _ (by decide +kernel), by decide +kernel⟩⟩


theorem witness_CourseMessageArms :
    (wv.Quiet ∧ (Instr.courseMessage 3 (Via.port 7) 105).wf = true ∧ forUs (Via.port 7) = true ∧ 105 ≠ noCourse ∧ wv.avl.purlinUp
       = true ∧ wv.fromSource (Via.port 7) = true ∧ wv.west.armed = none ∧ wv.east.armed = none) ∧
    (x3_13_1.Quiet ∧ (Instr.courseMessage 3 (Via.port 7) 105).wf = true ∧ forUs (Via.port 7) = true ∧ 105 ≠ noCourse ∧
       x3_13_1.avl.purlinUp = true ∧ x3_13_1.fromSource (Via.port 7) = true ∧ x3_13_1.west.armed ≠ none) ∧
    (wv.Quiet ∧ (Instr.courseMessage 3 (Via.port 8) 105).wf = true ∧ forUs (Via.port 8) = true ∧ 105 ≠ noCourse ∧ wv.avl.purlinUp
       = true ∧ wv.fromSource (Via.port 8) = false) := ⟨⟨State.quiet_of _ (by decide +kernel), by decide +kernel⟩,
   ⟨State.quiet_of _ (by decide +kernel), by decide +kernel⟩,
   ⟨State.quiet_of _ (by decide +kernel), by decide +kernel⟩⟩


theorem witness_EarlyEdgeIgnored :
    (x3_15_1.Quiet ∧ 8 ≤ x3_15_1.phase ∧ x3_15_1.phase ≤ 10 ∧ x3_15_1.crs.lastEdge = some 999999000 ∧ x3_15_1.now + 0 < 999999000
       + 80000) ∧
    (x3_16_1.Quiet ∧ x3_16_1.phase < 8) := ⟨⟨State.quiet_of _ (by decide +kernel), by decide +kernel⟩,
   ⟨State.quiet_of _ (by decide +kernel), by decide +kernel⟩⟩


theorem witness_BeaconSilence :
    (w0.Quiet ∧ 8 ≤ w0.phase ∧ w0.phase ≤ 10 ∧ w0.crs.silent = false ∧ w0.crs.silentBase + 16000000000 ≤ w0.now + 16000000000) := ⟨State.quiet_of _ (by decide +kernel), by decide +kernel⟩


theorem witness_KeyCommands :
    (w0.Quiet ∧ pk1.wf = true ∧ bk pk1 = (w0.begun 3).authorized pk1 0 9 ∧ (w0.begun 3).Takes pk1 0x5200 1 ∧ (w0.begun
       3).Authorized pk1 0x5200 1 0 9 ∧ (∀ (key : Bytes),
       { key := some key, scope := if field 0 1 pk1.data = 0 then 127 else field 1 1 pk1.data % 128, kcv := field 0 4 (hmac384 key (ascii "BGYX3KCV")) : Slot }
       =
       { key := some key, scope := if field 0 1 pk1.data = 0 then 127 else field 1 1 pk1.data % 128, kcv := field 0 4 (hmac384 key (ascii "BGYX3KCV")) : Slot })
       ∧ (bk pk1).owned = true ∧ field 0 1 pk1.data ≤ 15 ∧ field 1 1 pk1.data % 128 ≠ 0) ∧
    (w0.Quiet ∧ pk2.wf = true ∧ bk pk2 = (w0.begun 3).authorized pk2 0 9 ∧ (w0.begun 3).Takes pk2 0x5200 2 ∧ (w0.begun
       3).Authorized pk2 0x5200 2 0 9 ∧ 1 ≤ field 0 1 pk2.data ∧ field 0 1 pk2.data ≤ 15) ∧
    (w0.Quiet ∧ pk3.wf = true ∧ bk pk3 = (w0.begun 3).authorized pk3 0 9 ∧ (w0.begun 3).Takes pk3 0x5200 3 ∧ (w0.begun
       3).Authorized pk3 0x5200 3 0 9) ∧
    (w0.Quiet ∧ pk4.wf = true ∧ bk pk4 = (w0.begun 3).authorized pk4 0 9 ∧ (w0.begun 3).Takes pk4 0x5200 4 ∧ (w0.begun
       3).Authorized pk4 0x5200 4 0 9 ∧ (bk pk4).enc.debug < field 0 1 pk4.data ∧ field 0 1 pk4.data ≤ 2 ∧ (field 0 1 pk4.data = 2
       → w0.phase ≠ 10)) := ⟨⟨State.quiet_of _ (by decide +kernel), State.signed_wf _ _ _ _ (by decide) (by decide +kernel), rfl, State.takes_of _ _ _ _ (by decide +kernel), State.signed_authorized _ _ _ _ _ (by decide +kernel), by first | decide +kernel | (intros; rfl) | (intro _ h; cases h; done) | (intro _ h; cases h; decide +kernel) | (intro k; cases k <;> decide +kernel), by decide +kernel⟩,
   ⟨State.quiet_of _ (by decide +kernel), State.signed_wf _ _ _ _ (by decide) (by decide +kernel), rfl, State.takes_of _ _ _ _ (by decide +kernel), State.signed_authorized _ _ _ _ _ (by decide +kernel), by decide +kernel⟩,
   ⟨State.quiet_of _ (by decide +kernel), State.signed_wf _ _ _ _ (by decide) (by decide +kernel), rfl, State.takes_of _ _ _ _ (by decide +kernel), State.signed_authorized _ _ _ _ _ (by decide +kernel)⟩,
   ⟨State.quiet_of _ (by decide +kernel), State.signed_wf _ _ _ _ (by decide) (by decide +kernel), rfl, State.takes_of _ _ _ _ (by decide +kernel), State.signed_authorized _ _ _ _ _ (by decide +kernel), by decide +kernel⟩⟩

end B3
namespace B4

def tr1 : Trailer := { slot := 0, counter := 3, tag := [] }
def tr2 : Trailer := { slot := 0, counter := 4, tag := tag256 [1,2,3] (State.cmdMessage 0x5200 3 { slot := 0, counter := 4, tag := [] } []) }
def x4_0_1 := { pdu [] with trailer := some tr1 }
def x4_1_1 := { pdu [] with trailer := some tr2 }
def sg : Pdu := pdu (le 4 4096 ++ [1,2,3])
def wact : State := { w0 with enc.banks := ({}, { verified := true }) }
def pact := signed 0x5300 3 9 (le 8 1000)
def pcom := signed 0x5300 4 9 []
def x4_5_1 := { w0 with enc.svn := 6 }
def w3 : State := { w0 with enc.st := 3 }
def wl : State := { w0 with enc.lmsReserved := 256 }
def wl2 : State := { w0 with enc.lmsNext := 2^20 }
def wd : State := { w0 with enc.debug := 2, east.running := false, east.ctlMem := [(8,9)] }
def ws : State := { w0 with slt.openSeq := some 3, slt.b := { written := true } }
def ps2 := signed 0x2F01 2 9 (le 8 500)
def ps3 := signed 0x2F01 3 9 []
def bs (p : Pdu) : State := (ws.begun 3).authorized p 0 9
def ws2 : State := { ws with slt.writing := some 7 }

theorem witness_TrailerRefusals :
    (x4_0_1.trailer = some tr1 ∧ tr1.tag ≠ tag256 [1, 2, 3] (State.cmdMessage 0x5200 3 tr1 []) ∧ w0.enc.st = 1 ∧ tr1.slot ≤ 15 ∧
       (w0.slot tr1.slot).key = some [1, 2, 3] ∧ (w0.slot tr1.slot).last ≠ State.lastCounter ∧ (w0.slot tr1.slot).throttle = none) ∧
    (x4_1_1.trailer = some tr2 ∧ tr2.tag = tag256 [1, 2, 3] (State.cmdMessage 0x5200 3 tr2 []) ∧ w0.enc.st = 1 ∧ tr2.slot ≤ 15 ∧
       (w0.slot tr2.slot).key = some [1, 2, 3] ∧ (w0.slot tr2.slot).last ≠ State.lastCounter ∧ (w0.slot tr2.slot).throttle = none
       ∧ tr2.counter ≤ (w0.slot tr2.slot).last) := ⟨⟨rfl, fun h => absurd ((congrArg List.length h).trans (tag256_length _ _)) (by decide), by decide +kernel⟩,
   ⟨rfl, congrArg (tag256 [1, 2, 3]) (State.cmdMessage_tag 0x5200 3 ⟨0, 4, []⟩ [] _).symm, by decide +kernel⟩⟩


theorem witness_ImageCommands :
    (w0.Quiet ∧ (w0.begun 3).Takes sg 0x5300 1 ∧ sg.wf = true ∧ 3 < w0.phase ∧ w0.phase ≤ 10 ∧ sg.trailer = none ∧ w0.enc.st ≠ 3 ∧
       field 0 4 sg.data % 4096 = 0 ∧ field 0 4 sg.data + (List.length sg.data - 4) ≤ 2 ^ 25) ∧
    (w0.Quiet ∧ (w0.begun 3).Takes (pdu []) 0x5300 2 ∧ (pdu []).wf = true ∧ 3 < w0.phase ∧ w0.phase ≤ 10 ∧ (pdu []).trailer = none
       ∧ w0.enc.st ≠ 3 ∧ w0.enc.st ≠ 4) ∧
    (wact.Quiet ∧ pact.wf = true ∧ (wact.begun 3).Takes pact 0x5300 3 ∧ (wact.begun 3).Authorized pact 0x5300 3 0 9 ∧ 3 <
       wact.phase ∧ wact.phase ≤ 10 ∧ wact.mgm.update = 0 ∧ (wact.bank wact.inactiveBank).verified = true) ∧
    (x4_5_1.Quiet ∧ pcom.wf = true ∧ (x4_5_1.begun 3).Takes pcom 0x5300 4 ∧ (x4_5_1.begun 3).Authorized pcom 0x5300 4 0 9 ∧ 3 <
       x4_5_1.phase ∧ x4_5_1.phase ≤ 10) := ⟨⟨State.quiet_of _ (by decide +kernel), State.takes_of _ _ _ _ (by decide +kernel), by decide +kernel⟩,
   ⟨State.quiet_of _ (by decide +kernel), State.takes_of _ _ _ _ (by decide +kernel), by decide +kernel⟩,
   ⟨State.quiet_of _ (by decide +kernel), State.signed_wf _ _ _ _ (by decide) (by decide +kernel), State.takes_of _ _ _ _ (by decide +kernel), State.signed_authorized _ _ _ _ _ (by decide +kernel), by decide +kernel⟩,
   ⟨State.quiet_of _ (by decide +kernel), State.signed_wf _ _ _ _ (by decide) (by decide +kernel), State.takes_of _ _ _ _ (by decide +kernel), State.signed_authorized _ _ _ _ _ (by decide +kernel), by decide +kernel⟩⟩


theorem witness_EnclaveFailures :
    (w0.Quiet ∧ 3 ≤ w0.phase ∧ w0.phase ≤ 10 ∧ (w0.enc.st = 1 ∨ w0.enc.st = 3)) ∧
    (w3.Quiet ∧ 3 ≤ w3.phase ∧ w3.phase ≤ 10 ∧ w3.enc.st = 3 ∧ w3.mgm.update = 0 ∧ w3.enc.active < 2) ∧
    (w0.Quiet ∧ (w0.begun 3).Takes (pdu [1]) 0x5000 16 ∧ (pdu [1]).wf = true ∧ (pdu [1]).trailer = none ∧ 3 < w0.phase ∧ w0.phase
       ≤ 10 ∧ field 0 1 (pdu [1]).data = 1 ∧ w0.enc.st = 1) := ⟨⟨State.quiet_of _ (by decide +kernel), by decide +kernel⟩,
   ⟨State.quiet_of _ (by decide +kernel), by decide +kernel⟩,
   ⟨State.quiet_of _ (by decide +kernel), State.takes_of _ _ _ _ (by decide +kernel), by decide +kernel⟩⟩


theorem witness_SpdmAnswers :
    (wl.Quiet ∧ 4 < 256 ∧ 0 < 65536 ∧ 100 < 65536 ∧ List.length (zeros 32) = 32 ∧ 3 ≤ wl.phase ∧ wl.phase ≤ 10 ∧ wl.enc.st = 1 ∧ 1
       ≤ 2 ∧ 2 ≤ 6) ∧
    (wl.Quiet ∧ 4 < 256 ∧ 0 < 65536 ∧ 100 < 65536 ∧ List.length (zeros 32) = 32 ∧ 3 ≤ wl.phase ∧ wl.phase ≤ 10 ∧ wl.enc.st = 1 ∧
       wl.enc.lmsNext < 2 ^ 20 ∧ wl.enc.lmsNext < wl.enc.lmsReserved) ∧
    (wl2.Quiet ∧ 4 < 256 ∧ 0 < 65536 ∧ 100 < 65536 ∧ List.length (zeros 32) = 32 ∧ 3 ≤ wl2.phase ∧ wl2.phase ≤ 10 ∧ wl2.enc.st = 1
       ∧ 2 ^ 20 ≤ wl2.enc.lmsNext) := ⟨⟨State.quiet_of _ (by decide +kernel), by decide +kernel⟩,
   ⟨State.quiet_of _ (by decide +kernel), by decide +kernel⟩,
   ⟨State.quiet_of _ (by decide +kernel), by decide +kernel⟩⟩


theorem witness_DebugPortLevels :
    (w0.Quiet ∧ 8 < 2 ^ 32 ∧ 9 < 2 ^ 32 ∧ DebugAccess.halt Half.east ∈
       [DebugAccess.trace Half.east, DebugAccess.read Half.east 8, DebugAccess.halt Half.east, DebugAccess.write Half.east 8 9] ∧
       w0.enc.debug = 0) ∧
    (w0.Quiet ∧ 8 < 2 ^ 32 ∧ 9 < 2 ^ 32 ∧ DebugAccess.trace Half.east ∈
       [DebugAccess.trace Half.east, DebugAccess.read Half.east 8, DebugAccess.halt Half.east, DebugAccess.write Half.east 8 9] ∧
       w0.enc.debug = 0) ∧
    (w0.Quiet ∧ 8 < 2 ^ 32 ∧ 9 < 2 ^ 32 ∧ DebugAccess.write Half.east 8 9 ∈
       [DebugAccess.trace Half.east, DebugAccess.read Half.east 8, DebugAccess.halt Half.east, DebugAccess.write Half.east 8 9] ∧
       w0.enc.debug = 0) ∧
    (wd.Quiet ∧ 8 < 2 ^ 32 ∧ 9 < 2 ^ 32 ∧ wd.enc.debug = 2 ∧ (wd.half Half.east).running = false ∧ tget 8 (wd.half
       Half.east).ctlMem = some 9) := ⟨⟨State.quiet_of _ (by decide +kernel), by decide +kernel⟩,
   ⟨State.quiet_of _ (by decide +kernel), by decide +kernel⟩,
   ⟨State.quiet_of _ (by decide +kernel), by decide +kernel⟩,
   ⟨State.quiet_of _ (by decide +kernel), by decide +kernel⟩⟩


theorem witness_SlateCommands :
    (ws.Quiet ∧ ps2.wf = true ∧ bs ps2 = (ws.begun 3).authorized ps2 0 9 ∧ (ws.begun 3).Takes ps2 0x2F01 2 ∧ (ws.begun
       3).Authorized ps2 0x2F01 2 0 9 ∧ ws.slt.openSeq.isSome = true ∧ ws.slt.writing = none ∧ ws.course ≠ noCourse) ∧
    (ws.Quiet ∧ ps3.wf = true ∧ bs ps3 = (ws.begun 3).authorized ps3 0 9 ∧ (ws.begun 3).Takes ps3 0x2F01 3 ∧ (ws.begun
       3).Authorized ps3 0x2F01 3 0 9 ∧ ws.slt.openSeq.isSome = true ∧ ws.slt.scheduled = none ∧ ws.slt.writing = none) ∧
    (ws2.Quiet ∧ ps3.wf = true ∧ ws2.slt.writing = some 7 ∧ ws2.slt.openSeq = some 3 ∧ ws2.slt.active < 2) ∧
    (w0.slt.active < 2 ∧ ([5].length ≤ 8 → slateValueBad 0x2040 1 (ofLe [5]) = false)) := ⟨⟨State.quiet_of _ (by decide +kernel), State.signed_wf _ _ _ _ (by decide) (by decide +kernel), rfl, State.takes_of _ _ _ _ (by decide +kernel), State.signed_authorized _ _ _ _ _ (by decide +kernel), by decide +kernel⟩,
   ⟨State.quiet_of _ (by decide +kernel), State.signed_wf _ _ _ _ (by decide) (by decide +kernel), rfl, State.takes_of _ _ _ _ (by decide +kernel), State.signed_authorized _ _ _ _ _ (by decide +kernel), by decide +kernel⟩,
   ⟨State.quiet_of _ (by decide +kernel), by decide +kernel⟩,
   by decide +kernel⟩

end B4
namespace B5

def ql (op : MemOp) : Req := { q0 with aop := 0, size := 0, len := State.reqUnits false op q0, sid := 0xF0 }
def wr : State := { w0 with rdg.agents := [(0, { state := 1, node := 5 }), (3, { state := 1, node := 9, tag := 0 })] }
def qwb : Req := { q0 with size := 0, data := List.replicate 128 6, len := State.reqUnits false .wbd { q0 with data := List.replicate 128 6 } }
def wwb : State := { wr with west.dir := [(0, ⟨4, 3, 0⟩)] }
def wev : State := { wr with west.dir := [(0, ⟨3, 3, 0⟩)] }
def ba (s : State) (p : Pdu) : State := (s.begun 3).authorized p 0 9
def reg0 : PubRegion := { ctx := 1, base := mkGa 5 0, pages := 1, version := 4 }
def pp6 := signed 0x3FF0 6 9 (le 1 2)
def wp : State := { w0 with rdg.regions := [(2, reg0)] }
def pp5 := signed 0x3FF0 5 9 (le 1 2 ++ le 2 1 ++ le 8 (mkGa 5 0) ++ le 4 1 ++ le 4 4)
def qpub : Req := { q0 with aop := 0 }
def hp (v : Nat) : Held := { acc := { op := .pub, q := qpub, ga := mkGa 5 0, org := .remote (.node 9 0xF0), region := 2, version := v }, bytes := 0, released := true }
def wq (v : Nat) : State := { wp with west.held := [hp v] }
def pn : Pend := { snp := 9, await := [3], old := ⟨3,3,0⟩, why := .move }
def wpn : State := { wr with west.pend := [(0, pn)], west.dir := [(0, ⟨5,3,0⟩)] }
def sr (d : Bool) : Srsp := { via := .batch 2, agentTag := 0, hit := true, poison := false, line := (mkGa 5 0) / 128, dirty := d, data := if d then List.replicate 128 9 else [], ctx := 1, job := 7 }
def ag : Aged := { line := 0, src := 9, sid := 0xF0, tag := 3, head := false }
def x5_14_1 := { wr with west.aged := [ag] }
def wpq : State := { w0 with gel.west.st := 4 }
def x5_16_1 := { q0 with len := State.reqUnits false .pub q0 }

theorem witness_CoherentGrants :
    (wr.Served (ql MemOp.rds) 0 128 ∧ wr.Clean 0 128 ∧ (Instr.rds 3 (ql MemOp.rds), MemOp.rds, { st := 3, shr := 3 : Entry }, 2) ∈
       [(Instr.rds 3 (ql MemOp.rds), MemOp.rds, { st := 3, shr := 3 : Entry }, 2), (Instr.rdo 3 (ql MemOp.rds), MemOp.rdo, { st := 4, shr := 3 : Entry }, 3), (Instr.upg 3 (ql MemOp.rds), MemOp.upg, { st := 4, shr := 3 : Entry }, 3)]
       ∧ (Instr.rds 3 (ql MemOp.rds)).wf = true ∧ State.wellFormed MemOp.rds (ql MemOp.rds) = true ∧ 0 % 128 = 0 ∧ wr.agentFor (ql
       MemOp.rds) = some 3 ∧ wr.ylx.moves = [] ∧ wr.tainted (ql MemOp.rds).ctx (ql MemOp.rds).job = false) ∧
    (wr.Served (ql MemOp.rdo) 0 128 ∧ wr.Clean 0 128 ∧ (Instr.rdo 3 (ql MemOp.rdo), MemOp.rdo, { st := 4, shr := 3 : Entry }, 3) ∈
       [(Instr.rds 3 (ql MemOp.rdo), MemOp.rds, { st := 3, shr := 3 : Entry }, 2), (Instr.rdo 3 (ql MemOp.rdo), MemOp.rdo, { st := 4, shr := 3 : Entry }, 3), (Instr.upg 3 (ql MemOp.rdo), MemOp.upg, { st := 4, shr := 3 : Entry }, 3)]
       ∧ (Instr.rdo 3 (ql MemOp.rdo)).wf = true ∧ State.wellFormed MemOp.rdo (ql MemOp.rdo) = true ∧ 0 % 128 = 0 ∧ wr.agentFor (ql
       MemOp.rdo) = some 3 ∧ wr.ylx.moves = [] ∧ wr.tainted (ql MemOp.rdo).ctx (ql MemOp.rdo).job = false) ∧
    (wr.Served (ql MemOp.upg) 0 128 ∧ wr.Clean 0 128 ∧ (Instr.upg 3 (ql MemOp.upg), MemOp.upg, { st := 4, shr := 3 : Entry }, 3) ∈
       [(Instr.rds 3 (ql MemOp.upg), MemOp.rds, { st := 3, shr := 3 : Entry }, 2), (Instr.rdo 3 (ql MemOp.upg), MemOp.rdo, { st := 4, shr := 3 : Entry }, 3), (Instr.upg 3 (ql MemOp.upg), MemOp.upg, { st := 4, shr := 3 : Entry }, 3)]
       ∧ (Instr.upg 3 (ql MemOp.upg)).wf = true ∧ State.wellFormed MemOp.upg (ql MemOp.upg) = true ∧ 0 % 128 = 0 ∧ wr.agentFor (ql
       MemOp.upg) = some 3 ∧ wr.ylx.moves = [] ∧ wr.tainted (ql MemOp.upg).ctx (ql MemOp.upg).job = false) := ⟨⟨State.served_of _ _ _ _ (by decide +kernel), State.clean_of _ _ _ (by decide +kernel), by decide +kernel⟩,
   ⟨State.served_of _ _ _ _ (by decide +kernel), State.clean_of _ _ _ (by decide +kernel), by decide +kernel⟩,
   ⟨State.served_of _ _ _ _ (by decide +kernel), State.clean_of _ _ _ (by decide +kernel), by decide +kernel⟩⟩


theorem witness_WriteBackAndEvict :
    (wwb.Quiet ∧ ({ wwb with west := ({ wwb.west with dir := [] } : HalfSt), east := ({ wwb.east with dir := [] } : HalfSt) } :
       State).Served qwb 0 128 ∧ (Instr.wbd 3 qwb).wf = true ∧ 0 % 128 = 0 ∧ wwb.backAgent qwb = some 3 ∧ qwb.pz % 2 = 0 ∧
       (wwb.half (offHalf 0)).pend = [] ∧ (wwb.half (offHalf 0)).dir = [(0 / 128, { st := 4, shr := 3 % 64 : Entry })] ∧ 3 < 64 ∧
       State.wellFormed MemOp.wbd qwb = true) ∧
    (wr.Quiet ∧ ({ wr with west := ({ wr.west with dir := [] } : HalfSt), east := ({ wr.east with dir := [] } : HalfSt) } :
       State).Served qwb 0 128 ∧ (Instr.wbd 3 qwb).wf = true ∧ 0 % 128 = 0 ∧ wr.backAgent qwb = some 3 ∧ qwb.pz % 2 = 0 ∧ (wr.half
       (offHalf 0)).pend = [] ∧ (wr.half (offHalf 0)).dir = [] ∧ State.wellFormed MemOp.wbd qwb = true) ∧
    (wev.Quiet ∧ ({ wev with west := ({ wev.west with dir := [] } : HalfSt), east := ({ wev.east with dir := [] } : HalfSt) } :
       State).Served (ql MemOp.evc) 0 128 ∧ (wev.begun 3).countArrival qwb.via 2 (ql MemOp.evc).len = (wev.begun 3).countArrival
       (ql MemOp.evc).via 2 (ql MemOp.evc).len ∧ (Instr.wbd 3 (ql MemOp.evc)).wf = true ∧ 0 % 128 = 0 ∧ wev.backAgent (ql
       MemOp.evc) = some 3 ∧ (ql MemOp.evc).pz % 2 = 0 ∧ (wev.half (offHalf 0)).pend = [] ∧ (wev.half (offHalf 0)).dir =
       [(0 / 128, { st := 3, shr := 3 % 64 : Entry })] ∧ 3 < 64 ∧ State.wellFormed MemOp.evc (ql MemOp.evc) = true) := ⟨⟨State.quiet_of _ (by decide +kernel), State.served_of _ _ _ _ (by decide +kernel), by decide +kernel⟩,
   ⟨State.quiet_of _ (by decide +kernel), State.served_of _ _ _ _ (by decide +kernel), by decide +kernel⟩,
   ⟨State.quiet_of _ (by decide +kernel), State.served_of _ _ _ _ (by decide +kernel), rfl, by decide +kernel⟩⟩


theorem witness_Publication :
    (wp.Quiet ∧ pp6.wf = true ∧ ba wp pp6 = (wp.begun 3).authorized pp6 0 9 ∧ (wp.begun 3).Takes pp6 0x3FF0 6 ∧ (wp.begun
       3).Authorized pp6 0x3FF0 6 0 9 ∧ 0 = gaOff reg0.base ∧ wp.near.stackRecs = [] ∧ field 0 1 pp6.data = 2 ∧ tget 2
       wp.rdg.regions = some reg0) ∧
    (w0.Quiet ∧ pp5.wf = true ∧ ba w0 pp5 = (w0.begun 3).authorized pp5 0 9 ∧ (w0.begun 3).Takes pp5 0x3FF0 5 ∧ (w0.begun
       3).Authorized pp5 0x3FF0 5 0 9 ∧ 0 = gaOff reg0.base ∧ w0.near.stackRecs = [] ∧ field 0 1 pp5.data = 2 ∧ 2 < 128 ∧
       w0.rdg.regions = [] ∧ w0.plc.regions = [] ∧ w0.plc.moves = [] ∧ w0.ylx.moves = [] ∧ w0.avl.serving = [] ∧ w0.west.staged =
       [] ∧ w0.east.staged = [] ∧ reg0 =
       { ctx := field 1 2 pp5.data, base := mkGa w0.nodeNum (gaOff (field 3 8 pp5.data % 2 ^ 62)), pages := field 11 4 pp5.data, version := field 15 4 pp5.data : PubRegion }
       ∧ reg0.ctx ≠ 0 ∧ reg0.ctx ≤ 1023 ∧ field 3 8 pp5.data % 65536 = 0 ∧ reg0.pages ≠ 0 ∧ w0.nodeNum ≠ 0x3FFF ∧ gaNode (field 3
       8 pp5.data) = w0.nodeNum ∧ w0.grantedRange reg0.ctx 0 reg0.pages = true ∧ (w0.half (offHalf 0)).dir = []) ∧
    ((wq 5).Quiet ∧ ba (wq 5) pp5 = ((wq 5).begun 3).authorized pp5 0 9 ∧ pp5.wf = true ∧ 0 = gaOff reg0.base ∧ (wq
       5).near.stackRecs = [] ∧ (wq 5).rdg.mode ≠ 0 ∧ (wq 5).rdg.regions = [(2, reg0)] ∧ (hp 5).acc.op = MemOp.pub ∧ (hp
       5).acc.region = 2 ∧ (hp 5).released = true ∧ (hp 5).acc.q = qpub ∧ qpub.u = false ∧ (hp 5).acc.hold = false ∧ (hp
       5).acc.org = Origin.remote (Party.node qpub.src qpub.sid) ∧ ((wq 5).half Half.west).held = [hp 5] ∧ (wq 5).east.held = [] ∧
       offHalf 0 = Half.west ∧ (wq 5).west.dir = [] ∧ (wq 5).west.retried = [] ∧ (wq 5).west.aged = [] ∧ (wq 5).isSelf (gaNode (hp
       5).acc.ga) = true ∧ reg0.ctx = qpub.ctx ∧ (wq 5).extentCheck qpub.ctx (hp 5).acc.ga 0 = none ∧ qpub.src < 2 ^ 14 ∧ qpub.sid
       < 256 ∧ qpub.job < 2 ^ 16 ∧ qpub.tag < 2 ^ 20 ∧ (hp 5).acc.version = (reg0.version + 1) % 2 ^ 32) ∧
    ((wq 6).Quiet ∧ ba (wq 6) pp5 = ((wq 6).begun 3).authorized pp5 0 9 ∧ pp5.wf = true ∧ 0 = gaOff reg0.base ∧ (wq
       6).near.stackRecs = [] ∧ (wq 6).rdg.mode ≠ 0 ∧ (wq 6).rdg.regions = [(2, reg0)] ∧ (hp 6).acc.op = MemOp.pub ∧ (hp
       6).acc.region = 2 ∧ (hp 6).released = true ∧ (hp 6).acc.q = qpub ∧ qpub.u = false ∧ (hp 6).acc.hold = false ∧ (hp
       6).acc.org = Origin.remote (Party.node qpub.src qpub.sid) ∧ ((wq 6).half Half.west).held = [hp 6] ∧ (wq 6).east.held = [] ∧
       offHalf 0 = Half.west ∧ (wq 6).west.dir = [] ∧ (wq 6).west.retried = [] ∧ (wq 6).west.aged = [] ∧ (wq 6).isSelf (gaNode (hp
       6).acc.ga) = true ∧ reg0.ctx = qpub.ctx ∧ (wq 6).extentCheck qpub.ctx (hp 6).acc.ga 0 = none ∧ qpub.src < 2 ^ 14 ∧ qpub.sid
       < 256 ∧ qpub.job < 2 ^ 16 ∧ qpub.tag < 2 ^ 20 ∧ (hp 6).acc.version ≠ (reg0.version + 1) % 2 ^ 32) := ⟨⟨State.quiet_of _ (by decide +kernel), State.signed_wf _ _ _ _ (by decide) (by decide +kernel), rfl, State.takes_of _ _ _ _ (by decide +kernel), State.signed_authorized _ _ _ _ _ (by decide +kernel), by decide +kernel⟩,
   ⟨State.quiet_of _ (by decide +kernel), State.signed_wf _ _ _ _ (by decide) (by decide +kernel), rfl, State.takes_of _ _ _ _ (by decide +kernel), State.signed_authorized _ _ _ _ _ (by decide +kernel), by decide +kernel⟩,
   ⟨State.quiet_of _ (by decide +kernel), rfl, by decide +kernel⟩,
   ⟨State.quiet_of _ (by decide +kernel), rfl, by decide +kernel⟩⟩


theorem witness_RidgeEvents :
    (wpn.Quiet ∧ (sr true).via = Via.batch 2 ∧ (sr true).u = false ∧ (Instr.srsp 3 (sr true)).wf = true ∧ wpn.locateHere ((sr
       true).line * 128) = State.Loc.near (0 * 128) ∧ offHalf (0 * 128) = Half.west ∧ (wpn.half Half.west).pend = [(0, pn)] ∧
       wpn.avl.purlinUp = true ∧ (wpn.half Half.west).recalls = [] ∧ pn.await = [3] ∧ pn.why = Why.move ∧ pn.wbd = [] ∧ pn.dirty =
       none ∧ pn.discard = false ∧ wpn.plc.moves = [] ∧ wpn.answering (sr true) [3] = some 3) ∧
    (wpn.Quiet ∧ (sr false).via = Via.batch 2 ∧ (sr false).u = false ∧ (Instr.srsp 3 (sr false)).wf = true ∧ wpn.locateHere ((sr
       false).line * 128) = State.Loc.near (0 * 128) ∧ offHalf (0 * 128) = Half.west ∧ (wpn.half Half.west).pend = [(0, pn)] ∧
       wpn.avl.purlinUp = true ∧ (wpn.half Half.west).recalls = [] ∧ pn.await = [3] ∧ pn.why = Why.move ∧ pn.wbd = [] ∧ pn.dirty =
       none ∧ pn.discard = false ∧ wpn.plc.moves = [] ∧ wpn.answering (sr false) [3] = some 3) ∧
    (wpn.Quiet ∧ lineOk 0 = true ∧ tget 0 (wpn.half Half.west).pend = some pn ∧ pn.await = [3] ∧ 3 < 64 ∧ pn.resent = false ∧
       pn.stamp + max 1600 (wpn.cfg Half.west 0x20B0 1) ≤ wpn.now + 3) ∧
    (x5_14_1.Quiet ∧ lineOk 0 = true ∧ (x5_14_1.half Half.west).dir = [] ∧ (x5_14_1.half Half.west).aged = [ag] ∧ ag.line = 0 ∧
       ag.head = false ∧ ag.since + 16 * max 1600 (x5_14_1.cfg Half.west 0x20B0 1) ≤ x5_14_1.now + 3) ∧
    (wpq.Quiet ∧ (Instr.pq 3 Half.west 7 8 false (mkGa 5 0 / 128) false).wf = true ∧ wpq.endUp Half.west = true ∧ wpq.locateHere
       (mkGa 5 0 / 128 * 128) = State.Loc.near 0 ∧ 0 < nearSize ∧ wpq.cfgBit Half.west 0x20B0 2 0 = true ∧ wpq.filterHit Half.west
       (offHalf 0) (0 / 128) = false) ∧
    (wp.Quiet ∧ x5_16_1.via = Via.batch 0 ∧ (Instr.pub 3 x5_16_1 2 5 wp.nodeNum).wf = true ∧ State.wellFormed MemOp.pub x5_16_1 =
       true ∧ wp.nodeNum ≠ 0x3FFF ∧ wp.phase = 10 ∧ x5_16_1.ctx ≠ 0 ∧ x5_16_1.job ≠ 65535 ∧ x5_16_1.u = false ∧ wp.rdg.mode ≠ 0 ∧
       wp.avl.purlinUp = true ∧ wp.cfgBit (portHalf 0) 0x20D0 1 2 = false ∧ tget 2 wp.rdg.regions = some reg0) := ⟨⟨State.quiet_of _ (by decide +kernel), by decide +kernel⟩,
   ⟨State.quiet_of _ (by decide +kernel), by decide +kernel⟩,
   ⟨State.quiet_of _ (by decide +kernel), by decide +kernel⟩,
   ⟨State.quiet_of _ (by decide +kernel), by decide +kernel⟩,
   ⟨State.quiet_of _ (by decide +kernel), by decide +kernel⟩,
   ⟨State.quiet_of _ (by decide +kernel), by decide +kernel⟩⟩

end B5
namespace B6

def ql (op : MemOp) : Req := { q0 with aop := 0, size := 0, len := State.reqUnits false op q0, sid := 0xF0 }
def wr : State := { w0 with rdg.agents := [(0, { state := 1, node := 5 }), (3, { state := 1, node := 9, tag := 0 })] }
def reg0 : PubRegion := { ctx := 1, base := mkGa 5 0, pages := 1, version := 4 }
def wp : State := { w0 with rdg.regions := [(2, reg0)] }
def pn : Pend := { snp := 9, await := [3], old := ⟨3,3,0⟩, why := .move }
def wpn : State := { wr with west.pend := [(0, pn)], west.dir := [(0, ⟨5,3,0⟩)] }
def sr (d : Bool) : Srsp := { via := .batch 2, agentTag := 0, line := (mkGa 5 0) / 128, hit := true, dirty := d, poison := false, data := if d then List.replicate 128 9 else [], ctx := 1, job := 7 }
def x6_2_1 := { q0 with len := State.reqUnits false .pub q0 }
def im : IntegrityMsg := { via := .batch 2, src := 9, sid := 0xF0, reason := 3, ctx := 1, job := 7, node := 9, serial := 4, course := 99 }
def g0 : Group := { ctx := 1, job := 7, serial := 8, deps := [⟨9, 4⟩], blocks := [2, 5] }
def wcf : State := { w0 with itg.groups := [(3, g0)], near.metas := [(2, { st := 1, crc := 7, tag := 3 }), (5, { st := 1, crc := 7, tag := 3 }), (6, { st := 1, crc := 7, tag := 3 })] }
def x6_5_1 := { im with src := 8 }
def x6_6_1 := { im with via := .geled .west true }
def wroof : State := { w0 with west.slate := [((0x2070, 1), [0]), ((0x20F0, 1), le 2 9)], east.slate := [((0x2070, 1), [0]), ((0x20F0, 1), le 2 9)] }
def img : IntegrityMsg := { im with via := .geled .west true }
def wjob : State := { w0 with itg.jobs := [((1,7), { course := 50 }), ((1,8), {})] }
def g1 : Group := { ctx := 1, job := 7, serial := 4, phase := 1, receivers := [9] }
def x6_10_1 := { w0 with itg.groups := [(4100, g1)] }
def ac (op : MemOp) : Acc := { op := op, q := q0, ga := mkGa 5 0, org := .host (.host 3) }
def rp0 : Reply := { u := true, ck := ⟨9, 77⟩, data := zeros 8 }
def wt : State := { w0 with itg.groups := [(2, { ctx := 1, job := 7, serial := 8 })], itg.waits := [{ acc := ac .read, reply := some rp0, atHome := false }] }
def x6_12_1 := { w0 with itg.jobs := [((1,7), { ended := true, reason := 2 })] }
def x6_13_1 := { w0 with itg.jobs := [((1,7), { ended := false, course := 2 })] }
def x6_14_1 := { w0 with itg.jobs := [((1,7), { ended := true, reason := 2 })] }
def x6_15_1 := { w0 with itg.jobs := [((1,7), { ended := true, reason := 2 })] }
def whm : State := { w0 with near.metas := [(2, { crc := crc32c (zeros 4096) + 1, tag := 3, void := false }), (3, { crc := crc32c (zeros 4096), void := false })] }
def wed : State := { w0 with now := 999100000, west := { course := 100, armed := some 105, leaseSeq := 3 }, east := { course := 100, armed := some 105, leaseSeq := 3 } }
def wed2 : State := { wed with phase := 8, crs.first := noCourse, crs.lastEdge := none, west.course := noCourse, east.course := noCourse }

theorem witness_RidgeEvents :
    (wpn.Quiet ∧ (sr true).via = Via.batch 2 ∧ (sr true).u = false ∧ (Instr.srsp 3 (sr true)).wf = true ∧ wpn.locateHere ((sr
       true).line * 128) = State.Loc.near (0 * 128) ∧ offHalf (0 * 128) = Half.west ∧ (wpn.half Half.west).pend = [(0, pn)] ∧
       wpn.avl.purlinUp = true ∧ (wpn.half Half.west).recalls = [] ∧ pn.await = [3] ∧ pn.why = Why.move ∧ pn.wbd = [] ∧ pn.dirty =
       none ∧ pn.discard = false ∧ wpn.plc.moves = [] ∧ wpn.answering (sr true) [3] = some 3) ∧
    (wpn.Quiet ∧ (sr false).via = Via.batch 2 ∧ (sr false).u = false ∧ (Instr.srsp 3 (sr false)).wf = true ∧ wpn.locateHere ((sr
       false).line * 128) = State.Loc.near (0 * 128) ∧ offHalf (0 * 128) = Half.west ∧ (wpn.half Half.west).pend = [(0, pn)] ∧
       wpn.avl.purlinUp = true ∧ (wpn.half Half.west).recalls = [] ∧ pn.await = [3] ∧ pn.why = Why.move ∧ pn.wbd = [] ∧ pn.dirty =
       none ∧ pn.discard = false ∧ wpn.plc.moves = [] ∧ wpn.answering (sr false) [3] = some 3) ∧
    (wp.Quiet ∧ x6_2_1.via = Via.batch 0 ∧ (Instr.pub 3 x6_2_1 2 5 wp.nodeNum).wf = true ∧ State.wellFormed MemOp.pub x6_2_1 =
       true ∧ wp.nodeNum ≠ 0x3FFF ∧ wp.phase = 10 ∧ x6_2_1.ctx ≠ 0 ∧ x6_2_1.job ≠ 65535 ∧ x6_2_1.u = false ∧ wp.rdg.mode ≠ 0 ∧
       wp.avl.purlinUp = true ∧ wp.cfgBit (portHalf 0) 0x20D0 1 2 = false ∧ tget 2 wp.rdg.regions = some reg0) := ⟨⟨State.quiet_of _ (by decide +kernel), by decide +kernel⟩,
   ⟨State.quiet_of _ (by decide +kernel), by decide +kernel⟩,
   ⟨State.quiet_of _ (by decide +kernel), by decide +kernel⟩⟩


theorem witness_ConfirmAndRetract :
    (wcf.Quiet ∧ im.wf = true ∧ im.src = im.node ∧ im.sid = 240 ∧ wcf.entersHere im.via = false ∧ forUs im.via = true ∧
       im.reserved = false ∧ im.node ≠ wcf.nodeNum ∧ 3 < 4096 ∧ wcf.itg.groups = [(3, g0)] ∧ g0.phase = 0 ∧ g0.deps =
       [{ node := im.node, serial := im.serial : CheckId }] ∧ g0.pending = 0 ∧ g0.receivers = [] ∧ wcf.itg.commits = [] ∧
       wcf.itg.waits = [] ∧ wcf.west.held = [] ∧ wcf.east.held = [] ∧ wcf.west.caps = [] ∧ wcf.east.caps = [] ∧ wcf.eng.outs = []
       ∧ wcf.eng.tiles = [] ∧ wcf.eng.yealms = [] ∧ wcf.eng.updates = [] ∧ g0.job ≠ 65535 ∧ wcf.jobEnded g0.ctx g0.job = false ∧
       List.length wcf.itg.jobs < 4096) ∧
    (wcf.Quiet ∧ x6_5_1.wf = true ∧ Instr.confirm 3 x6_5_1 ∈ [Instr.confirm 3 x6_5_1, Instr.retract 3 x6_5_1] ∧ forUs x6_5_1.via =
       true ∧ x6_5_1.reserved = false ∧ (x6_5_1.src ≠ x6_5_1.node ∨ x6_5_1.sid ≠ 240 ∨ wcf.entersHere x6_5_1.via = true)) ∧
    (wcf.Quiet ∧ x6_6_1.wf = true ∧ Instr.retract 3 x6_6_1 ∈ [Instr.confirm 3 x6_6_1, Instr.retract 3 x6_6_1] ∧ forUs x6_6_1.via =
       true ∧ x6_6_1.reserved = false ∧ (x6_6_1.src ≠ x6_6_1.node ∨ x6_6_1.sid ≠ 240 ∨ wcf.entersHere x6_6_1.via = true)) := ⟨⟨State.quiet_of _ (by decide +kernel), by decide +kernel⟩,
   ⟨State.quiet_of _ (by decide +kernel), by decide +kernel⟩,
   ⟨State.quiet_of _ (by decide +kernel), by decide +kernel⟩⟩


theorem witness_JobMessages :
    (w0.Quiet ∧ img.wf = true ∧ img.reserved = false ∧ forUs img.via = true ∧ 1 ≤ img.reason ∧ img.reason ≤ 5 ∧ w0.mayEndJob img =
       true ∧ img.job ≠ 65535 ∧ w0.jobEnded img.ctx img.job = false ∧ w0.itg.groups = [] ∧ w0.itg.commits = [] ∧ w0.west.caps = []
       ∧ w0.east.caps = [] ∧ w0.eng.tiles = [] ∧ w0.eng.yealms = [] ∧ w0.eng.updates = [] ∧ List.length w0.itg.jobs < 4096) ∧
    (wjob.Quiet ∧ img.wf = true ∧ img.reserved = false ∧ forUs img.via = true ∧ 1 ≤ img.reason ∧ img.reason ≤ 5 ∧ wjob.mayEndJob
       img = true ∧ img.job ≠ 65535 ∧ wjob.jobEnded img.ctx img.job = false ∧ wjob.itg.groups = [] ∧ wjob.itg.commits = [] ∧
       wjob.west.caps = [] ∧ wjob.east.caps = [] ∧ wjob.eng.tiles = [] ∧ wjob.eng.yealms = [] ∧ wjob.eng.updates = [] ∧
       List.length wjob.itg.jobs < 4096) ∧
    (wjob.Quiet ∧ img.wf = true ∧ img.reserved = false ∧ forUs img.via = true ∧ wjob.mayCommit img = true ∧ tget (img.ctx,
       img.job) wjob.itg.jobs = some { course := 50 : Job } ∧ { course := 50 : Job }.ended = false ∧ wjob.itg.groups = []) ∧
    (x6_10_1.Quiet ∧ img.wf = true ∧ img.reserved = false ∧ forUs img.via = true ∧ tget (4096 + img.serial) x6_10_1.itg.groups =
       some g1 ∧ g1.phase = 1 ∧ x6_10_1.writesUnder (x6_10_1.idOf g1) = false ∧ g1.receivers = [9]) ∧
    (wt.Quiet ∧ img.wf = true ∧ img.reserved = false ∧ forUs img.via = true ∧ wt.itg.waits[0]? = some
       { acc := ac MemOp.read, reply := some rp0, atHome := false : GroupWait } ∧
       { acc := ac MemOp.read, reply := some rp0, atHome := false : GroupWait }.reply = some rp0 ∧
       { acc := ac MemOp.read, reply := some rp0, atHome := false : GroupWait }.acc.org = Origin.host (Party.host 3) ∧
       { acc := ac MemOp.read, reply := some rp0, atHome := false : GroupWait }.acc.op = MemOp.read ∧ rp0.u = true ∧ rp0.blks = []
       ∧ wt.jobEnded { acc := ac MemOp.read, reply := some rp0, atHome := false : GroupWait }.acc.q.ctx
       { acc := ac MemOp.read, reply := some rp0, atHome := false : GroupWait }.acc.q.job = false ∧ wt.openGroupOf
       { acc := ac MemOp.read, reply := some rp0, atHome := false : GroupWait }.acc.q.ctx
       { acc := ac MemOp.read, reply := some rp0, atHome := false : GroupWait }.acc.q.job = some (2,
       { ctx := 1, job := 7, serial := 8 : Group }) ∧ rp0.ck ≠ wt.idOf { ctx := 1, job := 7, serial := 8 : Group } ∧
       { ctx := 1, job := 7, serial := 8 : Group }.deps.contains rp0.ck = false ∧
       { ctx := 1, job := 7, serial := 8 : Group }.deps.length < 16) := ⟨⟨State.quiet_of _ (by decide +kernel), by decide +kernel⟩,
   ⟨State.quiet_of _ (by decide +kernel), by decide +kernel⟩,
   ⟨State.quiet_of _ (by decide +kernel), by decide +kernel⟩,
   ⟨State.quiet_of _ (by decide +kernel), by decide +kernel⟩,
   ⟨State.quiet_of _ (by decide +kernel), by decide +kernel⟩⟩


theorem witness_JobCommands :
    (x6_12_1.Quiet ∧ (x6_12_1.begun 3).Takes (pdu (le 2 1 ++ le 2 7)) 0x3FC0 1 ∧ (pdu (le 2 1 ++ le 2 7)).wf = true ∧ (pdu (le 2 1
       ++ le 2 7)).trailer = none ∧ field 0 2 (pdu (le 2 1 ++ le 2 7)).data = 1 ∧ field 2 2 (pdu (le 2 1 ++ le 2 7)).data = 7 ∧ 1
       ≤ 1023 ∧ tget (1, 7) x6_12_1.itg.jobs = some { ended := true, reason := 2 : Job }) ∧
    (x6_13_1.Quiet ∧ (x6_13_1.begun 3).Takes (pdu (le 2 1 ++ le 2 7 ++ le 8 40)) 0x3FC0 2 ∧ (pdu (le 2 1 ++ le 2 7 ++ le 8 40)).wf
       = true ∧ (pdu (le 2 1 ++ le 2 7 ++ le 8 40)).trailer = none ∧ field 0 2 (pdu (le 2 1 ++ le 2 7 ++ le 8 40)).data = 1 ∧
       field 2 2 (pdu (le 2 1 ++ le 2 7 ++ le 8 40)).data = 7 ∧ 1 ≤ 1023 ∧ tget (1, 7) x6_13_1.itg.jobs = some
       { course := 2 : Job } ∧ { course := 2 : Job }.ended = false ∧ x6_13_1.itg.groups = []) ∧
    (x6_14_1.Quiet ∧ (x6_14_1.begun 3).Takes (pdu (le 2 1 ++ le 2 7 ++ le 8 40)) 0x3FC0 2 ∧ (pdu (le 2 1 ++ le 2 7 ++ le 8 40)).wf
       = true ∧ (pdu (le 2 1 ++ le 2 7 ++ le 8 40)).trailer = none ∧ field 0 2 (pdu (le 2 1 ++ le 2 7 ++ le 8 40)).data = 1 ∧
       field 2 2 (pdu (le 2 1 ++ le 2 7 ++ le 8 40)).data = 7 ∧ 1 ≤ 1023 ∧ tget (1, 7) x6_14_1.itg.jobs = some
       { ended := true, reason := 2 : Job } ∧ { ended := true, reason := 2 : Job }.ended = true) ∧
    (x6_15_1.Quiet ∧ (x6_15_1.begun 3).Takes (pdu (le 2 1 ++ le 2 7)) 0x3FC0 3 ∧ (pdu (le 2 1 ++ le 2 7)).wf = true ∧ (pdu (le 2 1
       ++ le 2 7)).trailer = none ∧ field 0 2 (pdu (le 2 1 ++ le 2 7)).data = 1 ∧ field 2 2 (pdu (le 2 1 ++ le 2 7)).data = 7 ∧ 1
       ≤ 1023 ∧ tget (1, 7) x6_15_1.itg.jobs = some { ended := true, reason := 2 : Job }) := ⟨⟨State.quiet_of _ (by decide +kernel), State.takes_of _ _ _ _ (by decide +kernel), by decide +kernel⟩,
   ⟨State.quiet_of _ (by decide +kernel), State.takes_of _ _ _ _ (by decide +kernel), by decide +kernel⟩,
   ⟨State.quiet_of _ (by decide +kernel), State.takes_of _ _ _ _ (by decide +kernel), by decide +kernel⟩,
   ⟨State.quiet_of _ (by decide +kernel), State.takes_of _ _ _ _ (by decide +kernel), by decide +kernel⟩⟩


theorem witness_HomeCheckPoisons :
    (whm.Quiet ∧ (whm.metaOf 2).crc ≠ whm.blockCrc 2 ∧ mkGa 5 0x2010 < 2 ^ 62 ∧ whm.locateHere (mkGa 5 0x2010) = State.Loc.near
       0x2010 ∧ 2 = 0x2010 / 4096 ∧ (whm.metaOf 2).void = false) ∧
    (whm.Quiet ∧ (whm.metaOf 3).crc = whm.blockCrc 3 ∧ mkGa 5 0x3010 < 2 ^ 62 ∧ whm.locateHere (mkGa 5 0x3010) = State.Loc.near
       0x3010 ∧ 3 = 0x3010 / 4096 ∧ (whm.metaOf 3).void = false) := ⟨⟨State.quiet_of _ (by decide +kernel), fun h => State.succ_ne _ (h.trans (State.blockCrc_empty _ _ rfl)), by decide +kernel⟩,
   ⟨State.quiet_of _ (by decide +kernel), (State.blockCrc_empty _ _ rfl).symm, by decide +kernel⟩⟩


theorem witness_CourseBegins :
    (wed.Quiet ∧ (∀ (u : Nat), wed.crs.lastEdge = some u → u + 80000 ≤ wed.now + 3) ∧ 8 ≤ wed.phase ∧ wed.phase ≤ 10 ∧
       wed.avl.purlinUp = true ∧ wed.west.leaseHolder = Half.west ∧ wed.east.leaseHolder = Half.west ∧ wed.west.leaseSeq =
       wed.east.leaseSeq ∧ (wed.half Half.west).armed = some 105 ∧ (wed.courseOf Half.west = noCourse ∨ wed.courseOf Half.west <
       105) ∧ 105 < noCourse ∧ wed.west.slate = [] ∧ wed.east.slate = [] ∧ wed.west.events = [] ∧ wed.east.events = [] ∧
       wed.west.staged = [] ∧ wed.east.staged = [] ∧ wed.west.dir = [] ∧ wed.east.dir = [] ∧ wed.crs.rejoined = false ∧
       wed.avl.serving = [] ∧ wed.avl.admission.st = 0 ∧ wed.fab = ({} : Fabric) ∧ wed.opt = ({} : Optics) ∧ wed.ylx = ({} : Yilx)
       ∧ wed.plc = { state := wed.plc.state : Placement }) ∧
    (wed2.Quiet ∧ (∀ (u : Nat), wed2.crs.lastEdge = some u → u + 80000 ≤ wed2.now + 3) ∧ 8 ≤ wed2.phase ∧ wed2.phase ≤ 10 ∧
       wed2.avl.purlinUp = true ∧ wed2.west.leaseHolder = Half.west ∧ wed2.east.leaseHolder = Half.west ∧ wed2.west.leaseSeq =
       wed2.east.leaseSeq ∧ (wed2.half Half.west).armed = some 105 ∧ (wed2.courseOf Half.west = noCourse ∨ wed2.courseOf Half.west
       < 105) ∧ 105 < noCourse ∧ wed2.west.slate = [] ∧ wed2.east.slate = [] ∧ wed2.west.events = [] ∧ wed2.east.events = [] ∧
       wed2.west.staged = [] ∧ wed2.east.staged = [] ∧ wed2.west.dir = [] ∧ wed2.east.dir = [] ∧ wed2.crs.rejoined = false ∧
       wed2.avl.serving = [] ∧ wed2.avl.admission.st = 0 ∧ wed2.fab = ({} : Fabric) ∧ wed2.opt = ({} : Optics) ∧ wed2.ylx = ({} :
       Yilx) ∧ wed2.plc = { state := wed2.plc.state : Placement }) := ⟨⟨State.quiet_of _ (by decide +kernel), by first | decide +kernel | (intros; rfl) | (intro _ h; cases h; done) | (intro _ h; cases h; decide +kernel) | (intro k; cases k <;> decide +kernel), by decide +kernel⟩,
   ⟨State.quiet_of _ (by decide +kernel), by first | decide +kernel | (intros; rfl) | (intro _ h; cases h; done) | (intro _ h; cases h; decide +kernel) | (intro k; cases k <;> decide +kernel), by decide +kernel⟩⟩

end B6
namespace B7

def ac (op : MemOp) : Acc := { op := op, q := q0, ga := mkGa 5 0, org := .host (.host 3) }
def bq : Req := { q0 with aop := 0, size := 1, seg := 15, last := true, data := List.replicate 256 3, spar := some ⟨7, 4⟩ }
def bq1 : Req := { bq with len := State.reqUnits false .bput bq }
def l15 : List Req := (List.range 15).map (fun i => { bq1 with seg := i, last := false, pz := if i = 0 then 1 else 0, spar := if i = 0 then some ⟨7, 4⟩ else none })
def wb0 : State := { w0 with eng.bputs := [] }
def wb15 : State := { w0 with eng.bputs := [((bq1.src, bq1.sid, bq1.tag), { segs := l15 })] }
def noSegs : List Req := []
def bq0 : Req := { bq1 with seg := 0, last := false }
def x7_1_1 := { w0 with eng.bputs := [((bq1.src, bq1.sid, bq1.tag), { segs := [bq0] })] }
def bqe : Req := { bq1 with spar := none, len := State.reqUnits false .bput { bq1 with spar := none } }
def oo : OutReq := { acc := ac .read, node := 9, tag := 3, sid := 0xF0, issued := 7 }
def rr : Rsp := { src := 9, sid := 0xF0, tag := 3, port := 2, data := zeros 8 }
def wo (o : OutReq) : State := { w0 with eng.outs := [o] }
def oop (op : MemOp) : OutReq := { oo with acc := ac op }
def bb (o : OutReq) (r : Rsp) : State := (((wo o).begun 3).portRecv r).noteResponse r
def rl (i : Nat) : Rsp := { rr with data := List.replicate 256 5, seg := i, last := i == 15, pz := if i == 3 then 1 else 0, spar := if i == 0 then some ⟨7, 3⟩ else none }
def ol : OutReq := { oop .bget with segs := (List.range 15).map rl, acc := { ac .bget with q := { q0 with size := 1 } } }
def ow : OutReq := { oo with acc := { ac .read with org := .walk 2 } }
def wow : State := { wo ow with spc.walks := [(2, { acc := ac .read, await := some 77 })] }
def x7_10_1 := { wow with west.mismatches := [⟨9, 0xF0, 3, 4⟩, ⟨9, 0xF0, 3, 5⟩] }
def x7_11_1 := { wo oo with now := 1000000 }
def ofb : OutReq := { oo with acc := { ac .read with ga := mkGa 9 0x10000 } }
def sfb : List ((Nat × Nat) × Bytes) := [((0x2070, 1), [0]), ((0x2074, 1), le 2 1), ((0x2075, 1), le 4 100)]
def wfb : State := { wo ofb with now := 1000000, plc.fallbacks := [(0, ⟨1, mkGa 9 0x10000, 1, 0, 2⟩)] , west.slate := sfb, east.slate := sfb }
def qw : Req := { q0 with len := State.reqUnits false .write q0, data := le 8 0x1234 }
def acw : Acc := { op := .write, q := { qw with cap := true }, ga := qw.addr, org := .remote (.node 9 0xF0), waited := true }
def wcap : State := { w0 with west.caps := [acw] }
def x7_13_1 := { wcap with west.caps := [] }
def tl (c g : Nat) : Tlb := { ctx := c, vpage := 3, size := 16, ga := mkGa 5 0, rights := 7, s1rights := 7, s1level := 1, s2level := 1, gen := g }
def winv : State := { w0 with west.tlb := [tl 1 4, tl 2 5] }
def binv (v : Via) : State := (((winv.begun 3).countArrival v 3 7).count (viaHalf v) 0x4030 1)
def winv2 : State := { w0 with spc.invs := [⟨.node 9 0, 77, [4], false, none⟩] }
def pc1 := signed 0x3002 1 9 [1]
def pc4 := signed 0x3002 4 9 (le 8 0x30000)
def pc6 := signed 0x3002 6 9 (le 8 0x30000)
def pc5 := signed 0x3002 5 9 [3]
def pc2 := pdu (le 8 0x30000)
def pc3 := pdu [3]
def pc10 (x n : Nat) := signed 0x3002 x 9 (le n 2)
def pg (n z : Nat) := signed 0x3F00 1 9 (le 2 n ++ le 2 1 ++ le 8 0x200000 ++ le 4 2 ++ le 1 z)
def ssh : List ((Nat × Nat) × Bytes) := [((0x2070, 1), [0]), ((0x2100, 21), le 8 2), ((0x20D1, 1), [3])]
def wsh : State := { w0 with west.slate := ssh, east.slate := ssh }
def psh := signed 0x3F10 1 9 (le 2 20 ++ le 2 4 ++ le 2 1 ++ le 8 0x200000 ++ le 4 2 ++ le 1 0)
def wz (x : Extent) : State := { w0 with spc.extents := [(8, x)] }
def xz : Extent := { state := 1, ctx := 1, base := 0x200000, pages := 1, grantNode := 5 }
def wzz : State := { wz xz with near.mem := [(0x1FFFFF, 9), (0x200000, 8), (0x20FFFF, 6), (0x210000, 4)] }
def xz0 : Extent := { xz with base := 0 }
def wz0 : State := { w0 with spc.extents := [(8, xz0)], near.mem := [(0, 9), (0xFFFF, 6), (0x10000, 4)] }
def prv := signed 0x3F00 2 9 (le 2 8)
def x2 : Extent := { xz with state := 2 }
def x3 : Extent := { xz with state := 3, stamp := 5, course := 100, revokeNode := 5, path := 1 }
def x7_32_1 := { x2 with state := 3, stamp := (wz x2).now + 3, course := (wz x2).course, revokeNode := 5, path := State.pathCode prv, drops := [], ended := 0, dirty := 0, late := 0, holders := [] }
def vd (s : State) (q : Nat) (r : Bytes) : State := { (s.begun 3).modExtent 8 (fun e => { e with state := 4, reportSeq := q, holders := [] }) with spc.reportSeq := (q + 1) % 2 ^ 32, spc.reports := tput 8 r s.spc.reports }
def x7_35_1 := { x3 with path := 4 }
def x7_36_1 := { x3 with holders := [(1,1)] }
def x4 : Extent := { x3 with state := 4, reportSeq := 6, late := 2 }
def pak := signed 0x3F00 3 9 (le 2 8 ++ le 4 6)
def x7_37_1 := { wz x4 with spc.reports := [(8, State.reportBytes 8 x4 6)] }

theorem witness_BulkWriteSegments :
    (w0.Quiet ∧ (∀ (r : Req), r ∈ noSegs → r.seg < 16) ∧ (Instr.bputSegment 3 bq0).wf = true ∧ w0.entersHere bq0.via = false ∧
       State.wellFormed MemOp.bput bq0 = true ∧ bq0.seg < 16 ∧ (noSegs = [] ∧ false = false ∧ w0.eng.bputs = [] ∨ w0.eng.bputs =
       [((bq0.src, bq0.sid, bq0.tag), { segs := noSegs : BputRx })]) ∧ noSegs.length < 15) ∧
    (x7_1_1.Quiet ∧ (∀ (r : Req), r ∈ [bq0] → r.seg < 16) ∧ (Instr.bputSegment 3 bq1).wf = true ∧ x7_1_1.entersHere bq1.via =
       false ∧ State.wellFormed MemOp.bput bq1 = true ∧ bq1.seg < 16 ∧ ([bq0] = [] ∧ false = false ∧ x7_1_1.eng.bputs = [] ∨
       x7_1_1.eng.bputs = [((bq1.src, bq1.sid, bq1.tag), { segs := [bq0] : BputRx })]) ∧ [bq0].length < 15) ∧
    (wb15.Quiet ∧ (∀ (r : Req), r ∈ l15 → r.seg < 16) ∧ (7 = crc32c (fitTo 4096 (State.blockOf (l15 ++ [bqe]) bqe 0).data) ∨
       (State.blockOf (l15 ++ [bqe]) bqe 0).pz ≠ 0) ∧ wb15.Served (State.blockOf (l15 ++ [bqe]) bqe 0) 0 4096 ∧ (Instr.bputSegment
       3 bqe).wf = true ∧ wb15.entersHere bqe.via = false ∧ State.wellFormed MemOp.bput bqe = true ∧ bqe.seg < 16 ∧ (l15 = [] ∧
       false = false ∧ wb15.eng.bputs = [] ∨ wb15.eng.bputs = [((bqe.src, bqe.sid, bqe.tag), { segs := l15 : BputRx })]) ∧
       l15.length = 15 ∧ (false || bqe.last) = true ∧ (State.blockOf (l15 ++ [bqe]) bqe 0).spar = some
       { crc := 7, tag := 4 : Spar } ∧ (wb15.half (offHalf 0)).mismatches = []) := ⟨⟨State.quiet_of _ (by decide +kernel), by first | decide +kernel | (intros; rfl) | (intro _ h; cases h; done) | (intro _ h; cases h; decide +kernel) | (intro k; cases k <;> decide +kernel), by decide +kernel⟩,
   ⟨State.quiet_of _ (by decide +kernel), by first | decide +kernel | (intros; rfl) | (intro _ h; cases h; done) | (intro _ h; cases h; decide +kernel) | (intro k; cases k <;> decide +kernel), by decide +kernel⟩,
   ⟨State.quiet_of _ (by decide +kernel), by first | decide +kernel | (intros; rfl) | (intro _ h; cases h; done) | (intro _ h; cases h; decide +kernel) | (intro k; cases k <;> decide +kernel), Or.inr (by decide +kernel), State.served_of _ _ _ _ (by decide +kernel), by decide +kernel⟩⟩


theorem witness_AnswersReachRequester :
    ((wo oo).Quiet ∧ bb oo rr = (((wo oo).begun 3).portRecv rr).noteResponse rr ∧ rr.wf = true ∧ (wo oo).eng.outs = [oo] ∧ oo.sid
       = rr.sid ∧ oo.tag = rr.tag ∧ oo.sent = true ∧ oo.acc.org = Origin.host (Party.host 3) ∧ oo.acc.q.job ≠ 65535 ∧ oo.joined =
       [] ∧ oo.fell = false ∧ oo.again = false ∧ oo.reread = false ∧ oo.cause = none ∧ rr.on = none ∧ rr.loc = none ∧ rr.u = false
       ∧ Instr.rsp 3 rr ∈ [Instr.rsp 3 rr, Instr.bdone 3 rr] ∧ MemOp.read ∈ [MemOp.read, MemOp.write, MemOp.atomic, MemOp.bput] ∧
       oo.acc.op = MemOp.read ∧ rr.status = 0) ∧
    ((wo (oop MemOp.write)).Quiet ∧ bb (oop MemOp.write) rr = (((wo (oop MemOp.write)).begun 3).portRecv rr).noteResponse rr ∧
       rr.wf = true ∧ (wo (oop MemOp.write)).eng.outs = [oop MemOp.write] ∧ (oop MemOp.write).sid = rr.sid ∧ (oop MemOp.write).tag
       = rr.tag ∧ (oop MemOp.write).sent = true ∧ (oop MemOp.write).acc.org = Origin.host (Party.host 3) ∧ (oop
       MemOp.write).acc.q.job ≠ 65535 ∧ (oop MemOp.write).joined = [] ∧ (oop MemOp.write).fell = false ∧ (oop MemOp.write).again =
       false ∧ (oop MemOp.write).reread = false ∧ (oop MemOp.write).cause = none ∧ rr.on = none ∧ rr.loc = none ∧ rr.u = false ∧
       Instr.rsp 3 rr ∈ [Instr.rsp 3 rr, Instr.bdone 3 rr] ∧ MemOp.write ∈ [MemOp.read, MemOp.write, MemOp.atomic, MemOp.bput] ∧
       (oop MemOp.write).acc.op = MemOp.write ∧ rr.status = 0) ∧
    ((wo (oop MemOp.atomic)).Quiet ∧ bb (oop MemOp.atomic) rr = (((wo (oop MemOp.atomic)).begun 3).portRecv rr).noteResponse rr ∧
       rr.wf = true ∧ (wo (oop MemOp.atomic)).eng.outs = [oop MemOp.atomic] ∧ (oop MemOp.atomic).sid = rr.sid ∧ (oop
       MemOp.atomic).tag = rr.tag ∧ (oop MemOp.atomic).sent = true ∧ (oop MemOp.atomic).acc.org = Origin.host (Party.host 3) ∧
       (oop MemOp.atomic).acc.q.job ≠ 65535 ∧ (oop MemOp.atomic).joined = [] ∧ (oop MemOp.atomic).fell = false ∧ (oop
       MemOp.atomic).again = false ∧ (oop MemOp.atomic).reread = false ∧ (oop MemOp.atomic).cause = none ∧ rr.on = none ∧ rr.loc =
       none ∧ rr.u = false ∧ Instr.rsp 3 rr ∈ [Instr.rsp 3 rr, Instr.bdone 3 rr] ∧ MemOp.atomic ∈
       [MemOp.read, MemOp.write, MemOp.atomic, MemOp.bput] ∧ (oop MemOp.atomic).acc.op = MemOp.atomic ∧ rr.status = 0) ∧
    ((wo (oop MemOp.bput)).Quiet ∧ bb (oop MemOp.bput) rr = (((wo (oop MemOp.bput)).begun 3).portRecv rr).noteResponse rr ∧ rr.wf
       = true ∧ (wo (oop MemOp.bput)).eng.outs = [oop MemOp.bput] ∧ (oop MemOp.bput).sid = rr.sid ∧ (oop MemOp.bput).tag = rr.tag
       ∧ (oop MemOp.bput).sent = true ∧ (oop MemOp.bput).acc.org = Origin.host (Party.host 3) ∧ (oop MemOp.bput).acc.q.job ≠ 65535
       ∧ (oop MemOp.bput).joined = [] ∧ (oop MemOp.bput).fell = false ∧ (oop MemOp.bput).again = false ∧ (oop MemOp.bput).reread =
       false ∧ (oop MemOp.bput).cause = none ∧ rr.on = none ∧ rr.loc = none ∧ rr.u = false ∧ Instr.bdone 3 rr ∈
       [Instr.rsp 3 rr, Instr.bdone 3 rr] ∧ MemOp.bput ∈ [MemOp.read, MemOp.write, MemOp.atomic, MemOp.bput] ∧ (oop
       MemOp.bput).acc.op = MemOp.bput ∧ rr.status = 0) ∧
    ((wo (oop MemOp.bget)).Quiet ∧ bb (oop MemOp.bget) rr = (((wo (oop MemOp.bget)).begun 3).portRecv rr).noteResponse rr ∧ rr.wf
       = true ∧ (wo (oop MemOp.bget)).eng.outs = [oop MemOp.bget] ∧ (oop MemOp.bget).sid = rr.sid ∧ (oop MemOp.bget).tag = rr.tag
       ∧ (oop MemOp.bget).sent = true ∧ (oop MemOp.bget).acc.org = Origin.host (Party.host 3) ∧ (oop MemOp.bget).acc.q.job ≠ 65535
       ∧ (oop MemOp.bget).joined = [] ∧ (oop MemOp.bget).fell = false ∧ (oop MemOp.bget).again = false ∧ (oop MemOp.bget).reread =
       false ∧ (oop MemOp.bget).cause = none ∧ rr.on = none ∧ rr.loc = none ∧ rr.u = false ∧ rr.last = false) ∧
    ((wo ol).Quiet ∧ bb ol (rl 15) = (((wo ol).begun 3).portRecv (rl 15)).noteResponse (rl 15) ∧ (∀ (k : Blk), k ∈ State.blksOf
       (ol.segs ++ [rl 15]) → k.ck = none) ∧ (∀ (k : Blk), k ∈ State.blksOf (ol.segs ++ [rl 15]) → (wo ol).crcBad (State.accHalf
       ol.acc) k = false) ∧ (rl 15).wf = true ∧ (wo ol).eng.outs = [ol] ∧ ol.sid = (rl 15).sid ∧ ol.tag = (rl 15).tag ∧ ol.sent =
       true ∧ ol.acc.org = Origin.host (Party.host 3) ∧ ol.acc.q.job ≠ 65535 ∧ ol.joined = [] ∧ ol.fell = false ∧ ol.again = false
       ∧ ol.reread = false ∧ ol.cause = none ∧ (rl 15).on = none ∧ (rl 15).loc = none ∧ (rl 15).u = false ∧ (rl 15).last = true ∧
       ol.acc.op = MemOp.bget) := ⟨⟨State.quiet_of _ (by decide +kernel), rfl, by decide +kernel⟩,
   ⟨State.quiet_of _ (by decide +kernel), rfl, by decide +kernel⟩,
   ⟨State.quiet_of _ (by decide +kernel), rfl, by decide +kernel⟩,
   ⟨State.quiet_of _ (by decide +kernel), rfl, by decide +kernel⟩,
   ⟨State.quiet_of _ (by decide +kernel), rfl, by decide +kernel⟩,
   ⟨State.quiet_of _ (by decide +kernel), rfl, by first | decide +kernel | (intros; rfl) | (intro _ h; cases h; done) | (intro _ h; cases h; decide +kernel) | (intro k; cases k <;> decide +kernel), by first | decide +kernel | (intros; rfl) | (intro _ h; cases h; done) | (intro _ h; cases h; decide +kernel) | (intro k; cases k <;> decide +kernel), by decide +kernel⟩⟩


theorem witness_WaitsAndWalks :
    (wow.Quiet ∧ wow.eng.outs = [ow] ∧ ow.sent = true ∧ ow.sid < 256 ∧ ow.tag < 2 ^ 20 ∧ rr.wf = true ∧ ow.sid = rr.sid ∧ ow.tag =
       rr.tag ∧ ow.acc.org = Origin.walk 2 ∧ tget 2 wow.spc.walks = some { acc := ac MemOp.read, await := some 77 : Walk } ∧
       rr.status = 0 ∧ rr.on = none ∧ rr.loc = none ∧ ow.acc.op = MemOp.read ∧ ow.joined = [] ∧ ow.fell = false ∧ ow.cause = none) ∧
    (x7_10_1.Quiet ∧ x7_10_1.eng.outs = [ow] ∧ ow.sent = true ∧ ow.sid < 256 ∧ ow.tag < 2 ^ 20 ∧ (Instr.mismatchRecordExpiry 3
       Half.west 9 240 3 4).wf = true) ∧
    (x7_11_1.Quiet ∧ x7_11_1.eng.outs = [oo] ∧ oo.sent = true ∧ oo.sid < 256 ∧ oo.tag < 2 ^ 20 ∧ oo.cause = none ∧ oo.issued +
       x7_11_1.cfg (State.accHalf oo.acc) 0x2070 11 ≤ x7_11_1.now + 3) ∧
    (wfb.Quiet ∧ wfb.eng.outs = [ofb] ∧ ofb.sent = true ∧ ofb.sid < 256 ∧ ofb.tag < 2 ^ 20 ∧ wfb.fallbackAfter ofb.acc.q.ctx =
       some 1600 ∧ ofb.fell = false ∧ ofb.acc.fell = false ∧ ofb.issued + 1600 ≤ wfb.now + 3 ∧ ofb.joined = []) := ⟨⟨State.quiet_of _ (by decide +kernel), by decide +kernel⟩,
   ⟨State.quiet_of _ (by decide +kernel), by decide +kernel⟩,
   ⟨State.quiet_of _ (by decide +kernel), by decide +kernel⟩,
   ⟨State.quiet_of _ (by decide +kernel), by decide +kernel⟩⟩


theorem witness_ReleasesAndInvalidations :
    (x7_13_1 = ({ wcap with west := ({ wcap.west with caps := [] } : HalfSt), east := ({ wcap.east with caps := [] } : HalfSt) } :
       State) ∧ x7_13_1.Served qw 0 qw.size ∧ (∀ (l : Nat), l ∈ State.linesOf 0 qw.size → ¬(0 ≤ l * 128 ∧ l * 128 + 128 ≤ 0 +
       qw.size) → wcap.poisoned l = false) ∧ (Instr.write 3 qw).wf = true ∧ Half.west = offHalf 0 ∧ qw.via = Via.batch 0 ∧
       (wcap.half Half.west).caps =
       [{ op := MemOp.write, q := ({ qw with cap := true } : Req), ga := qw.addr, org := Origin.remote (Party.node qw.src qw.sid), waited := true : Machine.Acc }]
       ∧ (wcap.half Half.west.other).caps = []) ∧
    (winv.Quiet ∧ binv (Via.geled Half.west true) = ((winv.begun 3).countArrival (Via.geled Half.west true) 3 7).count (viaHalf
       (Via.geled Half.west true)) 0x4030 1 ∧ (Instr.invalidation 3 (Via.geled Half.west true) 9 2 3 1 77 0 0).wf = true ∧ forUs
       (Via.geled Half.west true) = true ∧ winv.spc.walks = [] ∧ winv.invAllowed (Via.geled Half.west true) 9 3 1 = true ∧
       winv.avl.purlinUp = true) ∧
    (winv.Quiet ∧ binv (Via.batch 3) = ((winv.begun 3).countArrival (Via.batch 3) 3 7).count (viaHalf (Via.batch 3)) 0x4030 1 ∧
       (Instr.invalidation 3 (Via.batch 3) 9 2 2 1 77 0 0).wf = true ∧ forUs (Via.batch 3) = true ∧ winv.spc.walks = [] ∧
       winv.invAllowed (Via.batch 3) 9 2 1 = false) ∧
    (winv2.Quiet ∧ (∀ (a : Machine.Acc), a ∈ winv2.openAccs → ∀ (g : Nat), g ∈ a.gens → ¬g ∈ [4]) ∧ (Instr.invalidation 3
       (Via.batch 3) 9 2 2 1 77 0 0).wf = true ∧ forUs (Via.batch 3) = true ∧ winv2.spc.walks = [] ∧ winv2.spc.invs =
       [{ dest := winv2.invParty (Via.batch 3) 9, seq := 77, gens := [4], reject := false : Machine.Inv }]) := ⟨⟨rfl, State.served_of _ _ _ _ (by decide +kernel), by first | decide +kernel | (intros; rfl) | (intro _ h; cases h; done) | (intro _ h; cases h; decide +kernel) | (intro k; cases k <;> decide +kernel), by decide +kernel⟩,
   ⟨State.quiet_of _ (by decide +kernel), rfl, by decide +kernel⟩,
   ⟨State.quiet_of _ (by decide +kernel), rfl, by decide +kernel⟩,
   ⟨State.quiet_of _ (by decide +kernel), by first | decide +kernel | (intros; rfl) | (intro _ h; cases h; done) | (intro _ h; cases h; decide +kernel) | (intro k; cases k <;> decide +kernel), by decide +kernel⟩⟩


theorem witness_ExtentLife :
    (winv.Quiet ∧ pc1.wf = true ∧ (1, fun (y : Ctx) => ({ y with on := 1 == 1 } : Ctx)) ∈
       [(1, fun (y : Ctx) => ({ y with on := 1 == 1 } : Ctx)), (4, fun (y : Ctx) => ({ y with s2root := 1 % 2 ^ 62 } : Ctx)), (5, fun (y : Ctx) => ({ y with s2geo := 1 } : Ctx)), (6, fun (y : Ctx) => ({ y with mask := 1 % 2 ^ 33 } : Ctx))]
       ∧ (winv.begun 3).Takes pc1 (0x3000 + 2) 1 ∧ (winv.begun 3).Authorized pc1 (0x3000 + 2) 1 0 9 ∧ 0 < 1024 ∧ winv.spc.walks =
       [] ∧ 1 = ofLe pc1.data ∧ 1 ≤ 2 ∧ 2 ≤ 1023 ∧ (1 = 1 → 1 ≤ 1)) ∧
    (winv.Quiet ∧ pc4.wf = true ∧ (4, fun (y : Ctx) => ({ y with s2root := 196608 % 2 ^ 62 } : Ctx)) ∈
       [(1, fun (y : Ctx) => ({ y with on := 196608 == 1 } : Ctx)), (4, fun (y : Ctx) => ({ y with s2root := 196608 % 2 ^ 62 } : Ctx)), (5, fun (y : Ctx) => ({ y with s2geo := 196608 } : Ctx)), (6, fun (y : Ctx) => ({ y with mask := 196608 % 2 ^ 33 } : Ctx))]
       ∧ (winv.begun 3).Takes pc4 (0x3000 + 2) 4 ∧ (winv.begun 3).Authorized pc4 (0x3000 + 2) 4 0 9 ∧ 0 < 1024 ∧ winv.spc.walks =
       [] ∧ 196608 = ofLe pc4.data ∧ 1 ≤ 2 ∧ 2 ≤ 1023 ∧ (4 = 1 → 196608 ≤ 1)) ∧
    (winv.Quiet ∧ pc6.wf = true ∧ (6, fun (y : Ctx) => ({ y with mask := 196608 % 2 ^ 33 } : Ctx)) ∈
       [(1, fun (y : Ctx) => ({ y with on := 196608 == 1 } : Ctx)), (4, fun (y : Ctx) => ({ y with s2root := 196608 % 2 ^ 62 } : Ctx)), (5, fun (y : Ctx) => ({ y with s2geo := 196608 } : Ctx)), (6, fun (y : Ctx) => ({ y with mask := 196608 % 2 ^ 33 } : Ctx))]
       ∧ (winv.begun 3).Takes pc6 (0x3000 + 2) 6 ∧ (winv.begun 3).Authorized pc6 (0x3000 + 2) 6 0 9 ∧ 0 < 1024 ∧ winv.spc.walks =
       [] ∧ 196608 = ofLe pc6.data ∧ 1 ≤ 2 ∧ 2 ≤ 1023 ∧ (6 = 1 → 196608 ≤ 1)) ∧
    (winv.Quiet ∧ pc5.wf = true ∧ (5, fun (y : Ctx) => ({ y with s2geo := 3 } : Ctx)) ∈
       [(1, fun (y : Ctx) => ({ y with on := 3 == 1 } : Ctx)), (4, fun (y : Ctx) => ({ y with s2root := 3 % 2 ^ 62 } : Ctx)), (5, fun (y : Ctx) => ({ y with s2geo := 3 } : Ctx)), (6, fun (y : Ctx) => ({ y with mask := 3 % 2 ^ 33 } : Ctx))]
       ∧ (winv.begun 3).Takes pc5 (0x3000 + 2) 5 ∧ (winv.begun 3).Authorized pc5 (0x3000 + 2) 5 0 9 ∧ 0 < 1024 ∧ winv.spc.walks =
       [] ∧ 3 = ofLe pc5.data ∧ 1 ≤ 2 ∧ 2 ≤ 1023 ∧ (5 = 1 → 3 ≤ 1)) ∧
    (winv.Quiet ∧ (2, fun (y : Ctx) => ({ y with s1root := 196608 } : Ctx)) ∈
       [(2, fun (y : Ctx) => ({ y with s1root := 196608 } : Ctx)), (3, fun (y : Ctx) => ({ y with s1geo := 196608 } : Ctx))] ∧
       (winv.begun 3).Takes pc2 (0x3000 + 2) 2 ∧ pc2.wf = true ∧ 0 < 1024 ∧ winv.spc.walks = [] ∧ 196608 = ofLe pc2.data ∧ 1 ≤ 2 ∧
       2 ≤ 1023 ∧ pc2.trailer = none) ∧
    (winv.Quiet ∧ (3, fun (y : Ctx) => ({ y with s1geo := 3 } : Ctx)) ∈
       [(2, fun (y : Ctx) => ({ y with s1root := 3 } : Ctx)), (3, fun (y : Ctx) => ({ y with s1geo := 3 } : Ctx))] ∧ (winv.begun
       3).Takes pc3 (0x3000 + 2) 3 ∧ pc3.wf = true ∧ 0 < 1024 ∧ winv.spc.walks = [] ∧ 3 = ofLe pc3.data ∧ 1 ≤ 2 ∧ 2 ≤ 1023 ∧
       pc3.trailer = none) ∧
    (winv.Quiet ∧ (pc10 16 4).wf = true ∧ (16, fun (y : Ctx) => ({ y with nearQuota := 2 } : Ctx)) ∈
       [(16, fun (y : Ctx) => ({ y with nearQuota := 2 } : Ctx)), (20, fun (y : Ctx) => ({ y with bulkQuota := 2 } : Ctx)), (22, fun (y : Ctx) => ({ y with flags := 2 % 4 } : Ctx)), (24, fun (y : Ctx) => ({ y with bucketRate := 2 } : Ctx))]
       ∧ (winv.begun 3).Takes (pc10 16 4) (0x3000 + 2) 16 ∧ (winv.begun 3).Authorized (pc10 16 4) (0x3000 + 2) 16 0 9 ∧ 0 < 1024 ∧
       winv.spc.walks = [] ∧ 2 = ofLe (pc10 16 4).data ∧ 1 ≤ 2 ∧ 2 ≤ 1023) ∧
    (winv.Quiet ∧ (pc10 20 4).wf = true ∧ (20, fun (y : Ctx) => ({ y with bulkQuota := 2 } : Ctx)) ∈
       [(16, fun (y : Ctx) => ({ y with nearQuota := 2 } : Ctx)), (20, fun (y : Ctx) => ({ y with bulkQuota := 2 } : Ctx)), (22, fun (y : Ctx) => ({ y with flags := 2 % 4 } : Ctx)), (24, fun (y : Ctx) => ({ y with bucketRate := 2 } : Ctx))]
       ∧ (winv.begun 3).Takes (pc10 20 4) (0x3000 + 2) 20 ∧ (winv.begun 3).Authorized (pc10 20 4) (0x3000 + 2) 20 0 9 ∧ 0 < 1024 ∧
       winv.spc.walks = [] ∧ 2 = ofLe (pc10 20 4).data ∧ 1 ≤ 2 ∧ 2 ≤ 1023) ∧
    (winv.Quiet ∧ (pc10 22 1).wf = true ∧ (22, fun (y : Ctx) => ({ y with flags := 2 } : Ctx)) ∈
       [(16, fun (y : Ctx) => ({ y with nearQuota := 2 } : Ctx)), (20, fun (y : Ctx) => ({ y with bulkQuota := 2 } : Ctx)), (22, fun (y : Ctx) => ({ y with flags := 2 % 4 } : Ctx)), (24, fun (y : Ctx) => ({ y with bucketRate := 2 } : Ctx))]
       ∧ (winv.begun 3).Takes (pc10 22 1) (0x3000 + 2) 22 ∧ (winv.begun 3).Authorized (pc10 22 1) (0x3000 + 2) 22 0 9 ∧ 0 < 1024 ∧
       winv.spc.walks = [] ∧ 2 = ofLe (pc10 22 1).data ∧ 1 ≤ 2 ∧ 2 ≤ 1023) ∧
    (winv.Quiet ∧ (pc10 24 2).wf = true ∧ (24, fun (y : Ctx) => ({ y with bucketRate := 2 } : Ctx)) ∈
       [(16, fun (y : Ctx) => ({ y with nearQuota := 2 } : Ctx)), (20, fun (y : Ctx) => ({ y with bulkQuota := 2 } : Ctx)), (22, fun (y : Ctx) => ({ y with flags := 2 % 4 } : Ctx)), (24, fun (y : Ctx) => ({ y with bucketRate := 2 } : Ctx))]
       ∧ (winv.begun 3).Takes (pc10 24 2) (0x3000 + 2) 24 ∧ (winv.begun 3).Authorized (pc10 24 2) (0x3000 + 2) 24 0 9 ∧ 0 < 1024 ∧
       winv.spc.walks = [] ∧ 2 = ofLe (pc10 24 2).data ∧ 1 ≤ 2 ∧ 2 ≤ 1023) ∧
    (w0.Quiet ∧ (pg 65535 0).wf = true ∧ (w0.begun 3).Takes (pg 65535 0) 0x3F00 1 ∧ (w0.begun 3).Authorized (pg 65535 0) 0x3F00 1
       0 9 ∧ (∀ (e : Nat × Extent), e ∈ w0.spc.extents → e.snd.ctx =
       { state := 2, ctx := 1, base := 2097152, pages := 2, grantNode := 5 : Extent }.ctx → e.snd.state ≠ 0 → State.rangesMeet
       e.snd.base e.snd.pages { state := 2, ctx := 1, base := 2097152, pages := 2, grantNode := 5 : Extent }.base
       { state := 2, ctx := 1, base := 2097152, pages := 2, grantNode := 5 : Extent }.pages = false) ∧ 1 < 1024 ∧ w0.spc.walks =
       [] ∧ (field 0 2 (pg 65535 0).data = 1 ∧ (w0.extent 1).state = 0 ∨ field 0 2 (pg 65535 0).data = 65535 ∧ freeNum
       w0.spc.extents 1024 0 = some 1) ∧ ({ state := 2, ctx := 1, base := 2097152, pages := 2, grantNode := 5 : Extent } =
       { state := if bitOf (field 16 1 (pg 65535 0).data) 0 = true then 1 else 2, ctx := field 2 2 (pg 65535 0).data, base := field 4 8 (pg 65535 0).data, pages := field 12 4 (pg 65535 0).data, grantNode := w0.nodeNum, zero := bitOf (field 16 1 (pg 65535 0).data) 0 : Extent })
       ∧ 1 ≤ { state := 2, ctx := 1, base := 2097152, pages := 2, grantNode := 5 : Extent }.ctx ∧
       { state := 2, ctx := 1, base := 2097152, pages := 2, grantNode := 5 : Extent }.ctx ≤ 1023 ∧
       { state := 2, ctx := 1, base := 2097152, pages := 2, grantNode := 5 : Extent }.base % 65536 = 0 ∧ 1 ≤
       { state := 2, ctx := 1, base := 2097152, pages := 2, grantNode := 5 : Extent }.pages ∧
       { state := 2, ctx := 1, base := 2097152, pages := 2, grantNode := 5 : Extent }.base +
       { state := 2, ctx := 1, base := 2097152, pages := 2, grantNode := 5 : Extent }.pages * 65536 ≤ nearSize ∧ w0.nearUsed
       { state := 2, ctx := 1, base := 2097152, pages := 2, grantNode := 5 : Extent }.ctx +
       { state := 2, ctx := 1, base := 2097152, pages := 2, grantNode := 5 : Extent }.pages ≤ (w0.ctx
       { state := 2, ctx := 1, base := 2097152, pages := 2, grantNode := 5 : Extent }.ctx).nearQuota) ∧
    (w0.Quiet ∧ (pg 8 1).wf = true ∧ (w0.begun 3).Takes (pg 8 1) 0x3F00 1 ∧ (w0.begun 3).Authorized (pg 8 1) 0x3F00 1 0 9 ∧ (∀ (e
       : Nat × Extent), e ∈ w0.spc.extents → e.snd.ctx =
       { state := 1, ctx := 1, base := 2097152, pages := 2, grantNode := 5, zero := true : Extent }.ctx → e.snd.state ≠ 0 →
       State.rangesMeet e.snd.base e.snd.pages
       { state := 1, ctx := 1, base := 2097152, pages := 2, grantNode := 5, zero := true : Extent }.base
       { state := 1, ctx := 1, base := 2097152, pages := 2, grantNode := 5, zero := true : Extent }.pages = false) ∧ 8 < 1024 ∧
       w0.spc.walks = [] ∧ (field 0 2 (pg 8 1).data = 8 ∧ (w0.extent 8).state = 0 ∨ field 0 2 (pg 8 1).data = 65535 ∧ freeNum
       w0.spc.extents 1024 0 = some 8) ∧
       ({ state := 1, ctx := 1, base := 2097152, pages := 2, grantNode := 5, zero := true : Extent } =
       { state := if bitOf (field 16 1 (pg 8 1).data) 0 = true then 1 else 2, ctx := field 2 2 (pg 8 1).data, base := field 4 8 (pg 8 1).data, pages := field 12 4 (pg 8 1).data, grantNode := w0.nodeNum, zero := bitOf (field 16 1 (pg 8 1).data) 0 : Extent })
       ∧ 1 ≤ { state := 1, ctx := 1, base := 2097152, pages := 2, grantNode := 5, zero := true : Extent }.ctx ∧
       { state := 1, ctx := 1, base := 2097152, pages := 2, grantNode := 5, zero := true : Extent }.ctx ≤ 1023 ∧
       { state := 1, ctx := 1, base := 2097152, pages := 2, grantNode := 5, zero := true : Extent }.base % 65536 = 0 ∧ 1 ≤
       { state := 1, ctx := 1, base := 2097152, pages := 2, grantNode := 5, zero := true : Extent }.pages ∧
       { state := 1, ctx := 1, base := 2097152, pages := 2, grantNode := 5, zero := true : Extent }.base +
       { state := 1, ctx := 1, base := 2097152, pages := 2, grantNode := 5, zero := true : Extent }.pages * 65536 ≤ nearSize ∧
       w0.nearUsed { state := 1, ctx := 1, base := 2097152, pages := 2, grantNode := 5, zero := true : Extent }.ctx +
       { state := 1, ctx := 1, base := 2097152, pages := 2, grantNode := 5, zero := true : Extent }.pages ≤ (w0.ctx
       { state := 1, ctx := 1, base := 2097152, pages := 2, grantNode := 5, zero := true : Extent }.ctx).nearQuota) ∧
    (wsh.Quiet ∧ psh.wf = true ∧ (wsh.begun 3).Takes psh 0x3F10 1 ∧ (wsh.begun 3).Authorized psh 0x3F10 1 0 9 ∧ 8 < 1024 ∧
       wsh.spc.walks = [] ∧ wsh.ownsShelf (field 0 2 psh.data) = true ∧ 1 ≤ field 4 2 psh.data ∧ field 4 2 psh.data ≤ 1023 ∧ field
       2 2 psh.data ≠ 65535 ∧ (wsh.ctx (field 4 2 psh.data)).bulkUsed + field 14 4 psh.data ≤ (wsh.ctx (field 4 2
       psh.data)).bulkQuota) ∧
    (wzz.Quiet ∧ pc1.wf = true ∧ 8 < 1024 ∧ wzz.spc.walks = [] ∧ xz = wzz.extent 8 ∧ xz.state = 1 ∧ xz.base % 65536 = 0 ∧
       wzz.MemOk ∧ wzz.near.stackRecs = []) ∧
    (wz0.Quiet ∧ pc1.wf = true ∧ 8 < 1024 ∧ wz0.spc.walks = [] ∧ xz0 = wz0.extent 8 ∧ xz0.state = 1 ∧ xz0.base % 65536 = 0 ∧
       wz0.MemOk ∧ wz0.near.stackRecs = []) ∧
    ((wz x2).Quiet ∧ prv.wf = true ∧ ((wz x2).begun 3).Takes prv 0x3F00 2 ∧ ((wz x2).begun 3).Authorized prv 0x3F00 2 0 9 ∧ 8 <
       1024 ∧ (wz x2).spc.walks = [] ∧ x2 = (wz x2).extent 8 ∧ field 0 2 prv.data = 8 ∧ x7_32_1 =
       ({ x2 with state := 3, revokeNode := (wz x2).nodeNum, path := State.pathCode prv, stamp := (wz x2).now + 3, course := (wz x2).course, late := 0, drops := [], ended := 0, dirty := 0, holders := [] }
       : Extent) ∧ x2.state = 2 ∧ (wz x2).plc.away = [] ∧ (wz x2).plc.here = [] ∧ (wz x2).plc.moves = [] ∧ (wz x2).ylx.moves = []
       ∧ (wz x2).ylx.overs = [] ∧ (wz x2).avl.serving = [] ∧ (wz x2).west.dir = [] ∧ (wz x2).east.dir = [] ∧ (wz x2).west.pend =
       [] ∧ (wz x2).east.pend = [] ∧ (wz x2).west.recalls = [] ∧ (wz x2).east.recalls = []) ∧
    ((wz x3).Quiet ∧ prv.wf = true ∧ ((wz x3).begun 3).Takes prv 0x3F00 2 ∧ ((wz x3).begun 3).Authorized prv 0x3F00 2 0 9 ∧ 8 <
       1024 ∧ (wz x3).spc.walks = [] ∧ x3 = (wz x3).extent 8 ∧ field 0 2 prv.data = 8 ∧ 3 ≤ x3.state) ∧
    ((wz x3).Quiet ∧ vd (wz x3) 0 (State.reportBytes 8 x3 0) =
       ({ (((wz x3).begun 3).modExtent 8 fun e => ({ e with state := 4, reportSeq := 0, holders := [] } : Extent)) with spc := ({ (((wz x3).begun 3).modExtent 8 fun e => ({ e with state := 4, reportSeq := 0, holders := [] } : Extent)).spc with reports := tput 8 (State.reportBytes 8 x3 0) (wz x3).spc.reports, reportSeq := (0 + 1) % 2 ^ 32 } : Space) }
       : State) ∧ prv.wf = true ∧ 8 < 1024 ∧ (wz x3).spc.walks = [] ∧ x3 = (wz x3).extent 8 ∧ x3.state = 3 ∧ (wz x3).west.pend =
       [] ∧ (wz x3).east.pend = [] ∧ (wz x3).west.held = [] ∧ (wz x3).east.held = [] ∧ (wz x3).rdg.blocked = [] ∧ (wz
       x3).itg.waits = [] ∧ 0 = (wz x3).spc.reportSeq ∧ x3.holders = []) ∧
    ((wz x7_35_1).Quiet ∧ vd (wz x7_35_1) 0 (State.reportBytes 8 x7_35_1 0) =
       ({ (((wz x7_35_1).begun 3).modExtent 8 fun e => ({ e with state := 4, reportSeq := 0, holders := [] } : Extent)) with spc := ({ (((wz x7_35_1).begun 3).modExtent 8 fun e => ({ e with state := 4, reportSeq := 0, holders := [] } : Extent)).spc with reports := tput 8 (State.reportBytes 8 x7_35_1 0) (wz x7_35_1).spc.reports, reportSeq := (0 + 1) % 2 ^ 32 } : Space) }
       : State) ∧ prv.wf = true ∧ 8 < 1024 ∧ (wz x7_35_1).spc.walks = [] ∧ x7_35_1 = (wz x7_35_1).extent 8 ∧ x7_35_1.state = 3 ∧
       (wz x7_35_1).west.pend = [] ∧ (wz x7_35_1).east.pend = [] ∧ (wz x7_35_1).west.held = [] ∧ (wz x7_35_1).east.held = [] ∧ (wz
       x7_35_1).rdg.blocked = [] ∧ (wz x7_35_1).itg.waits = [] ∧ 0 = (wz x7_35_1).spc.reportSeq ∧ x7_35_1.holders = []) ∧
    ((wz x7_36_1).Quiet ∧ vd (wz x7_36_1) 0 (State.reportBytes 8 x7_36_1 0) =
       ({ (((wz x7_36_1).begun 3).modExtent 8 fun e => ({ e with state := 4, reportSeq := 0, holders := [] } : Extent)) with spc := ({ (((wz x7_36_1).begun 3).modExtent 8 fun e => ({ e with state := 4, reportSeq := 0, holders := [] } : Extent)).spc with reports := tput 8 (State.reportBytes 8 x7_36_1 0) (wz x7_36_1).spc.reports, reportSeq := (0 + 1) % 2 ^ 32 } : Space) }
       : State) ∧ prv.wf = true ∧ 8 < 1024 ∧ (wz x7_36_1).spc.walks = [] ∧ x7_36_1 = (wz x7_36_1).extent 8 ∧ x7_36_1.state = 3 ∧
       (wz x7_36_1).west.pend = [] ∧ (wz x7_36_1).east.pend = [] ∧ (wz x7_36_1).west.held = [] ∧ (wz x7_36_1).east.held = [] ∧ (wz
       x7_36_1).rdg.blocked = [] ∧ (wz x7_36_1).itg.waits = [] ∧ 0 = (wz x7_36_1).spc.reportSeq ∧ x7_36_1.stamp + 102400 ≤ (wz
       x7_36_1).now + 3) ∧
    (x7_37_1.Quiet ∧ pak.wf = true ∧ (x7_37_1.begun 3).Takes pak 0x3F00 3 ∧ (x7_37_1.begun 3).Authorized pak 0x3F00 3 0 9 ∧ 8 <
       1024 ∧ x7_37_1.spc.walks = [] ∧ x4 = x7_37_1.extent 8 ∧ field 0 2 pak.data = 8 ∧ x4.state = 4 ∧ field 2 4 pak.data =
       x4.reportSeq) := ⟨⟨State.quiet_of _ (by decide +kernel), State.signed_wf _ _ _ _ (by decide) (by decide +kernel), by simp, State.takes_of _ _ _ _ (by decide +kernel), State.signed_authorized _ _ _ _ _ (by decide +kernel), by decide +kernel⟩,
   ⟨State.quiet_of _ (by decide +kernel), State.signed_wf _ _ _ _ (by decide) (by decide +kernel), by simp, State.takes_of _ _ _ _ (by decide +kernel), State.signed_authorized _ _ _ _ _ (by decide +kernel), by decide +kernel⟩,
   ⟨State.quiet_of _ (by decide +kernel), State.signed_wf _ _ _ _ (by decide) (by decide +kernel), by simp, State.takes_of _ _ _ _ (by decide +kernel), State.signed_authorized _ _ _ _ _ (by decide +kernel), by decide +kernel⟩,
   ⟨State.quiet_of _ (by decide +kernel), State.signed_wf _ _ _ _ (by decide) (by decide +kernel), by simp, State.takes_of _ _ _ _ (by decide +kernel), State.signed_authorized _ _ _ _ _ (by decide +kernel), by decide +kernel⟩,
   ⟨State.quiet_of _ (by decide +kernel), by simp, State.takes_of _ _ _ _ (by decide +kernel), by decide +kernel⟩,
   ⟨State.quiet_of _ (by decide +kernel), by simp, State.takes_of _ _ _ _ (by decide +kernel), by decide +kernel⟩,
   ⟨State.quiet_of _ (by decide +kernel), State.signed_wf _ _ _ _ (by decide) (by decide +kernel), by simp, State.takes_of _ _ _ _ (by decide +kernel), State.signed_authorized _ _ _ _ _ (by decide +kernel), by decide +kernel⟩,
   ⟨State.quiet_of _ (by decide +kernel), State.signed_wf _ _ _ _ (by decide) (by decide +kernel), by simp, State.takes_of _ _ _ _ (by decide +kernel), State.signed_authorized _ _ _ _ _ (by decide +kernel), by decide +kernel⟩,
   ⟨State.quiet_of _ (by decide +kernel), State.signed_wf _ _ _ _ (by decide) (by decide +kernel), by simp, State.takes_of _ _ _ _ (by decide +kernel), State.signed_authorized _ _ _ _ _ (by decide +kernel), by decide +kernel⟩,
   ⟨State.quiet_of _ (by decide +kernel), State.signed_wf _ _ _ _ (by decide) (by decide +kernel), by simp, State.takes_of _ _ _ _ (by decide +kernel), State.signed_authorized _ _ _ _ _ (by decide +kernel), by decide +kernel⟩,
   ⟨State.quiet_of _ (by decide +kernel), State.signed_wf _ _ _ _ (by decide) (by decide +kernel), State.takes_of _ _ _ _ (by decide +kernel), State.signed_authorized _ _ _ _ _ (by decide +kernel), by first | decide +kernel | (intros; rfl) | (intro _ h; cases h; done) | (intro _ h; cases h; decide +kernel) | (intro k; cases k <;> decide +kernel), by decide +kernel⟩,
   ⟨State.quiet_of _ (by decide +kernel), State.signed_wf _ _ _ _ (by decide) (by decide +kernel), State.takes_of _ _ _ _ (by decide +kernel), State.signed_authorized _ _ _ _ _ (by decide +kernel), by first | decide +kernel | (intros; rfl) | (intro _ h; cases h; done) | (intro _ h; cases h; decide +kernel) | (intro k; cases k <;> decide +kernel), by decide +kernel⟩,
   ⟨State.quiet_of _ (by decide +kernel), State.signed_wf _ _ _ _ (by decide) (by decide +kernel), State.takes_of _ _ _ _ (by decide +kernel), State.signed_authorized _ _ _ _ _ (by decide +kernel), by decide +kernel⟩,
   ⟨State.quiet_of _ (by decide +kernel), by decide +kernel⟩,
   ⟨State.quiet_of _ (by decide +kernel), by decide +kernel⟩,
   ⟨State.quiet_of _ (by decide +kernel), State.signed_wf _ _ _ _ (by decide) (by decide +kernel), State.takes_of _ _ _ _ (by decide +kernel), State.signed_authorized _ _ _ _ _ (by decide +kernel), by decide +kernel⟩,
   ⟨State.quiet_of _ (by decide +kernel), State.signed_wf _ _ _ _ (by decide) (by decide +kernel), State.takes_of _ _ _ _ (by decide +kernel), State.signed_authorized _ _ _ _ _ (by decide +kernel), by decide +kernel⟩,
   ⟨State.quiet_of _ (by decide +kernel), rfl, by decide +kernel⟩,
   ⟨State.quiet_of _ (by decide +kernel), rfl, by decide +kernel⟩,
   ⟨State.quiet_of _ (by decide +kernel), rfl, by decide +kernel⟩,
   ⟨State.quiet_of _ (by decide +kernel), State.signed_wf _ _ _ _ (by decide) (by decide +kernel), State.takes_of _ _ _ _ (by decide +kernel), State.signed_authorized _ _ _ _ _ (by decide +kernel), by decide +kernel⟩⟩

end B7
namespace B8

def ba (s : State) (p : Pdu) : State := (s.begun 3).authorized p 0 9
def prg (n c cls : Nat) (b p : Nat) := signed 0x3F20 1 9 (le 2 n ++ le 2 c ++ le 8 b ++ le 4 p ++ le 1 cls)
def wrg (c : Nat) (dr : Option Nat) : State := { w0 with plc.regions := [(2, { cls := c, ctx := 1, base := mkGa 5 0x10000, pages := 2, drain := dr })] }
def pfb := signed 0x3F20 2 9 (le 2 1 ++ le 8 (mkGa 9 0x10000) ++ le 4 2 ++ le 8 0x800 ++ le 1 2)
def hd : Bytes := le 2 1 ++ le 2 9 ++ le 4 2 ++ le 8 (mkGa 5 0x10000) ++ zeros 8
def whi : State := { wrg 2 none with rdg.mode := 1 }
def x8_10_1 := { pdu hd with data := hd, total := hd.length }
def wsp : State := { w0 with plc.regions := [(2, { cls := 4, ctx := 1, base := mkGa 5 0x10000, pages := 2 })], west.course := 100 }
def ga9 := mkGa 9 0x50000
def vb : Via := .batch 3
def ga51 := mkGa 5 0x10000
def wsm : State := { wsp with plc.regions := [(2, { cls := 4, ctx := 1, base := mkGa 5 0x10000, pages := 1 }), (3, { cls := 2, ctx := 1, base := mkGa 5 0x50000, pages := 1 })] }
def ga5 := mkGa 5 0x50000
def mm : PMove := { page := ga5 / 65536, ctx := 1, dest := 9, demote := false }
def wmv (m : PMove) : State := { w0 with plc.moves := [m] }
def x8_15_1 := { wmv mm with rdg.mode := 0 }
def x8_17_1 := { mm with phase := 1 }
def wfp : State := { w0 with plc.here := [(ga9 / 65536, { ctx := 1, frame := 0x10000, live := true })], plc.counters := [(ga9 / 65536, { count := 4 }), (77, { count := 4 })], west.tlb := [{ ctx := 1, vpage := 3, size := 16, ga := ga9, rights := 7, s1rights := 7, s1level := 1, s2level := 1, gen := 5 }] }
def xf : Extent := { state := 3, ctx := 1, base := 0x50000, pages := 1, grantNode := 5, holders := [(ga5 / 65536, 9)], drops := [(7, 2)] }
def wfd : State := { w0 with plc.away := [(ga5 / 65536, 9)], spc.extents := [(8, xf)] }
def t0 : Table := { ctx := 1, tag := 77, rows := 1000, rowlog := 7, fmt := 1, dim := 32, flags := 0, scale := 0, shards := [⟨0, 5, 0x10000⟩], spillBase := 0x80000, frames := 0, defaultRow := zeros 128 }
def ptd := signed 0x3F30 1 9 (le 1 4 ++ le 1 7 ++ le 2 1 ++ le 4 77 ++ le 8 1000 ++ le 1 1 ++ le 1 0 ++ le 2 32 ++ le 4 0 ++ le 2 1 ++ zeros 2 ++ le 4 0 ++ le 8 0x80000 ++ (le 6 0 ++ le 2 5 ++ le 8 0x10000) ++ zeros 128)
def ptf := signed 0x3F30 2 9 [4]
def wtf : State := { w0 with ylx.tables := [(4, t0)] }
def t1 : Table := { t0 with frames := 4 }
def wt1 : State := { w0 with ylx.tables := [(4, t1)] }
def rm : RMove := { t := 4, b := 3, dest := 9, frame := 0x80000 }
def wrm (m : RMove) : State := { wtf with ylx.moves := [m] }
def x8_25_1 := { wrm rm with rdg.mode := 0 }
def x8_27_1 := { rm with phase := 1 }

theorem witness_PlacementRecords :
    (w0.Quiet ∧ (prg 2 1 4 (mkGa 5 65536) 2).wf = true ∧ (w0.begun 3).Takes (prg 2 1 4 (mkGa 5 65536) 2) 0x3F20 1 ∧ (w0.begun
       3).Authorized (prg 2 1 4 (mkGa 5 65536) 2) 0x3F20 1 0 9 ∧ field 0 2 (prg 2 1 4 (mkGa 5 65536) 2).data = 2 ∧ 2 < 512 ∧ field
       2 2 (prg 2 1 4 (mkGa 5 65536) 2).data = 1 ∧ 1 ≤ 1 ∧ 1 ≤ 1023 ∧ mkGa 5 65536 = field 4 8 (prg 2 1 4 (mkGa 5 65536) 2).data %
       2 ^ 62 ∧ mkGa 5 65536 % 65536 = 0 ∧ field 12 4 (prg 2 1 4 (mkGa 5 65536) 2).data = 2 ∧ 1 ≤ 2 ∧ field 16 1 (prg 2 1 4 (mkGa
       5 65536) 2).data = 4 ∧ 4 ≤ 4 ∧ w0.ownNode (mkGa 5 65536) = true ∧ w0.regionCovered 1 (mkGa 5 65536) 2 = true ∧ 1 ≤ 4 ∧
       w0.plc.regions = []) ∧
    (w0.Quiet ∧ (prg 511 1 1 (mkGa 5 65536) 2).wf = true ∧ (w0.begun 3).Takes (prg 511 1 1 (mkGa 5 65536) 2) 0x3F20 1 ∧ (w0.begun
       3).Authorized (prg 511 1 1 (mkGa 5 65536) 2) 0x3F20 1 0 9 ∧ field 0 2 (prg 511 1 1 (mkGa 5 65536) 2).data = 511 ∧ 511 < 512
       ∧ field 2 2 (prg 511 1 1 (mkGa 5 65536) 2).data = 1 ∧ 1 ≤ 1 ∧ 1 ≤ 1023 ∧ mkGa 5 65536 = field 4 8 (prg 511 1 1 (mkGa 5
       65536) 2).data % 2 ^ 62 ∧ mkGa 5 65536 % 65536 = 0 ∧ field 12 4 (prg 511 1 1 (mkGa 5 65536) 2).data = 2 ∧ 1 ≤ 2 ∧ field 16
       1 (prg 511 1 1 (mkGa 5 65536) 2).data = 1 ∧ 1 ≤ 4 ∧ w0.ownNode (mkGa 5 65536) = true ∧ w0.regionCovered 1 (mkGa 5 65536) 2
       = true ∧ 1 ≤ 1 ∧ w0.plc.regions = []) ∧
    ((wrg 1 none).Quiet ∧ (prg 2 1 0 (mkGa 5 65536) 2).wf = true ∧ ((wrg 1 none).begun 3).Takes (prg 2 1 0 (mkGa 5 65536) 2)
       0x3F20 1 ∧ ((wrg 1 none).begun 3).Authorized (prg 2 1 0 (mkGa 5 65536) 2) 0x3F20 1 0 9 ∧ field 0 2 (prg 2 1 0 (mkGa 5
       65536) 2).data = 2 ∧ 2 < 512 ∧ field 2 2 (prg 2 1 0 (mkGa 5 65536) 2).data = 1 ∧ 1 ≤ 1 ∧ 1 ≤ 1023 ∧ mkGa 5 65536 = field 4
       8 (prg 2 1 0 (mkGa 5 65536) 2).data % 2 ^ 62 ∧ mkGa 5 65536 % 65536 = 0 ∧ field 12 4 (prg 2 1 0 (mkGa 5 65536) 2).data = 2
       ∧ 1 ≤ 2 ∧ field 16 1 (prg 2 1 0 (mkGa 5 65536) 2).data = 0 ∧ 0 ≤ 4 ∧ (wrg 1 none).ownNode (mkGa 5 65536) = true ∧ (wrg 1
       none).regionCovered 1 (mkGa 5 65536) 2 = true ∧ (wrg 1 none).plc.away = [] ∧ (wrg 1 none).plc.regions =
       [(2, { cls := 1, ctx := 1, base := mkGa 5 65536, pages := 2 : Region })]) ∧
    ((wrg 2 none).Quiet ∧ (prg 2 1 0 (mkGa 5 65536) 2).wf = true ∧ ((wrg 2 none).begun 3).Takes (prg 2 1 0 (mkGa 5 65536) 2)
       0x3F20 1 ∧ ((wrg 2 none).begun 3).Authorized (prg 2 1 0 (mkGa 5 65536) 2) 0x3F20 1 0 9 ∧ field 0 2 (prg 2 1 0 (mkGa 5
       65536) 2).data = 2 ∧ 2 < 512 ∧ field 2 2 (prg 2 1 0 (mkGa 5 65536) 2).data = 1 ∧ 1 ≤ 1 ∧ 1 ≤ 1023 ∧ mkGa 5 65536 = field 4
       8 (prg 2 1 0 (mkGa 5 65536) 2).data % 2 ^ 62 ∧ mkGa 5 65536 % 65536 = 0 ∧ field 12 4 (prg 2 1 0 (mkGa 5 65536) 2).data = 2
       ∧ 1 ≤ 2 ∧ field 16 1 (prg 2 1 0 (mkGa 5 65536) 2).data = 0 ∧ 0 ≤ 4 ∧ (wrg 2 none).ownNode (mkGa 5 65536) = true ∧ (wrg 2
       none).regionCovered 1 (mkGa 5 65536) 2 = true ∧ (wrg 2 none).plc.away = [] ∧ (wrg 2 none).plc.regions =
       [(2, { cls := 2, ctx := 1, base := mkGa 5 65536, pages := 2 : Region })] ∧ ((2 = 2 ∨ 2 = 3) ∧ 0 ≤ 1 ∨ 2 = 4 ∧ 0 = 0)) ∧
    ((wrg 3 none).Quiet ∧ (prg 2 1 1 (mkGa 5 65536) 2).wf = true ∧ ((wrg 3 none).begun 3).Takes (prg 2 1 1 (mkGa 5 65536) 2)
       0x3F20 1 ∧ ((wrg 3 none).begun 3).Authorized (prg 2 1 1 (mkGa 5 65536) 2) 0x3F20 1 0 9 ∧ field 0 2 (prg 2 1 1 (mkGa 5
       65536) 2).data = 2 ∧ 2 < 512 ∧ field 2 2 (prg 2 1 1 (mkGa 5 65536) 2).data = 1 ∧ 1 ≤ 1 ∧ 1 ≤ 1023 ∧ mkGa 5 65536 = field 4
       8 (prg 2 1 1 (mkGa 5 65536) 2).data % 2 ^ 62 ∧ mkGa 5 65536 % 65536 = 0 ∧ field 12 4 (prg 2 1 1 (mkGa 5 65536) 2).data = 2
       ∧ 1 ≤ 2 ∧ field 16 1 (prg 2 1 1 (mkGa 5 65536) 2).data = 1 ∧ 1 ≤ 4 ∧ (wrg 3 none).ownNode (mkGa 5 65536) = true ∧ (wrg 3
       none).regionCovered 1 (mkGa 5 65536) 2 = true ∧ (wrg 3 none).plc.away = [] ∧ (wrg 3 none).plc.regions =
       [(2, { cls := 3, ctx := 1, base := mkGa 5 65536, pages := 2 : Region })] ∧ ((3 = 2 ∨ 3 = 3) ∧ 1 ≤ 1 ∨ 3 = 4 ∧ 1 = 0)) ∧
    ((wrg 3 (some 0)).Quiet ∧ (prg 2 1 1 (mkGa 5 65536) 2).wf = true ∧ ((wrg 3 (some 0)).begun 3).Takes (prg 2 1 1 (mkGa 5 65536)
       2) 0x3F20 1 ∧ ((wrg 3 (some 0)).begun 3).Authorized (prg 2 1 1 (mkGa 5 65536) 2) 0x3F20 1 0 9 ∧ field 0 2 (prg 2 1 1 (mkGa
       5 65536) 2).data = 2 ∧ 2 < 512 ∧ field 2 2 (prg 2 1 1 (mkGa 5 65536) 2).data = 1 ∧ 1 ≤ 1 ∧ 1 ≤ 1023 ∧ mkGa 5 65536 = field
       4 8 (prg 2 1 1 (mkGa 5 65536) 2).data % 2 ^ 62 ∧ mkGa 5 65536 % 65536 = 0 ∧ field 12 4 (prg 2 1 1 (mkGa 5 65536) 2).data =
       2 ∧ 1 ≤ 2 ∧ field 16 1 (prg 2 1 1 (mkGa 5 65536) 2).data = 1 ∧ 1 ≤ 4 ∧ (wrg 3 (some 0)).ownNode (mkGa 5 65536) = true ∧
       (wrg 3 (some 0)).regionCovered 1 (mkGa 5 65536) 2 = true ∧ (wrg 3 (some 0)).plc.away = [] ∧ (wrg 3 (some 0)).plc.regions =
       [(2, { cls := 3, ctx := 1, base := mkGa 5 65536, pages := 2, drain := some 0 : Region })] ∧ ((3 = 2 ∨ 3 = 3) ∧ 1 ≤ 1 ∨ 3 =
       4 ∧ 1 = 0)) ∧
    ((wrg 4 none).Quiet ∧ (prg 2 1 0 (mkGa 5 65536) 2).wf = true ∧ ((wrg 4 none).begun 3).Takes (prg 2 1 0 (mkGa 5 65536) 2)
       0x3F20 1 ∧ ((wrg 4 none).begun 3).Authorized (prg 2 1 0 (mkGa 5 65536) 2) 0x3F20 1 0 9 ∧ field 0 2 (prg 2 1 0 (mkGa 5
       65536) 2).data = 2 ∧ 2 < 512 ∧ field 2 2 (prg 2 1 0 (mkGa 5 65536) 2).data = 1 ∧ 1 ≤ 1 ∧ 1 ≤ 1023 ∧ mkGa 5 65536 = field 4
       8 (prg 2 1 0 (mkGa 5 65536) 2).data % 2 ^ 62 ∧ mkGa 5 65536 % 65536 = 0 ∧ field 12 4 (prg 2 1 0 (mkGa 5 65536) 2).data = 2
       ∧ 1 ≤ 2 ∧ field 16 1 (prg 2 1 0 (mkGa 5 65536) 2).data = 0 ∧ 0 ≤ 4 ∧ (wrg 4 none).ownNode (mkGa 5 65536) = true ∧ (wrg 4
       none).regionCovered 1 (mkGa 5 65536) 2 = true ∧ (wrg 4 none).plc.away = [] ∧ (wrg 4 none).plc.regions =
       [(2, { cls := 4, ctx := 1, base := mkGa 5 65536, pages := 2 : Region })] ∧ ((4 = 2 ∨ 4 = 3) ∧ 0 ≤ 1 ∨ 4 = 4 ∧ 0 = 0)) ∧
    (w0.Quiet ∧ pfb.wf = true ∧ (w0.begun 3).Takes pfb 0x3F20 2 ∧ (w0.begun 3).Authorized pfb 0x3F20 2 0 9 ∧ w0.plc.fallbacks = []
       ∧ field 0 2 pfb.data = 1 ∧ 1 ≤ 1023 ∧ field 2 8 pfb.data % 2 ^ 62 = mkGa 9 65536 ∧ mkGa 9 65536 % 65536 = 0 ∧ field 10 4
       pfb.data = 2 ∧ field 14 8 pfb.data = 2048 ∧ field 22 1 pfb.data = 2 ∧ (2 = 1 ∨ 2 = 2 ∨ 2 = 4) ∧ w0.grantedRange 1 (2048 /
       65536 * 65536) ((2048 % 65536 + (2 * 65536 + 2 - 1) / 2 + 65535) / 65536) = true) ∧
    (w0.Quiet ∧ (pdu hd).wf = true ∧ List.length hd = 24 ∧ viaOk (Via.batch 3) = true ∧ forUs (Via.batch 3) = true ∧ nodeOk 9 =
       true ∧ w0.plc.hints = [] ∧ w0.plc.here = [] ∧ w0.plc.away = [] ∧ 1 = bits 9 0 hd ∧ 9 = bits 29 16 hd ∧ 2 = max 1 (field 4 4
       hd) ∧ mkGa 5 65536 = w0.homeGa (field 8 8 hd % 2 ^ 62 / 65536 * 65536) ∧ w0.phase = 10 ∧ w0.entersHere (Via.batch 3) =
       false ∧ w0.hintable 1 (mkGa 5 65536) 2 = false) ∧
    (whi.Quiet ∧ (whi.begun 3).Takes x8_10_1 0x3F20 3 ∧ (pdu hd).wf = true ∧ List.length hd = 24 ∧ viaOk (Via.batch 3) = true ∧
       forUs (Via.batch 3) = true ∧ nodeOk 9 = true ∧ whi.plc.hints = [] ∧ whi.plc.here = [] ∧ whi.plc.away = [] ∧ 1 = bits 9 0 hd
       ∧ 9 = bits 29 16 hd ∧ 2 = max 1 (field 4 4 hd) ∧ mkGa 5 65536 = whi.homeGa (field 8 8 hd % 2 ^ 62 / 65536 * 65536) ∧
       whi.phase = 10 ∧ whi.entersHere (Via.batch 3) = false ∧ x8_10_1 = ({ (pdu hd) with total := List.length hd, data := hd } :
       Pdu) ∧ (pdu hd).trailer = none ∧ whi.ownNode (mkGa 5 65536) = true ∧ whi.hintable 1 (mkGa 5 65536) 2 = true ∧ (9 = 0x3FFF ∨
       whi.beyondGateway 9 = false)) := ⟨⟨State.quiet_of _ (by decide +kernel), State.signed_wf _ _ _ _ (by decide) (by decide +kernel), State.takes_of _ _ _ _ (by decide +kernel), State.signed_authorized _ _ _ _ _ (by decide +kernel), by decide +kernel⟩,
   ⟨State.quiet_of _ (by decide +kernel), State.signed_wf _ _ _ _ (by decide) (by decide +kernel), State.takes_of _ _ _ _ (by decide +kernel), State.signed_authorized _ _ _ _ _ (by decide +kernel), by decide +kernel⟩,
   ⟨State.quiet_of _ (by decide +kernel), State.signed_wf _ _ _ _ (by decide) (by decide +kernel), State.takes_of _ _ _ _ (by decide +kernel), State.signed_authorized _ _ _ _ _ (by decide +kernel), by decide +kernel⟩,
   ⟨State.quiet_of _ (by decide +kernel), State.signed_wf _ _ _ _ (by decide) (by decide +kernel), State.takes_of _ _ _ _ (by decide +kernel), State.signed_authorized _ _ _ _ _ (by decide +kernel), by decide +kernel⟩,
   ⟨State.quiet_of _ (by decide +kernel), State.signed_wf _ _ _ _ (by decide) (by decide +kernel), State.takes_of _ _ _ _ (by decide +kernel), State.signed_authorized _ _ _ _ _ (by decide +kernel), by decide +kernel⟩,
   ⟨State.quiet_of _ (by decide +kernel), State.signed_wf _ _ _ _ (by decide) (by decide +kernel), State.takes_of _ _ _ _ (by decide +kernel), State.signed_authorized _ _ _ _ _ (by decide +kernel), by decide +kernel⟩,
   ⟨State.quiet_of _ (by decide +kernel), State.signed_wf _ _ _ _ (by decide) (by decide +kernel), State.takes_of _ _ _ _ (by decide +kernel), State.signed_authorized _ _ _ _ _ (by decide +kernel), by decide +kernel⟩,
   ⟨State.quiet_of _ (by decide +kernel), State.signed_wf _ _ _ _ (by decide) (by decide +kernel), State.takes_of _ _ _ _ (by decide +kernel), State.signed_authorized _ _ _ _ _ (by decide +kernel), by decide +kernel⟩,
   ⟨State.quiet_of _ (by decide +kernel), by decide +kernel⟩,
   ⟨State.quiet_of _ (by decide +kernel), State.takes_of _ _ _ _ (by decide +kernel), by decide +kernel⟩⟩


theorem witness_PlacementMessages :
    (wsp.Quiet ∧ (wsp.ownNode (ga9 / 65536 * 65536) = true → 2 + Config.freeValue wsp.free % 2 = wsp.classOf 1 (ga9 / 65536 *
       65536) ∧ (({ ((wsp.begun 3).countArrival vb 3 6) with free := wsp.free + 1 } : State)) = (wsp.begun 3).countArrival vb 3 6)
       ∧ (wsp.ownNode (ga9 / 65536 * 65536) = false → 2 + Config.freeValue wsp.free % 2 = 2 + Config.freeValue wsp.free % 2 ∧
       (({ ((wsp.begun 3).countArrival vb 3 6) with free := wsp.free + 1 } : State)) =
       ({ ((wsp.begun 3).countArrival vb 3 6) with free := wsp.free + 1 } : State)) ∧ viaOk vb = true ∧ forUs vb = true ∧ 9 < 2 ^
       14 ∧ ga9 < 2 ^ 62 ∧ 1 ≤ 1023 ∧ wsp.beyondGateway 9 = false ∧ thas (ga9 / 65536) wsp.plc.here = false ∧ wsp.islandMode =
       false ∧ wsp.copiesHeld 1 < wsp.spacePages 1 ∧ wsp.freeFrame 1 = some ((wsp.freeFrame 1).getD 0)) ∧
    (wsm.Quiet ∧ (wsm.ownNode (mkGa 5 327680 / 65536 * 65536) = true → wsm.classOf 1 (mkGa 5 327680 / 65536 * 65536) = wsm.classOf
       1 (mkGa 5 327680 / 65536 * 65536) ∧ (wsm.begun 3).countArrival vb 3 6 = (wsm.begun 3).countArrival vb 3 6) ∧ (wsm.ownNode
       (mkGa 5 327680 / 65536 * 65536) = false → wsm.classOf 1 (mkGa 5 327680 / 65536 * 65536) = 2 + Config.freeValue wsm.free % 2
       ∧ (wsm.begun 3).countArrival vb 3 6 = ({ ((wsm.begun 3).countArrival vb 3 6) with free := wsm.free + 1 } : State)) ∧ viaOk
       vb = true ∧ forUs vb = true ∧ 9 < 2 ^ 14 ∧ mkGa 5 327680 < 2 ^ 62 ∧ 1 ≤ 1023 ∧ wsm.beyondGateway 9 = false ∧ thas (mkGa 5
       327680 / 65536) wsm.plc.here = false ∧ wsm.islandMode = false ∧ wsm.copiesHeld 1 < wsm.spacePages 1 ∧ wsm.freeFrame 1 =
       some ((wsm.freeFrame 1).getD 0)) ∧
    (w0.Quiet ∧ viaOk vb = true ∧ forUs vb = true ∧ 9 < 2 ^ 14 ∧ ga9 < 2 ^ 62 ∧ 1 ≤ 1023 ∧ (w0.beyondGateway 9 = true ∨
       w0.islandMode = true ∨ thas (ga9 / 65536) w0.plc.here = false ∧ w0.spacePages 1 ≤ w0.copiesHeld 1)) ∧
    ((wmv mm).Quiet ∧ viaOk vb = true ∧ forUs vb = true ∧ 9 < 2 ^ 14 ∧ ga5 < 2 ^ 62 ∧ 1 ≤ 1023 ∧ (wmv mm).plc.moves = [mm] ∧
       mm.page = ga5 / 65536 ∧ mm.dest = 9 ∧ mm.phase = 0 ∧ mm.accepted = false ∧ mm.demote = false ∧ mm.hinted = false ∧ (wmv
       mm).plc.loops = []) ∧
    (x8_15_1.Quiet ∧ viaOk vb = true ∧ forUs vb = true ∧ 9 < 2 ^ 14 ∧ ga5 < 2 ^ 62 ∧ 1 ≤ 1023 ∧ x8_15_1.plc.moves = [mm] ∧ mm.page
       = ga5 / 65536 ∧ mm.dest = 9 ∧ mm.phase = 0 ∧ mm.accepted = false ∧ mm.demote = false ∧ mm.hinted = false ∧ x8_15_1.rdg.mode
       = 0 ∧ x8_15_1.plc.loops = []) ∧
    ((wmv mm).Quiet ∧ viaOk vb = true ∧ forUs vb = true ∧ 9 < 2 ^ 14 ∧ ga5 < 2 ^ 62 ∧ 1 ≤ 1023 ∧ (wmv mm).plc.moves = [mm] ∧
       mm.page = ga5 / 65536 ∧ mm.dest = 9 ∧ mm.phase = 0 ∧ mm.accepted = false ∧ mm.demote = false ∧ mm.hinted = false ∧ (wmv
       mm).rdg.mode ≠ 0 ∧ (wmv mm).pageAt (ga5 / 65536) = some 327680) ∧
    ((wmv x8_17_1).Quiet ∧ viaOk vb = true ∧ forUs vb = true ∧ 9 < 2 ^ 14 ∧ ga5 < 2 ^ 62 ∧ 1 ≤ 1023 ∧ (wmv x8_17_1).plc.moves =
       [x8_17_1] ∧ x8_17_1.page = ga5 / 65536 ∧ x8_17_1.phase = 1 ∧ x8_17_1.left = 0 ∧ x8_17_1.dirty = [] ∧ (wmv x8_17_1).west.dir
       = [] ∧ (wmv x8_17_1).east.dir = []) ∧
    (wfp.Quiet ∧ viaOk vb = true ∧ forUs vb = true ∧ 9 < 2 ^ 14 ∧ ga9 < 2 ^ 62 ∧ 1 ≤ 1023 ∧ 3 < 2 ^ 32 ∧
       { ctx := 1, frame := 65536, live := true : Placed }.live = true ∧ wfp.plc.here =
       [(ga9 / 65536, { ctx := 1, frame := 65536, live := true : Placed })] ∧ wfp.plc.moves = [] ∧ wfp.ylx.overs = [] ∧
       wfp.avl.admission.st = 0 ∧ wfp.west.dir = [] ∧ wfp.east.dir = [] ∧ wfp.west.pend = [] ∧ wfp.east.pend = [] ∧
       wfp.west.recalls = [] ∧ wfp.east.recalls = [] ∧ wfp.waitingHere = []) ∧
    (wfd.Quiet ∧ viaOk vb = true ∧ forUs vb = true ∧ 9 < 2 ^ 14 ∧ ga5 < 2 ^ 62 ∧ 1 ≤ 1023 ∧ (Instr.fenceDone 3
       { via := vb, node := 9 : Sender } ga5 1 [(7, 3), (8, 1)]).wf = true ∧ wfd.plc.away = [(ga5 / 65536, 9)] ∧ wfd.plc.backs =
       [] ∧ wfd.ylx.overs = [] ∧ wfd.spc.extents = [(8, xf)] ∧ xf.holders = [(ga5 / 65536, 9)]) := ⟨⟨State.quiet_of _ (by decide +kernel), (fun h => by first | exact ⟨rfl, rfl⟩ | exact absurd h (by decide +kernel)), (fun h => by first | exact ⟨rfl, rfl⟩ | exact absurd h (by decide +kernel)), by decide +kernel⟩,
   ⟨State.quiet_of _ (by decide +kernel), (fun h => by first | exact ⟨rfl, rfl⟩ | exact absurd h (by decide +kernel)), (fun h => by first | exact ⟨rfl, rfl⟩ | exact absurd h (by decide +kernel)), by decide +kernel⟩,
   ⟨State.quiet_of _ (by decide +kernel), by decide +kernel⟩,
   ⟨State.quiet_of _ (by decide +kernel), by decide +kernel⟩,
   ⟨State.quiet_of _ (by decide +kernel), by decide +kernel⟩,
   ⟨State.quiet_of _ (by decide +kernel), by decide +kernel⟩,
   ⟨State.quiet_of _ (by decide +kernel), by decide +kernel⟩,
   ⟨State.quiet_of _ (by decide +kernel), by decide +kernel⟩,
   ⟨State.quiet_of _ (by decide +kernel), by decide +kernel⟩⟩


theorem witness_TablesAndFrames :
    (w0.Quiet ∧ ptd.wf = true ∧ (w0.begun 3).Takes ptd 0x3F30 1 ∧ (w0.begun 3).Authorized ptd 0x3F30 1 0 9 ∧ (∀ (i : Nat) (e :
       Shard), t0.shards[i]? = some e → w0.isSelf e.node = true → w0.grantedRange t0.ctx e.base (pagesOf (State.shardRows t0 i *
       State.rowSize t0)) = true) ∧ t0 = tableOfPayload ptd.data ∧ tableBad (field 0 1 ptd.data) t0 = false ∧ (field 0 1 ptd.data
       = 4 ∧ 4 ≠ 255 ∧ tget 4 w0.ylx.tables = none ∨ field 0 1 ptd.data = 255 ∧ freeNum w0.ylx.tables 128 0 = some 4) ∧ t0.ctx ≠ 0
       ∧ (t0.frames = 0 ∨ w0.grantedRange t0.ctx t0.spillBase (pagesOf (t0.frames * frameBytes t0)) = true)) ∧
    (wtf.Quiet ∧ ptf.wf = true ∧ (wtf.begun 3).Takes ptf 0x3F30 2 ∧ (wtf.begun 3).Authorized ptf 0x3F30 2 0 9 ∧ field 0 1 ptf.data
       = 4 ∧ 4 < 128 ∧ wtf.ylx = { tables := [(4, t0)] : Yilx } ∧ t0.state = 1 ∧ wtf.eng.yealms = []) ∧
    (w0.Quiet ∧ ptf.wf = true ∧ (Instr.frameRequest 3 { via := vb, node := 9 : Sender } 4 3 77).wf = true ∧ forUs vb = true ∧ tget
       4 w0.ylx.tables = none) ∧
    (wt1.Quiet ∧ (∀ (x : (Nat × Nat) × Nat × Nat), x ∈ wt1.ylx.spills → x.snd ≠ (4, 3)) ∧ ptf.wf = true ∧ (Instr.frameRequest 3
       { via := vb, node := 9 : Sender } 4 3 77).wf = true ∧ forUs vb = true ∧ tget 4 wt1.ylx.tables = some t1 ∧ t1.state = 1 ∧
       wt1.beyondGateway 9 = false ∧ wt1.spillStack 4 t1 = some (((wt1.spillStack 4 t1).getD (0, 0)).fst, ((wt1.spillStack 4
       t1).getD (0, 0)).snd)) ∧
    ((wrm rm).Quiet ∧ ptf.wf = true ∧ (Instr.frameAnswer 3 { via := vb, node := 9 : Sender } 4 3 77 true).wf = true ∧ forUs vb =
       true ∧ (wrm rm).ylx.moves = [rm] ∧ rm.t = 4 ∧ rm.b = 3 ∧ rm.dest = 9 ∧ rm.phase = 0 ∧ rm.accepted = false ∧ rm.back = false
       ∧ (wrm rm).ylx.loops = []) ∧
    (x8_25_1.Quiet ∧ ptf.wf = true ∧ (Instr.frameAnswer 3 { via := vb, node := 9 : Sender } 4 3 77 true).wf = true ∧ forUs vb =
       true ∧ x8_25_1.ylx.moves = [rm] ∧ rm.t = 4 ∧ rm.b = 3 ∧ rm.dest = 9 ∧ rm.phase = 0 ∧ rm.accepted = false ∧ rm.back = false
       ∧ tget 4 x8_25_1.ylx.tables = some t0 ∧ x8_25_1.rdg.mode = 0 ∧ x8_25_1.ylx.loops = []) ∧
    ((wrm rm).Quiet ∧ ptf.wf = true ∧ (Instr.frameAnswer 3 { via := vb, node := 9 : Sender } 4 3 77 true).wf = true ∧ forUs vb =
       true ∧ (wrm rm).ylx.moves = [rm] ∧ rm.t = 4 ∧ rm.b = 3 ∧ rm.dest = 9 ∧ rm.phase = 0 ∧ rm.accepted = false ∧ rm.back = false
       ∧ tget 4 (wrm rm).ylx.tables = some t0 ∧ (wrm rm).rdg.mode ≠ 0) ∧
    ((wrm x8_27_1).Quiet ∧ ptf.wf = true ∧ 4 < 128 ∧ 3 < 2 ^ 48 ∧ (wrm x8_27_1).ylx.moves = [x8_27_1] ∧ x8_27_1.t = 4 ∧ x8_27_1.b
       = 3 ∧ x8_27_1.phase = 1 ∧ x8_27_1.marks = [] ∧ x8_27_1.left = 0 ∧ tget 4 (wrm x8_27_1).ylx.tables = some t0 ∧ (wrm
       x8_27_1).blockHere t0 4 3 = some (((wrm rm).blockHere t0 4 3).getD 0) ∧ ((wrm x8_27_1).half (offHalf (((wrm rm).blockHere
       t0 4 3).getD 0))).dir = []) := ⟨⟨State.quiet_of _ (by decide +kernel), State.signed_wf _ _ _ _ (by decide) (by decide +kernel), State.takes_of _ _ _ _ (by decide +kernel), State.signed_authorized _ _ _ _ _ (by decide +kernel), by intro i e h; cases i <;> simp [t0] at h; subst h; decide +kernel, by decide +kernel⟩,
   ⟨State.quiet_of _ (by decide +kernel), State.signed_wf _ _ _ _ (by decide) (by decide +kernel), State.takes_of _ _ _ _ (by decide +kernel), State.signed_authorized _ _ _ _ _ (by decide +kernel), by decide +kernel⟩,
   ⟨State.quiet_of _ (by decide +kernel), by decide +kernel⟩,
   ⟨State.quiet_of _ (by decide +kernel), by first | decide +kernel | (intros; rfl) | (intro _ h; cases h; done) | (intro _ h; cases h; decide +kernel) | (intro k; cases k <;> decide +kernel), by decide +kernel⟩,
   ⟨State.quiet_of _ (by decide +kernel), by decide +kernel⟩,
   ⟨State.quiet_of _ (by decide +kernel), by decide +kernel⟩,
   ⟨State.quiet_of _ (by decide +kernel), by decide +kernel⟩,
   ⟨State.quiet_of _ (by decide +kernel), by decide +kernel⟩⟩

end B8
namespace B9

def t0 : Table := { ctx := 0, tag := 77, rows := 1000, rowlog := 7, fmt := 1, dim := 32, flags := 7, scale := 0, shards := [⟨0, 5, 0x10000⟩], spillBase := 0x80000, frames := 0, defaultRow := zeros 128 }
def yd (op red : Nat) (fmt : Nat := 1) (ticket : Nat := 1) (cm : Nat := 0x400000) : Bytes := le 1 (op + 16 * red) ++ le 1 0 ++ le 1 4 ++ le 1 fmt ++ le 4 1 ++ le 8 0x100000 ++ le 4 2 ++ le 4 (if red = 0 then 0 else 1) ++ le 8 (if red = 0 then 0 else 0x200000) ++ le 8 0 ++ le 8 0x300000 ++ le 8 cm ++ le 4 ticket ++ zeros 4
def js (d : Bytes) : Submit := { via := .geled .west true, ctx := 0, job := 7, tag := 3, desc := d }
def wy : State := { w0 with ylx.tables := [(4, t0)] }
def go (op red : Nat) (c : Submit → Instr) : Submit := js (yd op red)
def bad (d : Bytes) (x : Status × Nat × Nat) : Work := { State.workOf (js d) (State.issuerOf (js d)) with status := x.1, fault := x.2.1, detail := x.2.2 }
def ud (op : Nat) (cm : Nat := mkGa 5 0x400000) : Bytes := fitTo 256 (le 1 (op + 16 * 2) ++ le 1 1 ++ le 2 0 ++ le 4 5 ++ le 4 64 ++ le 4 0 ++ le 8 cm ++ zeros 8 ++ zeros 32 ++
  (le 8 (mkGa 5 0x100000) ++ le 1 1 ++ le 1 0 ++ zeros 6) ++ (le 8 (mkGa 5 0x200000) ++ le 1 1 ++ le 1 1 ++ zeros 6) ++ zeros 96 ++ le 4 (1 + 2^8 * 1))
def fw : Work := State.workOf (js (yd 1 0)) (State.issuerOf (js (yd 1 0)))
def fr : Front := { cls := .yealm, w := fw, h := .west, forwarded := false }
def wfr : State := { wy with eng.fronts := [(6, fr)], eng.nextFront := 7 }
def t5 : Table := { t0 with ctx := 1, shards := [⟨0, 5, 0⟩] }
def wp5 : State := { w0 with ylx.tables := [(4, t5)] }
def pt : Part := { src := 9, sid := 0xF0, tag := 3, ctx := 1, job := 7, desc := yd 1 1, tableTag := 77, partNo := 2, entries := [⟨5, 0, 0⟩] }
def wk : Work := { desc := yd 1 1, ctx := 0, job := 7, tag := 3, issuer := .companion .west true, started := true, y := { split := true, parts := [{ no := 2, node := 9, tag := 44, entries := [⟨5, 0, 0⟩] }] } }
def wpa : State := { wy with eng.yealms := [(3, { run := some wk })] }
def pa : PartAnswer := { src := 9, tag := 44, partNo := 2, status := 0, entries := [⟨0, 1, false, zeros 128⟩] }
def ru (st : Bool) : RowUpdate := { src := 9, sid := 0xF0, tag := 3, ctx := 1, job := 7, table := 4, row := 5, set := st, vfmt := 1, seq := 1, pos := 0, data := List.replicate 128 0x3F }
def wru : State := { w0 with ylx.tables := [(4, t5)], west.slate := [((0x2070, 1), [0]), ((0x20C0, 1), [1]), ((0x20D0, 1), [0])], east.slate := [((0x2070, 1), [0]), ((0x20C0, 1), [1]), ((0x20D0, 1), [0])], near.clean := List.range 64, near.mem := [(640, 7), (645, 0x40), (767, 3), (768, 4)] }
def qru (st : Bool) : Req := { via := .batch 0, ctx := 1, job := 7, tag := 3, src := 9, sid := 0xF0, dst := 5, addr := State.rowGa t5 5, size := 128, len := 6 + State.unitsOf 128, rc := 0, aop := 1, data := (ru st).data, agentTag := 4 }

theorem witness_PostedWork :
    (wy.Quiet ∧ (∀ (p : Nat), ((js (yd 1 0)).via = Via.port p ∨ (js (yd 1 0)).via = Via.batch p ∨ ∃ t, (js (yd 1 0)).via =
       Via.onward p t) → wy.cfgBit (portHalf p) 0x20D0 1 2 = false) ∧ wy.phase = 10 ∧ Instr.gather 3 (js (yd 1 0)) ∈
       [Instr.gather 3 (js (yd 1 0)), Instr.scatterAdd 3 (js (yd 1 0)), Instr.scatterSet 3 (js (yd 1 0)), Instr.prefetch 3 (js (yd 1 0))]
       ∧ (Instr.gather 3 (js (yd 1 0))).wf = true ∧ wy.submitRefusal (js (yd 1 0)) = none ∧ List.length (js (yd 1 0)).desc = 64 ∧
       wy.tableOf (yTable (js (yd 1 0)).desc) = some t0 ∧ yRefusal (js (yd 1 0)).desc (js (yd 1 0)).ctx (some t0) false = none) ∧
    (wy.Quiet ∧ (∀ (p : Nat), ((js (yd 2 0)).via = Via.port p ∨ (js (yd 2 0)).via = Via.batch p ∨ ∃ t, (js (yd 2 0)).via =
       Via.onward p t) → wy.cfgBit (portHalf p) 0x20D0 1 2 = false) ∧ wy.phase = 10 ∧ Instr.scatterAdd 3 (js (yd 2 0)) ∈
       [Instr.gather 3 (js (yd 2 0)), Instr.scatterAdd 3 (js (yd 2 0)), Instr.scatterSet 3 (js (yd 2 0)), Instr.prefetch 3 (js (yd 2 0))]
       ∧ (Instr.scatterAdd 3 (js (yd 2 0))).wf = true ∧ wy.submitRefusal (js (yd 2 0)) = none ∧ List.length (js (yd 2 0)).desc =
       64 ∧ wy.tableOf (yTable (js (yd 2 0)).desc) = some t0 ∧ yRefusal (js (yd 2 0)).desc (js (yd 2 0)).ctx (some t0) false =
       none) ∧
    (wy.Quiet ∧ (∀ (p : Nat), ((js (yd 3 0 0)).via = Via.port p ∨ (js (yd 3 0 0)).via = Via.batch p ∨ ∃ t, (js (yd 3 0 0)).via =
       Via.onward p t) → wy.cfgBit (portHalf p) 0x20D0 1 2 = false) ∧ wy.phase = 10 ∧ Instr.scatterSet 3 (js (yd 3 0 0)) ∈
       [Instr.gather 3 (js (yd 3 0 0)), Instr.scatterAdd 3 (js (yd 3 0 0)), Instr.scatterSet 3 (js (yd 3 0 0)), Instr.prefetch 3 (js (yd 3 0 0))]
       ∧ (Instr.scatterSet 3 (js (yd 3 0 0))).wf = true ∧ wy.submitRefusal (js (yd 3 0 0)) = none ∧ List.length (js (yd 3 0
       0)).desc = 64 ∧ wy.tableOf (yTable (js (yd 3 0 0)).desc) = some t0 ∧ yRefusal (js (yd 3 0 0)).desc (js (yd 3 0 0)).ctx
       (some t0) false = none) ∧
    (wy.Quiet ∧ (∀ (p : Nat), ((js (yd 4 0 0)).via = Via.port p ∨ (js (yd 4 0 0)).via = Via.batch p ∨ ∃ t, (js (yd 4 0 0)).via =
       Via.onward p t) → wy.cfgBit (portHalf p) 0x20D0 1 2 = false) ∧ wy.phase = 10 ∧ Instr.prefetch 3 (js (yd 4 0 0)) ∈
       [Instr.gather 3 (js (yd 4 0 0)), Instr.scatterAdd 3 (js (yd 4 0 0)), Instr.scatterSet 3 (js (yd 4 0 0)), Instr.prefetch 3 (js (yd 4 0 0))]
       ∧ (Instr.prefetch 3 (js (yd 4 0 0))).wf = true ∧ wy.submitRefusal (js (yd 4 0 0)) = none ∧ List.length (js (yd 4 0 0)).desc
       = 64 ∧ wy.tableOf (yTable (js (yd 4 0 0)).desc) = some t0 ∧ yRefusal (js (yd 4 0 0)).desc (js (yd 4 0 0)).ctx (some t0)
       false = none) ∧
    (w0.Quiet ∧ (∀ (p : Nat), ((js (yd 1 0 1 1 0)).via = Via.port p ∨ (js (yd 1 0 1 1 0)).via = Via.batch p ∨ ∃ t, (js (yd 1 0 1 1
       0)).via = Via.onward p t) → w0.cfgBit (portHalf p) 0x20D0 1 2 = false) ∧ w0.phase = 10 ∧ Instr.gather 3 (js (yd 1 0 1 1 0))
       ∈
       [Instr.gather 3 (js (yd 1 0 1 1 0)), Instr.scatterAdd 3 (js (yd 1 0 1 1 0)), Instr.scatterSet 3 (js (yd 1 0 1 1 0)), Instr.prefetch 3 (js (yd 1 0 1 1 0))]
       ∧ (Instr.gather 3 (js (yd 1 0 1 1 0))).wf = true ∧ w0.submitRefusal (js (yd 1 0 1 1 0)) = none ∧ List.length (js (yd 1 0 1
       1 0)).desc = 64 ∧ w0.tableOf (yTable (js (yd 1 0 1 1 0)).desc) = none ∧ yRefusal (js (yd 1 0 1 1 0)).desc (js (yd 1 0 1 1
       0)).ctx none false = some (Status.rightsFault, 0, 16) ∧ (yCmpl (js (yd 1 0 1 1 0)).desc = 0 ∨ yCmpl (js (yd 1 0 1 1
       0)).desc % 64 ≠ 0) ∧ bad (yd 1 0 1 1 0) (Status.rightsFault, 0, 16) =
       ({ (State.workOf (js (yd 1 0 1 1 0)) (State.issuerOf (js (yd 1 0 1 1 0)))) with status := Status.rightsFault, detail := 16, fault := 0 }
       : Work)) ∧
    (w0.Quiet ∧ (∀ (p : Nat), ((js (yd 4 0 0 0 0)).via = Via.port p ∨ (js (yd 4 0 0 0 0)).via = Via.batch p ∨ ∃ t, (js (yd 4 0 0 0
       0)).via = Via.onward p t) → w0.cfgBit (portHalf p) 0x20D0 1 2 = false) ∧ w0.phase = 10 ∧ Instr.prefetch 3 (js (yd 4 0 0 0
       0)) ∈
       [Instr.gather 3 (js (yd 4 0 0 0 0)), Instr.scatterAdd 3 (js (yd 4 0 0 0 0)), Instr.scatterSet 3 (js (yd 4 0 0 0 0)), Instr.prefetch 3 (js (yd 4 0 0 0 0))]
       ∧ (Instr.prefetch 3 (js (yd 4 0 0 0 0))).wf = true ∧ w0.submitRefusal (js (yd 4 0 0 0 0)) = none ∧ List.length (js (yd 4 0
       0 0 0)).desc = 64 ∧ w0.tableOf (yTable (js (yd 4 0 0 0 0)).desc) = none ∧ yRefusal (js (yd 4 0 0 0 0)).desc (js (yd 4 0 0 0
       0)).ctx none false = some (Status.translationFault, 0, 6) ∧ (yCmpl (js (yd 4 0 0 0 0)).desc = 0 ∨ yCmpl (js (yd 4 0 0 0
       0)).desc % 64 ≠ 0) ∧ bad (yd 4 0 0 0 0) (Status.translationFault, 0, 6) =
       ({ (State.workOf (js (yd 4 0 0 0 0)) (State.issuerOf (js (yd 4 0 0 0 0)))) with status := Status.translationFault, detail := 6, fault := 0 }
       : Work)) ∧
    (w0.Quiet ∧ (∀ (p : Nat), ((js (ud 1)).via = Via.port p ∨ (js (ud 1)).via = Via.batch p ∨ ∃ t, (js (ud 1)).via = Via.onward p
       t) → w0.cfgBit (portHalf p) 0x20D0 1 2 = false) ∧ w0.phase = 10 ∧ (Instr.updateProgram 3 (js (ud 1))).wf = true ∧
       w0.submitRefusal (js (ud 1)) = none ∧ List.length (js (ud 1)).desc = EngClass.update.size ∧ uRefusal (js (ud 1)).desc =
       none) ∧
    (w0.Quiet ∧ (∀ (p : Nat), ((js (ud 2 0)).via = Via.port p ∨ (js (ud 2 0)).via = Via.batch p ∨ ∃ t, (js (ud 2 0)).via =
       Via.onward p t) → w0.cfgBit (portHalf p) 0x20D0 1 2 = false) ∧ w0.phase = 10 ∧ (Instr.updateProgram 3 (js (ud 2 0))).wf =
       true ∧ w0.submitRefusal (js (ud 2 0)) = none ∧ List.length (js (ud 2 0)).desc = EngClass.update.size ∧ uRefusal (js (ud 2
       0)).desc = some (Status.translationFault, 1) ∧ Status.translationFault.good = false ∧ (uCmpl (js (ud 2 0)).desc = 0 ∨ uCmpl
       (js (ud 2 0)).desc % 64 ≠ 0) ∧
       (({ (State.workOf (js (ud 2 0)) (State.issuerOf (js (ud 2 0)))) with status := Status.translationFault, detail := 1 } :
       Work)) =
       ({ (State.workOf (js (ud 2 0)) (State.issuerOf (js (ud 2 0)))) with status := Status.translationFault, detail := 1 } :
       Work)) ∧
    (w0.Quiet ∧ (∀ (p : Nat), ((js (ud 1)).via = Via.port p ∨ (js (ud 1)).via = Via.batch p ∨ ∃ t, (js (ud 1)).via = Via.onward p
       t) → w0.cfgBit (portHalf p) 0x20D0 1 2 = false) ∧ w0.phase = 10 ∧ (Instr.forwardedJob 3 9 240 EngClass.update (js (ud
       1))).wf = true ∧ forUs (js (ud 1)).via = true ∧ List.length (js (ud 1)).desc = EngClass.update.size ∧ w0.jobEnded (js (ud
       1)).ctx (js (ud 1)).job = false ∧ w0.stage1
       ({ (js (ud 1)) with src := 9, sid := 240, addr := 0, dst := 0x3FFF, size := 0, len := 4, rc := 0, cap := false, u := false, ck := ⟨0, 0⟩, rl := false, hop := 0, aop := 0, data := [], pz := 0, st := 0, seg := 0, last := false, spar := none, agentTag := 0 }
       : Req) = none ∧ w0.refusalOf EngClass.update (viaHalf (js (ud 1)).via) (js (ud 1)).ctx (js (ud 1)).desc = none) ∧
    (wy.Quiet ∧ (∀ (p : Nat), ((js (yd 1 0)).via = Via.port p ∨ (js (yd 1 0)).via = Via.batch p ∨ ∃ t, (js (yd 1 0)).via =
       Via.onward p t) → wy.cfgBit (portHalf p) 0x20D0 1 2 = false) ∧ wy.phase = 10 ∧ (Instr.forwardedJob 3 9 240 EngClass.yealm
       (js (yd 1 0))).wf = true ∧ forUs (js (yd 1 0)).via = true ∧ List.length (js (yd 1 0)).desc = EngClass.yealm.size ∧
       wy.jobEnded (js (yd 1 0)).ctx (js (yd 1 0)).job = false ∧ wy.stage1
       ({ (js (yd 1 0)) with src := 9, sid := 240, addr := 0, dst := 0x3FFF, size := 0, len := 4, rc := 0, cap := false, u := false, ck := ⟨0, 0⟩, rl := false, hop := 0, aop := 0, data := [], pz := 0, st := 0, seg := 0, last := false, spar := none, agentTag := 0 }
       : Req) = none ∧ wy.refusalOf EngClass.yealm (viaHalf (js (yd 1 0)).via) (js (yd 1 0)).ctx (js (yd 1 0)).desc = none) ∧
    (wy.Quiet ∧ (∀ (p : Nat), ((js (yd 1 0)).via = Via.port p ∨ (js (yd 1 0)).via = Via.batch p ∨ ∃ t, (js (yd 1 0)).via =
       Via.onward p t) → wy.cfgBit (portHalf p) 0x20D0 1 2 = false) ∧ wy.phase = 10 ∧ tget 6 wfr.eng.fronts = some fr ∧ fr.await =
       [] ∧ fr.refused = false ∧ wfr.jobEnded fr.w.ctx fr.w.job = false ∧ wfr.mustWait fr = false ∧ (fr.cls = EngClass.yealm ∨
       fr.cls = EngClass.update ∧ wfr.awayNode fr.w.ctx (wfr.frontLocs fr) fr.forwarded = none) ∧ (wfr.chooseEngine fr.cls
       (wfr.frontLocs fr) fun _ => true) = some ((wfr.chooseEngine EngClass.yealm (wfr.frontLocs fr) fun _ => true).getD
       { cls := EngClass.tile, idx := 9 : Engine })) ∧
    (wp5.Quiet ∧ (∀ (p : Nat), ((js (yd 1 0)).via = Via.port p ∨ (js (yd 1 0)).via = Via.batch p ∨ ∃ t, (js (yd 1 0)).via =
       Via.onward p t) → wp5.cfgBit (portHalf p) 0x20D0 1 2 = false) ∧ (∀ (p : Nat), pt.via = Via.port p ∨ pt.via = Via.batch p →
       wp5.cfgBit (portHalf p) 0x20D0 1 2 = false) ∧ (∀ (e : PartEntry), e ∈ pt.entries → e.row < t5.rows ∧ ∃ off, wp5.locateHere
       (State.rowGa t5 e.row) = State.Loc.near off) ∧ wp5.phase = 10 ∧ pt.wf = true ∧ forUs pt.via = true ∧ wp5.jobEnded pt.ctx
       pt.job = false ∧ wp5.stage1
       ({ pt with addr := 0, dst := 0x3FFF, size := 0, len := 4, rc := 0, cap := false, u := false, ck := ⟨0, 0⟩, rl := false, hop := 0, aop := 0, data := [], pz := 0, st := 0, seg := 0, last := false, spar := none, agentTag := 0 }
       : Req) = none ∧ wp5.tableOf (yTable pt.desc) = some t5 ∧ t5.state = 1 ∧ t5.ctx = pt.ctx ∧ t5.tag = pt.tableTag ∧
       (wp5.chooseEngine EngClass.yealm (wp5.rowLocs (viaHalf pt.via) t5 (List.map (fun x => x.row) pt.entries)) fun _ => true) =
       some
       { cls := EngClass.yealm, idx := ((wp5.chooseEngine EngClass.yealm (wp5.rowLocs Half.west t5 (List.map (fun x => x.row) pt.entries)) fun _ => true).getD { cls := EngClass.tile, idx := 99 : Engine }).idx : Engine }) := ⟨⟨State.quiet_of _ (by decide +kernel), (by rintro p (h | h | ⟨_, h⟩) <;> cases h), by decide +kernel⟩,
   ⟨State.quiet_of _ (by decide +kernel), (by rintro p (h | h | ⟨_, h⟩) <;> cases h), by decide +kernel⟩,
   ⟨State.quiet_of _ (by decide +kernel), (by rintro p (h | h | ⟨_, h⟩) <;> cases h), by decide +kernel⟩,
   ⟨State.quiet_of _ (by decide +kernel), (by rintro p (h | h | ⟨_, h⟩) <;> cases h), by decide +kernel⟩,
   ⟨State.quiet_of _ (by decide +kernel), (by rintro p (h | h | ⟨_, h⟩) <;> cases h), by decide +kernel⟩,
   ⟨State.quiet_of _ (by decide +kernel), (by rintro p (h | h | ⟨_, h⟩) <;> cases h), by decide +kernel⟩,
   ⟨State.quiet_of _ (by decide +kernel), (by rintro p (h | h | ⟨_, h⟩) <;> cases h), by decide +kernel⟩,
   ⟨State.quiet_of _ (by decide +kernel), (by rintro p (h | h | ⟨_, h⟩) <;> cases h), by decide +kernel⟩,
   ⟨State.quiet_of _ (by decide +kernel), (by rintro p (h | h | ⟨_, h⟩) <;> cases h), by decide +kernel⟩,
   ⟨State.quiet_of _ (by decide +kernel), (by rintro p (h | h | ⟨_, h⟩) <;> cases h), by decide +kernel⟩,
   ⟨State.quiet_of _ (by decide +kernel), (by rintro p (h | h | ⟨_, h⟩) <;> cases h), by decide +kernel⟩,
   ⟨State.quiet_of _ (by decide +kernel), (by rintro p (h | h | ⟨_, h⟩) <;> cases h), (by rintro p (h | h) <;> cases h <;> decide +kernel), (by intro e h; simp [pt] at h; subst h; exact ⟨by decide +kernel, 640, by decide +kernel⟩), by decide +kernel⟩⟩


theorem witness_RowsArrive :
    (wpa.Quiet ∧ pa.wf = true ∧ forUs pa.via = true ∧ wpa.eng.outs = [] ∧ wpa.eng.yealms = [(3, { run := some wk : Eng })] ∧
       { run := some wk : Eng }.run = some wk ∧ wk.y.parts =
       [{ no := 2, node := 9, tag := 44, entries := [{ row := 5, bag := 0, weight := 0 : PartEntry }] : PartOut }] ∧
       { no := 2, node := 9, tag := 44, entries := [{ row := 5, bag := 0, weight := 0 : PartEntry }] : PartOut }.no = pa.partNo ∧
       { no := 2, node := 9, tag := 44, entries := [{ row := 5, bag := 0, weight := 0 : PartEntry }] : PartOut }.tag = pa.tag ∧
       wpa.tableOf (yTable wk.desc) = some t0 ∧ pa.status = 0 ∧ pa.loc = none ∧ yOp wk.desc ≠ 4 ∧ pa.entries =
       [{ bag := 0, n := 1, raw := false, data := zeros 128 : Partial }]) ∧
    (wru.Quiet ∧ ({ wru with ylx := ({ wru.ylx with tables := [] } : Yilx) } : State).Served (qru true) 640 128 ∧ wru.Clean 640
       128 ∧ (ru true).wf = true ∧ wru.ylx.tables = [((ru true).table, t5)] ∧ wru.ylx.moves = [] ∧ wru.MemOk ∧ t5.ctx = (ru
       true).ctx ∧ (ru true).row < t5.rows ∧ wru.ylx.stamps = [] ∧ (128 = if (ru true).set = true then State.rowSize t5 else
       t5.dim * (fmtBits t5.fmt / 8)) ∧ 128 * 33 ≥ 128 ∧ 640 % 4096 + 128 ≤ 4096 ∧ forUs (ru true).via = true ∧ qru true =
       ({ (ru true) with dst := wru.nodeNum, addr := State.rowGa t5 (ru true).row, size := 128, len := 6 + State.unitsOf (List.length (ru true).data), aop := (ru true).vfmt, agentTag := (ru true).table, cap := false, rl := false, hop := 0, pz := 0, st := 0, seg := 0, last := false, spar := none }
       : Req) ∧ ((ru true).set = false → (t5.fmt = 1 ∨ t5.fmt = 2) ∧ wru.cfg (offHalf 640) 0x20C0 1 ≠ 0)) ∧
    (wru.Quiet ∧ ({ wru with ylx := ({ wru.ylx with tables := [] } : Yilx) } : State).Served (qru false) 640 128 ∧ wru.Clean 640
       128 ∧ (ru false).wf = true ∧ wru.ylx.tables = [((ru false).table, t5)] ∧ wru.ylx.moves = [] ∧ wru.MemOk ∧ t5.ctx = (ru
       false).ctx ∧ (ru false).row < t5.rows ∧ wru.ylx.stamps = [] ∧ (128 = if (ru false).set = true then State.rowSize t5 else
       t5.dim * (fmtBits t5.fmt / 8)) ∧ 128 * 33 ≥ 128 ∧ 640 % 4096 + 128 ≤ 4096 ∧ forUs (ru false).via = true ∧ qru false =
       ({ (ru false) with dst := wru.nodeNum, addr := State.rowGa t5 (ru false).row, size := 128, len := 6 + State.unitsOf (List.length (ru false).data), aop := (ru false).vfmt, agentTag := (ru false).table, cap := false, rl := false, hop := 0, pz := 0, st := 0, seg := 0, last := false, spar := none }
       : Req) ∧ ((ru false).set = false → (t5.fmt = 1 ∨ t5.fmt = 2) ∧ wru.cfg (offHalf 640) 0x20C0 1 ≠ 0)) := ⟨⟨State.quiet_of _ (by decide +kernel), by decide +kernel⟩,
   ⟨State.quiet_of _ (by decide +kernel), State.served_of _ _ _ _ (by decide +kernel), State.clean_of _ _ _ (by decide +kernel), by decide +kernel⟩,
   ⟨State.quiet_of _ (by decide +kernel), State.served_of _ _ _ _ (by decide +kernel), State.clean_of _ _ _ (by decide +kernel), by decide +kernel⟩⟩

end B9
namespace B10

def js (d : Bytes) (v : Via := .geled .west true) : Submit := { via := v, ctx := 0, job := 7, tag := 3, desc := d }
def td (op gang : Nat) (m k : Nat) (cm : Nat := mkGa 5 0x400000) : Bytes := fitTo 128 (le 1 op ++ le 1 gang ++ le 1 2 ++ le 1 2 ++ le 1 1 ++ le 1 0 ++ le 2 16 ++ le 4 9 ++ le 4 0x3F800000 ++ le 4 m ++ le 4 8 ++ le 4 k ++ le 4 0 ++ le 8 (mkGa 5 0x100000) ++ le 8 (mkGa 5 0x200000) ++ le 8 (mkGa 5 0x300000) ++ zeros 16 ++ le 4 64 ++ le 4 64 ++ le 4 64 ++ zeros 20 ++ le 8 cm)
def jt (op : Nat) (cm : Nat := mkGa 5 0x400000) := js (td op 1 32 64 cm)
def bt (s : State) (j : Submit) : State := (s.begun 3).countArrival j.via 0 20
def tw : Work := State.workOf (jt 1) (State.issuerOf (jt 1))
def fr : Front := { cls := .tile, w := tw, h := .west, forwarded := false }
def wfr : State := { w0 with eng.fronts := [(6, fr)], eng.nextFront := 7 }
def wk (i : Nat) (gang : Nat) : Work := { desc := td 1 gang 32 64, ctx := 0, job := 7, tag := 3, issuer := .companion .west true, t := { leader := 2, top := i == 2, ks := [0], share := [(0,0),(1,0)], units := [(0,0),(1,0)] } }
def gw (i : Nat) : Work := { wk i 2 with sink := .gang 2 }
def wg : State := { w0 with eng.gangs := [⟨2, [(2, wk 2 2), (3, wk 3 2)]⟩], eng.tiles := [(2, { queue := [gw 2] }), (3, { queue := [gw 3] })] }
def z256 : List (BitVec 32) := List.replicate 8 0
def u1 : OutUnit := { p := 0, n := 0, rows := 2, acc := [[0x3F800000#32], [0#32]], waiting := 1 }
def u2 : OutUnit := { u1 with checked := true }
def lw : Work := { wk 2 2 with t := { (wk 2 2).t with unit := some u2, reduce := true } }
def mw : Work := { wk 3 2 with t := { (wk 3 2).t with unit := some { u1 with waiting := 0, checked := true }, reduce := true } }
def wpa : State := { w0 with eng.tiles := [(2, { run := some lw }), (3, { run := some mw })] }
def x10_4_1 := { u1 with waiting := 0, checked := true }
def u3 : OutUnit := { u2 with waiting := 2 }
def lw3 : Work := { lw with t := { lw.t with unit := some u3 } }
def wpa3 : State := { w0 with eng.tiles := [(2, { run := some lw3 }), (3, { run := some mw })] }
def x10_5_1 := { u1 with waiting := 0, checked := true }
def fd : Bytes := fitTo 128 (le 1 (1 + 32) ++ (td 1 1 32 64).drop 1)
def fw : Work := { wk 2 1 with desc := fd, t := { (wk 2 1).t with fedOut := [(0, zeros 4096)] } }
def x10_6_1 := { w0 with eng.tiles := [(2, { run := some fw })] }
def vw : Work := { wk 3 2 with t := { (wk 3 2).t with unit := some { u1 with waiting := 0 }, reduce := true, top := false } }
def wv : State := { w0 with eng.tiles := [(3, { run := some vw })] }
def uz : OutUnit := { p := 0, n := 0, rows := 2, acc := [[0#32], [0#32]] }
def vz (u : OutUnit) : Work := { vw with t := { vw.t with unit := some u } }
def wz (u : OutUnit) : State := { w0 with eng.tiles := [(3, { run := some (vz u) })] }
def ub : OutUnit := { uz with acc := [[0x3F800000#32], [0#32]] }
def zb : Blk := { data := [], poison := 0, spar := ⟨0, 2⟩ }
def vr0 : Work := { vz uz with desc := td 1 2 1 1, got := [(343597383936, zb), (343597383937, zb), (343597384192, zb)] }
def ur : OutUnit := { uz with recompute := some 5, acc := (State.computeUnit vr0 0 0).1 }
def vr : Work := { vr0 with t := { vr0.t with unit := some ur } }
def wr : State := { w0 with eng.tiles := [(3, { run := some vr })] }
def ud (op : Nat) : Bytes := fitTo 256 (le 1 (op + 16 * 2) ++ le 1 1 ++ le 2 0 ++ le 4 5 ++ le 4 64 ++ le 4 0 ++ le 8 (mkGa 5 0x400000) ++ zeros 8 ++ zeros 32 ++
  (le 8 (mkGa 5 0x100000) ++ le 1 1 ++ le 1 0 ++ zeros 6) ++ (le 8 (mkGa 5 0x200000) ++ le 1 1 ++ le 1 1 ++ zeros 6) ++ zeros 96 ++ le 4 (1 + 2^8 * 1))
def uw : Work := { desc := ud 1, ctx := 0, job := 7, tag := 3, issuer := .companion .west true, u := { writing := true } }
def x10_10_1 := { w0 with eng.updates := [(4, { run := some uw })] }

theorem witness_TileWork :
    (w0.Quiet ∧ (∀ (p : Nat), ((jt 1).via = Via.port p ∨ (jt 1).via = Via.batch p ∨ ∃ t, (jt 1).via = Via.onward p t) → w0.cfgBit
       (portHalf p) 0x20D0 1 2 = false) ∧ 0 < 16 ∧ (Instr.tileJob 3 (jt 1)).wf = true ∧ w0.phase = 10 ∧ List.length (jt 1).desc =
       EngClass.tile.size ∧ w0.submitRefusal (jt 1) = none ∧ tRefusal (jt 1).desc (w0.cfg (viaHalf (jt 1).via) 0x2090 1) = none) ∧
    (w0.Quiet ∧ (∀ (p : Nat), ((jt 2 0).via = Via.port p ∨ (jt 2 0).via = Via.batch p ∨ ∃ t, (jt 2 0).via = Via.onward p t) →
       w0.cfgBit (portHalf p) 0x20D0 1 2 = false) ∧ 0 < 16 ∧ (Instr.tileJob 3 (jt 2 0)).wf = true ∧ w0.phase = 10 ∧ List.length
       (jt 2 0).desc = EngClass.tile.size ∧ w0.submitRefusal (jt 2 0) = none ∧ tRefusal (jt 2 0).desc (w0.cfg (viaHalf (jt 2
       0).via) 0x2090 1) = some (Status.translationFault, 1) ∧ Status.translationFault.good = false ∧ (tCmpl (jt 2 0).desc = 0 ∨
       tCmpl (jt 2 0).desc % 64 ≠ 0) ∧
       (({ (State.workOf (jt 2 0) (State.issuerOf (jt 2 0))) with status := Status.translationFault, detail := 1 } : Work)) =
       ({ (State.workOf (jt 2 0) (State.issuerOf (jt 2 0))) with status := Status.translationFault, detail := 1 } : Work)) ∧
    (w0.Quiet ∧ ((wfr.chooseEngine EngClass.tile (wfr.frontLocs fr) fun _ => true).getD
       { cls := EngClass.tile, idx := 99 : Engine }).idx < 16 ∧ tget 6 wfr.eng.fronts = some fr ∧ fr.await = [] ∧ fr.refused =
       false ∧ wfr.jobEnded fr.w.ctx fr.w.job = false ∧ wfr.mustWait fr = false ∧ fr.cls = EngClass.tile ∧ wfr.awayNode fr.w.ctx
       (wfr.frontLocs fr) fr.forwarded = none ∧ tGang fr.w.desc = 1 ∧ (wfr.chooseEngine EngClass.tile (wfr.frontLocs fr) fun _ =>
       true) = some (State.tileEng ((wfr.chooseEngine EngClass.tile (wfr.frontLocs fr) fun _ => true).getD
       { cls := EngClass.tile, idx := 99 : Engine }).idx)) ∧
    (wg.Quiet ∧ (∀ (x : Nat × Work), x ∈ [(2, wk 2 2), (3, wk 3 2)] → (wg.engOf (State.tileEng x.fst)).run = none ∧ (wg.engOf
       (State.tileEng x.fst)).state = 0 ∧ ∃ q r, (wg.engOf (State.tileEng x.fst)).queue = q :: r ∧ q.sink = Sink.gang 2) ∧ 2 < 16
       ∧ wg.eng.gangs = [{ leader := 2, works := [(2, wk 2 2), (3, wk 3 2)] : Gang }]) ∧
    (wpa.Quiet ∧ 2 < 16 ∧ 3 < 16 ∧ 3 ≠ 2 ∧ 0 < 2 ^ 32 ∧ 0 < 2 ^ 32 ∧ wpa.runOf (State.tileEng 2) = some lw ∧ wpa.runOf
       (State.tileEng 3) = some mw ∧ lw.t.unit = some u2 ∧ mw.t.unit = some x10_4_1 ∧ lw.t.reduce = true ∧ mw.t.reduce = true ∧
       mw.t.leader = 2 ∧ u2.p = 0 ∧ u2.n = 0 ∧ x10_4_1.p = 0 ∧ x10_4_1.n = 0 ∧ u2.checked = true ∧ x10_4_1.checked = true ∧
       x10_4_1.waiting = 0 ∧ (x10_4_1.sums = false ∨ x10_4_1.summed = true) ∧ u2.waiting = 1 ∧ lw.t.top = true ∧ wpa.checksOn
       (State.tileEng 2) = true) ∧
    (wpa3.Quiet ∧ 2 < 16 ∧ 3 < 16 ∧ 3 ≠ 2 ∧ 0 < 2 ^ 32 ∧ 0 < 2 ^ 32 ∧ wpa3.runOf (State.tileEng 2) = some lw3 ∧ wpa3.runOf
       (State.tileEng 3) = some mw ∧ lw3.t.unit = some u3 ∧ mw.t.unit = some x10_5_1 ∧ lw3.t.reduce = true ∧ mw.t.reduce = true ∧
       mw.t.leader = 2 ∧ u3.p = 0 ∧ u3.n = 0 ∧ x10_5_1.p = 0 ∧ x10_5_1.n = 0 ∧ u3.checked = true ∧ x10_5_1.checked = true ∧
       x10_5_1.waiting = 0 ∧ (x10_5_1.sums = false ∨ x10_5_1.summed = true) ∧ (1 < u3.waiting ∨ lw3.t.top = false ∧ wpa3.checksOn
       (State.tileEng 2) = true)) ∧
    (x10_6_1.Quiet ∧ 2 < 16 ∧ 0 < 2 ^ 32 ∧ x10_6_1.runOf (State.tileEng 2) = some fw ∧ fw.t.top = true ∧ tget 0 fw.t.fedOut = some
       (zeros 4096) ∧ tFed fw.desc = true ∧ fw.t.slots = [] ∧ Option.map (fun x => x.fst) (List.filter fw.t.share.contains
       fw.t.units).head? = some 0) ∧
    ((wz uz).Quiet ∧ 3 < 16 ∧ (wz uz).runOf (State.tileEng 3) = some (vz uz) ∧ (vz uz).t.unit = some uz ∧ uz.recompute = none ∧
       uz.checked = false ∧ (vz uz).t.reduce = true ∧ (vz uz).t.top = false ∧ ((wz uz).checksOn (State.tileEng 3) = false ∨
       unitFails ({ uz with acc := upsetUnit uz.acc [] } : OutUnit).chk ({ uz with acc := upsetUnit uz.acc [] } : OutUnit).acc
       (State.kLen (vz uz).desc (vz uz).t.ks) ((wz uz).tolerance (State.tileEng 3) (vz uz).desc) true = false)) ∧
    ((wz ub).Quiet ∧ 3 < 16 ∧ (wz ub).runOf (State.tileEng 3) = some (vz ub) ∧ (vz ub).t.unit = some ub ∧ ub.recompute = none ∧
       ub.checked = false ∧ (vz ub).t.reduce = true ∧ (vz ub).t.top = false ∧ (wz ub).checksOn (State.tileEng 3) = true ∧
       unitFails ({ ub with acc := upsetUnit ub.acc [] } : OutUnit).chk ({ ub with acc := upsetUnit ub.acc [] } : OutUnit).acc
       (State.kLen (vz ub).desc (vz ub).t.ks) ((wz ub).tolerance (State.tileEng 3) (vz ub).desc) true = true) ∧
    (wr.Quiet ∧ (∀ (r : Nat × Nat × List Nat), r ∈ State.operandRanges vr ur.p ur.n → State.blocksHere vr r.fst r.snd.fst = true)
       ∧ 3 < 16 ∧ wr.runOf (State.tileEng 3) = some vr ∧ vr.t.unit = some ur ∧ ur.recompute = some 5 ∧ ur.checked = false ∧
       (List.foldl (fun v r => v.consume (State.tileEng 3) r.fst r.snd.fst r.snd.snd) (wr.begun 3) (State.operandRanges vr ur.p
       ur.n)).runOf (State.tileEng 3) = some vr ∧ vr.status.good = true ∧ vr.t.reduce = true ∧ vr.t.top = false ∧ upsetUnit
       (State.computeUnit vr ur.p ur.n).fst [] = ur.acc ∧ ((List.foldl (fun v r => v.consume (State.tileEng 3) r.fst r.snd.fst
       r.snd.snd) (wr.begun 3) (State.operandRanges vr ur.p ur.n)).engOf (State.tileEng 3)).checkerFirst = false) ∧
    (x10_10_1.Quiet ∧ 3 < 16 ∧ 4 < 32 ∧ x10_10_1.runOf { cls := EngClass.update, idx := 4 : Engine } = some uw ∧ uw.u.writing =
       true ∧ uw.await = [] ∧ uw.status.good = true ∧ (x10_10_1.engOf { cls := EngClass.update, idx := 4 : Engine }).state = 0) := ⟨⟨State.quiet_of _ (by decide +kernel), (by rintro p (h | h | ⟨_, h⟩) <;> cases h), by decide +kernel⟩,
   ⟨State.quiet_of _ (by decide +kernel), (by rintro p (h | h | ⟨_, h⟩) <;> cases h), by decide +kernel⟩,
   ⟨State.quiet_of _ (by decide +kernel), by decide +kernel⟩,
   ⟨State.quiet_of _ (by decide +kernel), by intro x h; simp at h; rcases h with rfl | rfl <;> exact ⟨by decide +kernel, by decide +kernel, _, _, rfl, rfl⟩, by decide +kernel⟩,
   ⟨State.quiet_of _ (by decide +kernel), by decide +kernel⟩,
   ⟨State.quiet_of _ (by decide +kernel), by decide +kernel⟩,
   ⟨State.quiet_of _ (by decide +kernel), by decide +kernel⟩,
   ⟨State.quiet_of _ (by decide +kernel), by decide +kernel⟩,
   ⟨State.quiet_of _ (by decide +kernel), by decide +kernel⟩,
   ⟨State.quiet_of _ (by decide +kernel), by first | decide +kernel | (intros; rfl) | (intro _ h; cases h; done) | (intro _ h; cases h; decide +kernel) | (intro k; cases k <;> decide +kernel), by decide +kernel⟩,
   ⟨State.quiet_of _ (by decide +kernel), by decide +kernel⟩⟩

end B10
namespace B11

def up0 : LinkSt := { up := true, width := 8, unacked := [] }
def wu : State := { w0 with gel.west := { st := 4, first := false, credits := [1,2,3,4], link := up0, good := 18, rcvd := 7, sent := 7, log := [(8, true, .register 3 .ok 0), (7, true, .register 4 .ok 0)] }, gel.east := { st := 4, first := false, link := up0, good := 18 } }
def x11_7_1 := { wu with gel.west.half := true }
def x11_9_1 := { wu with gel.west.st := 2, gel.west.link.up := false }
def wll : State := { w0 with gel.downSince := some 5, gel.west.queue := [(1, 3, true, .register 3 .ok 0), (2, 3, true, .register 3 .ok 0)], rdg.agents := [] }
def pd : State := { wu with avl.purlinUp := false }
def bd : State := (wu.begun 3).modRegs .east (fun r => { r with badacc := min (r.badacc + 1) (2 ^ 32 - 1) })
def x11_26_1 := { wu with east.regs.evtStat := 7 }
def x11_29_1 := { wu with west.regs.snapSeq := 2^32 - 1 }
def cfg (l : List ((Nat × Nat) × Bytes)) (s : State) : State := { s with west.slate := ((0x2070, 1), [0]) :: l, east.slate := ((0x2070, 1), [0]) :: l }
/-- port 3 a peer of node 9, port 4 a valley port. -/
def wp : State := cfg [((0x20D1, 4), [1]), ((0x20D1, 5), [4]), ((0x2100, 10), le 8 (2 + 2^8 * 3))] w0

theorem witness_GeledEnds :
    (wu.Quiet ∧ (∀ (u : Nat), u ∈ [0, 0] → u = 0) ∧ (Instr.geledFrame 3 Half.west 9 1 2 3 4 true 0 [0, 0]).wf = true ∧ (wu.geled
       Half.west).st = 4 ∧ (wu.geled Half.west).queue = [] ∧ (wu.geled Half.west).partUnits = 0 ∧ (wu.geled Half.west).partHead =
       none) ∧
    (wu.Quiet ∧ (∀ (u : Nat), u ∈ [] → u = 0) ∧ (Instr.geledFrame 3 Half.west 9 1 2 3 4 true 0 []).wf = true ∧ (wu.geled
       Half.west).st = 4 ∧ (wu.geled Half.west).queue = [] ∧ (wu.geled Half.west).partUnits = 0 ∧ (wu.geled Half.west).partHead =
       none) ∧
    (wu.Quiet ∧ (Instr.geledFrame 3 Half.west 9 1 2 3 4 true 0 [16, 3]).wf = true ∧ (wu.geled Half.west).st = 4 ∧ (wu.geled
       Half.west).queue = [] ∧ (wu.geled Half.west).partUnits = 0 ∧ (wu.geled Half.west).partHead = none ∧ 16 ≠ 0 ∧ (16 % 16 = 0 ∨
       8 < 16 % 16 ∨ 16 / 256 % 4096 ≤ 1)) ∧
    (wu.Quiet ∧ (Instr.geledFrame 3 Half.west 9 1 2 3 4 true 0 [1 + 256, 3]).wf = true ∧ (wu.geled Half.west).st = 4 ∧ (wu.geled
       Half.west).queue = [] ∧ (wu.geled Half.west).partUnits = 0 ∧ (wu.geled Half.west).partHead = none ∧ [1 + 256, 3] = [257, 3]
       ∧ 257 ≠ 0 ∧ (257 % 16 = 0 ∨ 8 < 257 % 16 ∨ 257 / 256 % 4096 ≤ 1)) ∧
    (wu.Quiet ∧ (Instr.geledFrame 3 Half.west 9 1 2 3 4 true 0 [9 + 512, 3]).wf = true ∧ (wu.geled Half.west).st = 4 ∧ (wu.geled
       Half.west).queue = [] ∧ (wu.geled Half.west).partUnits = 0 ∧ (wu.geled Half.west).partHead = none ∧ 9 + 512 ≠ 0 ∧ ((9 +
       512) % 16 = 0 ∨ 8 < (9 + 512) % 16 ∨ (9 + 512) / 256 % 4096 ≤ 1)) ∧
    (wu.Quiet ∧ 8 ≤ 15 ∧ 15 ≤ 18 ∧ (wu.geled Half.west).st = 4 ∧ 15 < 16 ∧ (wu.geled Half.west).half = false ∧ wu.endUp
       Half.west.other = true) ∧
    (wu.Quiet ∧ 8 ≤ 16 ∧ 16 ≤ 18 ∧ (wu.geled Half.west).st = 4 ∧ (wu.geled Half.west).half = decide (16 < 16)) ∧
    (x11_7_1.Quiet ∧ 8 ≤ 8 ∧ 8 ≤ 18 ∧ (x11_7_1.geled Half.west).st = 4 ∧ (x11_7_1.geled Half.west).half = decide (8 < 16)) ∧
    (wu.Quiet ∧ 2 ≤ (wu.geled Half.west).st ∧ (wu.geled Half.west).first = false ∧ wu.endUp Half.west.other = true) ∧
    (x11_9_1.Quiet ∧ 2 ≤ (x11_9_1.geled Half.west).st ∧ (x11_9_1.geled Half.west).first = false ∧ x11_9_1.endUp Half.west.other =
       true) ∧
    (wu.Quiet ∧ 7 < 65536) ∧
    (wu.Quiet ∧ 9 < 65536) ∧
    (wll.Quiet ∧ wll.gel.downSince = some 5 ∧ 5 + 160000 ≤ wll.now + 3 ∧ wll.endUp Half.west = false ∧ wll.endUp Half.east = false
       ∧ wll.gel.lost = false ∧ (wll.agentRec 0).state = 0 ∧ 1 = (List.filter (fun m => m.fst == 1) (wll.gel.west.queue ++
       wll.gel.east.queue)).length) := ⟨⟨State.quiet_of _ (by decide +kernel), by first | decide +kernel | (intros; rfl) | (intro _ h; cases h; done) | (intro _ h; cases h; decide +kernel) | (intro k; cases k <;> decide +kernel), by decide +kernel⟩,
   ⟨State.quiet_of _ (by decide +kernel), by first | decide +kernel | (intros; rfl) | (intro _ h; cases h; done) | (intro _ h; cases h; decide +kernel) | (intro k; cases k <;> decide +kernel), by decide +kernel⟩,
   ⟨State.quiet_of _ (by decide +kernel), by decide +kernel⟩,
   ⟨State.quiet_of _ (by decide +kernel), by decide +kernel⟩,
   ⟨State.quiet_of _ (by decide +kernel), by decide +kernel⟩,
   ⟨State.quiet_of _ (by decide +kernel), by decide +kernel⟩,
   ⟨State.quiet_of _ (by decide +kernel), by decide +kernel⟩,
   ⟨State.quiet_of _ (by decide +kernel), by decide +kernel⟩,
   ⟨State.quiet_of _ (by decide +kernel), by decide +kernel⟩,
   ⟨State.quiet_of _ (by decide +kernel), by decide +kernel⟩,
   ⟨State.quiet_of _ (by decide +kernel), by decide +kernel⟩,
   ⟨State.quiet_of _ (by decide +kernel), by decide +kernel⟩,
   ⟨State.quiet_of _ (by decide +kernel), by decide +kernel⟩⟩


theorem witness_RegisterWindow :
    (pd.Quiet ∧ 4 < 2 ^ 16 ∧ pd.endUp Half.west = true ∧ 12 < 2 ^ 24 ∧ 12 % 4 = 0 ∧ Half.east ≠ Half.west ∧ pd.avl.purlinUp =
       false) ∧
    (wu.Quiet ∧ ((regSlot 12 = 0 ∧ regPos 12 = 12 ∧ ((wu.begun 3).modRegs Half.east fun r => ({ r with scratch0 := 5 } : Regs)) =
       (wu.begun 3).modRegs Half.east fun r => ({ r with scratch0 := 5 } : Regs)) ∨ (regSlot 12 = 0 ∧ regPos 12 = 16 ∧ ((wu.begun
       3).modRegs Half.east fun r => ({ r with scratch0 := 5 } : Regs)) = (wu.begun 3).modRegs Half.east fun r =>
       ({ r with scratch1 := 5 } : Regs)) ∨ (regSlot 12 = 0 ∧ regPos 12 = 36 ∧ ((wu.begun 3).modRegs Half.east fun r =>
       ({ r with scratch0 := 5 } : Regs)) = (wu.begun 3).modRegs Half.east fun r => ({ r with evtMask := 5 &&& 16383#32 } : Regs))
       ∨ (regSlot 12 ≠ 0 ∨ regPos 12 ∈ [0, 4, 8, 24, 28, 40]) ∧ ((wu.begun 3).modRegs Half.east fun r => ({ r with scratch0 := 5 }
       : Regs)) = (wu.begun 3).modRegs Half.east fun r => ({ r with badacc := min (r.badacc + 1) (2 ^ 32 - 1) } : Regs)) ∧ 4 < 2 ^
       16 ∧ wu.endUp Half.west = true ∧ (Half.east = Half.west ∨ wu.avl.purlinUp = true) ∧ 12 < 2 ^ 24 ∧ 12 % 4 = 0) ∧
    (wu.Quiet ∧ ((regSlot 16 = 0 ∧ regPos 16 = 12 ∧ ((wu.begun 3).modRegs Half.east fun r => ({ r with scratch1 := 5 } : Regs)) =
       (wu.begun 3).modRegs Half.east fun r => ({ r with scratch0 := 5 } : Regs)) ∨ (regSlot 16 = 0 ∧ regPos 16 = 16 ∧ ((wu.begun
       3).modRegs Half.east fun r => ({ r with scratch1 := 5 } : Regs)) = (wu.begun 3).modRegs Half.east fun r =>
       ({ r with scratch1 := 5 } : Regs)) ∨ (regSlot 16 = 0 ∧ regPos 16 = 36 ∧ ((wu.begun 3).modRegs Half.east fun r =>
       ({ r with scratch1 := 5 } : Regs)) = (wu.begun 3).modRegs Half.east fun r => ({ r with evtMask := 5 &&& 16383#32 } : Regs))
       ∨ (regSlot 16 ≠ 0 ∨ regPos 16 ∈ [0, 4, 8, 24, 28, 40]) ∧ ((wu.begun 3).modRegs Half.east fun r => ({ r with scratch1 := 5 }
       : Regs)) = (wu.begun 3).modRegs Half.east fun r => ({ r with badacc := min (r.badacc + 1) (2 ^ 32 - 1) } : Regs)) ∧ 4 < 2 ^
       16 ∧ wu.endUp Half.west = true ∧ (Half.east = Half.west ∨ wu.avl.purlinUp = true) ∧ 16 < 2 ^ 24 ∧ 16 % 4 = 0) ∧
    (wu.Quiet ∧ ((regSlot 36 = 0 ∧ regPos 36 = 12 ∧ ((wu.begun 3).modRegs Half.east fun r => ({ r with evtMask := 5 &&& 16383#32 }
       : Regs)) = (wu.begun 3).modRegs Half.east fun r => ({ r with scratch0 := 5 } : Regs)) ∨ (regSlot 36 = 0 ∧ regPos 36 = 16 ∧
       ((wu.begun 3).modRegs Half.east fun r => ({ r with evtMask := 5 &&& 16383#32 } : Regs)) = (wu.begun 3).modRegs Half.east
       fun r => ({ r with scratch1 := 5 } : Regs)) ∨ (regSlot 36 = 0 ∧ regPos 36 = 36 ∧ ((wu.begun 3).modRegs Half.east fun r =>
       ({ r with evtMask := 5 &&& 16383#32 } : Regs)) = (wu.begun 3).modRegs Half.east fun r =>
       ({ r with evtMask := 5 &&& 16383#32 } : Regs)) ∨ (regSlot 36 ≠ 0 ∨ regPos 36 ∈ [0, 4, 8, 24, 28, 40]) ∧ ((wu.begun
       3).modRegs Half.east fun r => ({ r with evtMask := 5 &&& 16383#32 } : Regs)) = (wu.begun 3).modRegs Half.east fun r =>
       ({ r with badacc := min (r.badacc + 1) (2 ^ 32 - 1) } : Regs)) ∧ 4 < 2 ^ 16 ∧ wu.endUp Half.west = true ∧ (Half.east =
       Half.west ∨ wu.avl.purlinUp = true) ∧ 36 < 2 ^ 24 ∧ 36 % 4 = 0) ∧
    (wu.Quiet ∧ ((regSlot 2097188 = 0 ∧ regPos 2097188 = 12 ∧ ((wu.begun 3).modRegs Half.east fun r =>
       ({ r with badacc := min (r.badacc + 1) (2 ^ 32 - 1) } : Regs)) = (wu.begun 3).modRegs Half.east fun r =>
       ({ r with scratch0 := 5 } : Regs)) ∨ (regSlot 2097188 = 0 ∧ regPos 2097188 = 16 ∧ ((wu.begun 3).modRegs Half.east fun r =>
       ({ r with badacc := min (r.badacc + 1) (2 ^ 32 - 1) } : Regs)) = (wu.begun 3).modRegs Half.east fun r =>
       ({ r with scratch1 := 5 } : Regs)) ∨ (regSlot 2097188 = 0 ∧ regPos 2097188 = 36 ∧ ((wu.begun 3).modRegs Half.east fun r =>
       ({ r with badacc := min (r.badacc + 1) (2 ^ 32 - 1) } : Regs)) = (wu.begun 3).modRegs Half.east fun r =>
       ({ r with evtMask := 5 &&& 16383#32 } : Regs)) ∨ (regSlot 2097188 ≠ 0 ∨ regPos 2097188 ∈ [0, 4, 8, 24, 28, 40]) ∧
       ((wu.begun 3).modRegs Half.east fun r => ({ r with badacc := min (r.badacc + 1) (2 ^ 32 - 1) } : Regs)) = (wu.begun
       3).modRegs Half.east fun r => ({ r with badacc := min (r.badacc + 1) (2 ^ 32 - 1) } : Regs)) ∧ 4 < 2 ^ 16 ∧ wu.endUp
       Half.west = true ∧ (Half.east = Half.west ∨ wu.avl.purlinUp = true) ∧ 2097188 < 2 ^ 24 ∧ 2097188 % 4 = 0) ∧
    (wu.Quiet ∧ ((regSlot 0 = 0 ∧ regPos 0 = 12 ∧ bd = (wu.begun 3).modRegs Half.east fun r => ({ r with scratch0 := 5 } : Regs))
       ∨ (regSlot 0 = 0 ∧ regPos 0 = 16 ∧ bd = (wu.begun 3).modRegs Half.east fun r => ({ r with scratch1 := 5 } : Regs)) ∨
       (regSlot 0 = 0 ∧ regPos 0 = 36 ∧ bd = (wu.begun 3).modRegs Half.east fun r => ({ r with evtMask := 5 &&& 16383#32 } :
       Regs)) ∨ (regSlot 0 ≠ 0 ∨ regPos 0 ∈ [0, 4, 8, 24, 28, 40]) ∧ bd = (wu.begun 3).modRegs Half.east fun r =>
       ({ r with badacc := min (r.badacc + 1) (2 ^ 32 - 1) } : Regs)) ∧ 4 < 2 ^ 16 ∧ wu.endUp Half.west = true ∧ (Half.east =
       Half.west ∨ wu.avl.purlinUp = true) ∧ 0 < 2 ^ 24 ∧ 0 % 4 = 0) ∧
    (wu.Quiet ∧ ((regSlot 4 = 0 ∧ regPos 4 = 12 ∧ bd = (wu.begun 3).modRegs Half.east fun r => ({ r with scratch0 := 5 } : Regs))
       ∨ (regSlot 4 = 0 ∧ regPos 4 = 16 ∧ bd = (wu.begun 3).modRegs Half.east fun r => ({ r with scratch1 := 5 } : Regs)) ∨
       (regSlot 4 = 0 ∧ regPos 4 = 36 ∧ bd = (wu.begun 3).modRegs Half.east fun r => ({ r with evtMask := 5 &&& 16383#32 } :
       Regs)) ∨ (regSlot 4 ≠ 0 ∨ regPos 4 ∈ [0, 4, 8, 24, 28, 40]) ∧ bd = (wu.begun 3).modRegs Half.east fun r =>
       ({ r with badacc := min (r.badacc + 1) (2 ^ 32 - 1) } : Regs)) ∧ 4 < 2 ^ 16 ∧ wu.endUp Half.west = true ∧ (Half.east =
       Half.west ∨ wu.avl.purlinUp = true) ∧ 4 < 2 ^ 24 ∧ 4 % 4 = 0) ∧
    (wu.Quiet ∧ ((regSlot 24 = 0 ∧ regPos 24 = 12 ∧ bd = (wu.begun 3).modRegs Half.east fun r => ({ r with scratch0 := 5 } :
       Regs)) ∨ (regSlot 24 = 0 ∧ regPos 24 = 16 ∧ bd = (wu.begun 3).modRegs Half.east fun r => ({ r with scratch1 := 5 } : Regs))
       ∨ (regSlot 24 = 0 ∧ regPos 24 = 36 ∧ bd = (wu.begun 3).modRegs Half.east fun r => ({ r with evtMask := 5 &&& 16383#32 } :
       Regs)) ∨ (regSlot 24 ≠ 0 ∨ regPos 24 ∈ [0, 4, 8, 24, 28, 40]) ∧ bd = (wu.begun 3).modRegs Half.east fun r =>
       ({ r with badacc := min (r.badacc + 1) (2 ^ 32 - 1) } : Regs)) ∧ 4 < 2 ^ 16 ∧ wu.endUp Half.west = true ∧ (Half.east =
       Half.west ∨ wu.avl.purlinUp = true) ∧ 24 < 2 ^ 24 ∧ 24 % 4 = 0) ∧
    (wu.Quiet ∧ ((regSlot 28 = 0 ∧ regPos 28 = 12 ∧ bd = (wu.begun 3).modRegs Half.east fun r => ({ r with scratch0 := 5 } :
       Regs)) ∨ (regSlot 28 = 0 ∧ regPos 28 = 16 ∧ bd = (wu.begun 3).modRegs Half.east fun r => ({ r with scratch1 := 5 } : Regs))
       ∨ (regSlot 28 = 0 ∧ regPos 28 = 36 ∧ bd = (wu.begun 3).modRegs Half.east fun r => ({ r with evtMask := 5 &&& 16383#32 } :
       Regs)) ∨ (regSlot 28 ≠ 0 ∨ regPos 28 ∈ [0, 4, 8, 24, 28, 40]) ∧ bd = (wu.begun 3).modRegs Half.east fun r =>
       ({ r with badacc := min (r.badacc + 1) (2 ^ 32 - 1) } : Regs)) ∧ 4 < 2 ^ 16 ∧ wu.endUp Half.west = true ∧ (Half.east =
       Half.west ∨ wu.avl.purlinUp = true) ∧ 28 < 2 ^ 24 ∧ 28 % 4 = 0) ∧
    (wu.Quiet ∧ ((regSlot 40 = 0 ∧ regPos 40 = 12 ∧ bd = (wu.begun 3).modRegs Half.east fun r => ({ r with scratch0 := 5 } :
       Regs)) ∨ (regSlot 40 = 0 ∧ regPos 40 = 16 ∧ bd = (wu.begun 3).modRegs Half.east fun r => ({ r with scratch1 := 5 } : Regs))
       ∨ (regSlot 40 = 0 ∧ regPos 40 = 36 ∧ bd = (wu.begun 3).modRegs Half.east fun r => ({ r with evtMask := 5 &&& 16383#32 } :
       Regs)) ∨ (regSlot 40 ≠ 0 ∨ regPos 40 ∈ [0, 4, 8, 24, 28, 40]) ∧ bd = (wu.begun 3).modRegs Half.east fun r =>
       ({ r with badacc := min (r.badacc + 1) (2 ^ 32 - 1) } : Regs)) ∧ 4 < 2 ^ 16 ∧ wu.endUp Half.west = true ∧ (Half.east =
       Half.west ∨ wu.avl.purlinUp = true) ∧ 40 < 2 ^ 24 ∧ 40 % 4 = 0) ∧
    (wu.Quiet ∧ ((regSlot 1048588 = 0 ∧ regPos 1048588 = 12 ∧ bd = (wu.begun 3).modRegs Half.east fun r =>
       ({ r with scratch0 := 5 } : Regs)) ∨ (regSlot 1048588 = 0 ∧ regPos 1048588 = 16 ∧ bd = (wu.begun 3).modRegs Half.east fun r
       => ({ r with scratch1 := 5 } : Regs)) ∨ (regSlot 1048588 = 0 ∧ regPos 1048588 = 36 ∧ bd = (wu.begun 3).modRegs Half.east
       fun r => ({ r with evtMask := 5 &&& 16383#32 } : Regs)) ∨ (regSlot 1048588 ≠ 0 ∨ regPos 1048588 ∈ [0, 4, 8, 24, 28, 40]) ∧
       bd = (wu.begun 3).modRegs Half.east fun r => ({ r with badacc := min (r.badacc + 1) (2 ^ 32 - 1) } : Regs)) ∧ 4 < 2 ^ 16 ∧
       wu.endUp Half.west = true ∧ (Half.east = Half.west ∨ wu.avl.purlinUp = true) ∧ 1048588 < 2 ^ 24 ∧ 1048588 % 4 = 0) ∧
    (wu.Quiet ∧ ((regSlot 16711680 = 0 ∧ regPos 16711680 = 12 ∧ bd = (wu.begun 3).modRegs Half.east fun r =>
       ({ r with scratch0 := 5 } : Regs)) ∨ (regSlot 16711680 = 0 ∧ regPos 16711680 = 16 ∧ bd = (wu.begun 3).modRegs Half.east fun
       r => ({ r with scratch1 := 5 } : Regs)) ∨ (regSlot 16711680 = 0 ∧ regPos 16711680 = 36 ∧ bd = (wu.begun 3).modRegs
       Half.east fun r => ({ r with evtMask := 5 &&& 16383#32 } : Regs)) ∨ (regSlot 16711680 ≠ 0 ∨ regPos 16711680 ∈
       [0, 4, 8, 24, 28, 40]) ∧ bd = (wu.begun 3).modRegs Half.east fun r => ({ r with badacc := min (r.badacc + 1) (2 ^ 32 - 1) }
       : Regs)) ∧ 4 < 2 ^ 16 ∧ wu.endUp Half.west = true ∧ (Half.east = Half.west ∨ wu.avl.purlinUp = true) ∧ 16711680 < 2 ^ 24 ∧
       16711680 % 4 = 0) ∧
    (x11_26_1.Quiet ∧ 4 < 2 ^ 16 ∧ x11_26_1.endUp Half.west = true ∧ (Half.east = Half.west ∨ x11_26_1.avl.purlinUp = true)) ∧
    (x11_29_1.Quiet ∧ 4 < 2 ^ 16 ∧ x11_29_1.endUp Half.west = true ∧ (Half.east = Half.west ∨ x11_29_1.avl.purlinUp = true) ∧ 1 =
       State.nextSnap (max x11_29_1.west.regs.snapSeq x11_29_1.east.regs.snapSeq) ∧ x11_29_1.avl.purlinUp = true) ∧
    (pd.Quiet ∧ 4 < 2 ^ 16 ∧ pd.endUp Half.west = true ∧ (Half.west = Half.west ∨ pd.avl.purlinUp = true) ∧ pd.avl.purlinUp =
       false) := ⟨⟨State.quiet_of _ (by decide +kernel), by decide +kernel⟩,
   ⟨State.quiet_of _ (by decide +kernel), .inl ⟨rfl, rfl, rfl⟩, by decide +kernel⟩,
   ⟨State.quiet_of _ (by decide +kernel), .inr (.inl ⟨rfl, rfl, rfl⟩), by decide +kernel⟩,
   ⟨State.quiet_of _ (by decide +kernel), .inr (.inr (.inl ⟨rfl, rfl, rfl⟩)), by decide +kernel⟩,
   ⟨State.quiet_of _ (by decide +kernel), .inr (.inr (.inr ⟨by decide, rfl⟩)), by decide +kernel⟩,
   ⟨State.quiet_of _ (by decide +kernel), .inr (.inr (.inr ⟨by decide, rfl⟩)), by decide +kernel⟩,
   ⟨State.quiet_of _ (by decide +kernel), .inr (.inr (.inr ⟨by decide, rfl⟩)), by decide +kernel⟩,
   ⟨State.quiet_of _ (by decide +kernel), .inr (.inr (.inr ⟨by decide, rfl⟩)), by decide +kernel⟩,
   ⟨State.quiet_of _ (by decide +kernel), .inr (.inr (.inr ⟨by decide, rfl⟩)), by decide +kernel⟩,
   ⟨State.quiet_of _ (by decide +kernel), .inr (.inr (.inr ⟨by decide, rfl⟩)), by decide +kernel⟩,
   ⟨State.quiet_of _ (by decide +kernel), .inr (.inr (.inr ⟨by decide, rfl⟩)), by decide +kernel⟩,
   ⟨State.quiet_of _ (by decide +kernel), .inr (.inr (.inr ⟨by decide, rfl⟩)), by decide +kernel⟩,
   ⟨State.quiet_of _ (by decide +kernel), by decide +kernel⟩,
   ⟨State.quiet_of _ (by decide +kernel), by decide +kernel⟩,
   ⟨State.quiet_of _ (by decide +kernel), by decide +kernel⟩⟩

end B11
namespace B12

def up0 : LinkSt := { up := true, width := 8 }
def cfg (l : List ((Nat × Nat) × Bytes)) (s : State) : State := { s with west.slate := ((0x2070, 1), [0]) :: l, east.slate := ((0x2070, 1), [0]) :: l }
def wp : State := cfg [((0x20D1, 4), [1]), ((0x20D1, 5), [4]), ((0x2100, 10), le 8 (2 + 2^8 * 3))] w0
def wc : State := { wp with fab.ports := [(3, { link := up0, credits := [1,2,3,4], owed := 20, farNode := 9 }), (4, { link := up0, credits := [100,200,300,400] })] }
def mreq : Inner := .mem .read { q0 with via := .batch 4, len := 4 }
def ua (s : State) (vc units : Nat) : State := (s.begun 3).portArrival 4 vc (4 + units)
def x12_2_1 := { wc with fab.acked := [(77, 5)] }
def wk : State := { wc with fab.ports := [(3, { link := up0, credits := [1,2,3,4], owed := 20, farNode := 9 }), (4, { link := up0, credits := [100,200,300,400], kept := [(5, 0, []), (6, 0, [])] })] }
def ob : OpenBatch := { vc := 0, inner := [], units := 20, since := 4 }
def wob (up : Bool) : State := { wc with fab.ports := [(4, { link := { up0 with up := up }, credits := [100,200,300,400], batches := [ob], farNode := 8 })], fab.bseq := 2^32 - 1 }
def x12_10_1 := { wc with fab.ports := [(3, { link := { up0 with up := false } })] }
def x12_12_1 := { wc with fab.ports := [(3, { link := { width := 8, wasDown := true, training := true }, farNode := 9 })] }
def x12_14_1 := { wc with opt.modules := [(linkEngine (.port 3) / 2, { st := 2, present := true, enable := true })] }
def x12_15_1 := { wc with opt.modules := [(linkEngine (.port 4) / 2, { st := 4, present := true, enable := true })] }
def tr : Transit := { dst := 9 }

theorem witness_FabricPorts :
    (wc.Quiet ∧ 3 < 32 ∧ 5 < 65536 ∧ 6 < 65536 ∧ 7 < 65536 ∧ 2 < 65536 ∧ (wc.port 3).queue = [] ∧ (wc.port 3).waitSince = none ∧
       (wc.port 3).batches = [] ∧ (wc.port 3).draining = false) ∧
    (wc.Quiet ∧ ua wc 0 8 = (wc.begun 3).portArrival 4 0 (4 + 8) ∧ 4 < 32 ∧ (Instr.batch 3 4 77 5 0 8 [mreq, mreq]).wf = true ∧
       wc.roleOf 4 = 4 ∧ ¬(77, 5) ∈ (ua wc 0 8).fab.acked) ∧
    (x12_2_1.Quiet ∧ ua x12_2_1 0 8 = (x12_2_1.begun 3).portArrival 4 0 (4 + 8) ∧ 4 < 32 ∧ (Instr.batch 3 4 77 5 0 8
       [mreq, mreq]).wf = true ∧ x12_2_1.roleOf 4 = 4 ∧ (77, 5) ∈ (ua x12_2_1 0 8).fab.acked) ∧
    (wk.Quiet ∧ 4 < 32 ∧ 5 < 2 ^ 32) ∧
    ((wob true).Quiet ∧ 4 < 32 ∧ 0 < 4 ∧ ((wob true).port 4).batches = [ob] ∧ ob.vc = 0 ∧ ob.closed = false ∧ ob.bseq = none ∧
       ob.since + (wob true).gcfg 0x20D0 4 ≤ (wob true).now + 3 ∧ (wob true).portUp 4 = true ∧ ob.units + 4 ≤ State.creditOf ((wob
       true).port 4).credits 0 ∧ ((wob true).port 4).credits.length = 4 ∧ State.flashRoom ((wob true).port 4).link = true) ∧
    ((wob false).Quiet ∧ 4 < 32 ∧ 0 < 4 ∧ ((wob false).port 4).batches = [ob] ∧ ob.vc = 0 ∧ ob.closed = false ∧ ob.bseq = none ∧
       ob.since + (wob false).gcfg 0x20D0 4 ≤ (wob false).now + 3 ∧ (wob false).portUp 4 = false) ∧
    (wc.Quiet ∧ 3 < 32 ∧ (Instr.portState 3 { via := Via.port 3, node := 8 : Sender } 5 true 7).wf = true ∧ forUs (Via.port 3) =
       true ∧ wc.isRoofPeer 8 = false) ∧
    (wc.Quiet ∧ (∀ (m : Nat × Nat), m ∈ wc.roofPeers → (wc.port m.snd).queue = []) ∧ 3 < 32 ∧ (Instr.portState 3
       { via := Via.port 3, node := 9 : Sender } 12 true 7).wf = true ∧ forUs (Via.port 3) = true ∧ wc.isRoofPeer 9 = true ∧
       wc.isSelf 12 = false) ∧
    (wc.Quiet ∧ (∀ (m : Nat × Nat), m ∈ wc.roofPeers → (wc.port m.snd).queue = []) ∧ 3 < 32 ∧ (Instr.portState 3
       { via := Via.port 3, node := 9 : Sender } 12 false 7).wf = true ∧ forUs (Via.port 3) = true ∧ wc.isRoofPeer 9 = true ∧
       wc.isSelf 12 = false) ∧
    (wc.Quiet ∧ (∀ (m : Nat × Nat), m ∈ wc.roofPeers → (wc.port m.snd).queue = []) ∧ 3 < 32 ∧ (Instr.portState 3
       { via := Via.port 3, node := 9 : Sender } 5 false 7).wf = true ∧ forUs (Via.port 3) = true ∧ wc.isSelf 5 = true ∧
       List.find? (fun m => m.fst == 9) wc.roofPeers = some (9, 3) ∧ (wc.port 3).link.unacked = []) ∧
    (x12_10_1.Quiet ∧ (∀ (m : Nat × Nat), m ∈ x12_10_1.roofPeers → (x12_10_1.port m.snd).queue = []) ∧ 3 < 32 ∧ (Instr.portState 3
       { via := Via.port 3, node := 9 : Sender } 5 true 7).wf = true ∧ forUs (Via.port 3) = true ∧ x12_10_1.isSelf 5 = true ∧
       List.find? (fun m => m.fst == 9) x12_10_1.roofPeers = some (9, 3) ∧ (x12_10_1.port 3).link.unacked = []) ∧
    (wc.Quiet ∧ 3 < 32 ∧ (wc.port 3).link.up = true ∧ wc.roleOf 3 = 1 ∧ (wc.port 3).link.planned = false) ∧
    (x12_12_1.Quiet ∧ 3 < 32 ∧ (x12_12_1.port 3).link.up = false ∧ (x12_12_1.port 3).mismatch = false ∧ 7 ≤ (x12_12_1.port
       3).link.width ∧ x12_12_1.roleOf 3 ≠ 0) ∧
    (x12_14_1.Quiet ∧ 3 < 32 ∧ (x12_14_1.port 3).link.up = true ∧ x12_14_1.roleOf 3 ≠ 0 ∧ 2 ≤ (x12_14_1.laserModule (linkEngine
       (Link.port 3) / 2)).st ∧ (x12_14_1.laserModule (linkEngine (Link.port 3) / 2)).st ≤ 4 ∧ (x12_14_1.port 3).health.expelled =
       false) ∧
    (x12_15_1.Quiet ∧ 4 < 32 ∧ (x12_15_1.port 4).link.up = true ∧ x12_15_1.roleOf 4 ≠ 0 ∧ 2 ≤ (x12_15_1.laserModule (linkEngine
       (Link.port 4) / 2)).st ∧ (x12_15_1.laserModule (linkEngine (Link.port 4) / 2)).st ≤ 4 ∧ (x12_15_1.port 4).health.expelled =
       false) ∧
    (wc.Quiet ∧ 3 < 32 ∧ ((onwardCommand 3 3 tr (Inner.caprel 1 2 3 4 0)).getD (Instr.clockLock 3)).wf = true ∧ wc.isSelf tr.dst =
       false ∧ onwardCommand 3 3 tr (Inner.caprel 1 2 3 4 0) = some ((onwardCommand 3 3 tr (Inner.caprel 1 2 3 4 0)).getD
       (Instr.clockLock 3))) ∧
    (wc.Quiet ∧ 3 < 32 ∧ ((onwardCommand 3 3 tr (Inner.spaceRequest 1 2 65536)).getD (Instr.clockLock 3)).wf = true ∧ wc.isSelf
       tr.dst = false ∧ onwardCommand 3 3 tr (Inner.spaceRequest 1 2 65536) = some ((onwardCommand 3 3 tr (Inner.spaceRequest 1 2
       65536)).getD (Instr.clockLock 3))) ∧
    (wc.Quiet ∧ 3 < 32 ∧ ((onwardCommand 3 3 tr (Inner.frameAnswer 1 2 3 0 true)).getD (Instr.clockLock 3)).wf = true ∧ wc.isSelf
       tr.dst = false ∧ onwardCommand 3 3 tr (Inner.frameAnswer 1 2 3 0 true) = some ((onwardCommand 3 3 tr (Inner.frameAnswer 1 2
       3 0 true)).getD (Instr.clockLock 3))) ∧
    (wc.Quiet ∧ 3 < 32 ∧ ((onwardCommand 3 3 tr (Inner.fenceDone 1 0 1 [])).getD (Instr.clockLock 3)).wf = true ∧ wc.isSelf tr.dst
       = false ∧ onwardCommand 3 3 tr (Inner.fenceDone 1 0 1 []) = some ((onwardCommand 3 3 tr (Inner.fenceDone 1 0 1 [])).getD
       (Instr.clockLock 3))) ∧
    (wc.Quiet ∧ 3 < 32 ∧ ((onwardCommand 3 3 tr (Inner.portState 1 2 true 0)).getD (Instr.clockLock 3)).wf = true ∧ wc.isSelf
       tr.dst = false ∧ onwardCommand 3 3 tr (Inner.portState 1 2 true 0) = some ((onwardCommand 3 3 tr (Inner.portState 1 2 true
       0)).getD (Instr.clockLock 3))) ∧
    (wc.Quiet ∧ 3 < 32 ∧ ((onwardCommand 3 3 tr (Inner.course 5)).getD (Instr.clockLock 3)).wf = true ∧ wc.isSelf tr.dst = false ∧
       onwardCommand 3 3 tr (Inner.course 5) = some ((onwardCommand 3 3 tr (Inner.course 5)).getD (Instr.clockLock 3))) ∧
    (wc.Quiet ∧ 3 < 32 ∧ ((onwardCommand 3 3 tr (Inner.invalidationAck 1 0)).getD (Instr.clockLock 3)).wf = true ∧ wc.isSelf
       tr.dst = false ∧ onwardCommand 3 3 tr (Inner.invalidationAck 1 0) = some ((onwardCommand 3 3 tr (Inner.invalidationAck 1
       0)).getD (Instr.clockLock 3))) ∧
    (wc.Quiet ∧ 3 < 32 ∧ ((onwardCommand 3 3 tr (Inner.rsp { src := 9, sid := 3, tag := 7 : Rsp })).getD (Instr.clockLock 3)).wf =
       true ∧ wc.isSelf tr.dst = false ∧ onwardCommand 3 3 tr (Inner.rsp { src := 9, sid := 3, tag := 7 : Rsp }) = some
       ((onwardCommand 3 3 tr (Inner.rsp { src := 9, sid := 3, tag := 7 : Rsp })).getD (Instr.clockLock 3))) ∧
    (wc.Quiet ∧ 3 < 32 ∧ ((onwardCommand 3 3 tr (Inner.integrity 2
       { via := Via.port 0, src := 9, sid := 240, ctx := 1, job := 2, node := 9, serial := 3 : IntegrityMsg })).getD
       (Instr.clockLock 3)).wf = true ∧ wc.isSelf tr.dst = false ∧ onwardCommand 3 3 tr (Inner.integrity 2
       { via := Via.port 0, src := 9, sid := 240, ctx := 1, job := 2, node := 9, serial := 3 : IntegrityMsg }) = some
       ((onwardCommand 3 3 tr (Inner.integrity 2
       { via := Via.port 0, src := 9, sid := 240, ctx := 1, job := 2, node := 9, serial := 3 : IntegrityMsg })).getD
       (Instr.clockLock 3))) ∧
    (wc.Quiet ∧ 3 < 32 ∧ ((onwardCommand 3 3 tr (Inner.hint 9 (zeros 24))).getD (Instr.clockLock 3)).wf = true ∧ wc.isSelf tr.dst
       = false ∧ onwardCommand 3 3 tr (Inner.hint 9 (zeros 24)) = some ((onwardCommand 3 3 tr (Inner.hint 9 (zeros 24))).getD
       (Instr.clockLock 3))) ∧
    (wc.Quiet ∧ 3 < 32 ∧ ((onwardCommand 3 3 tr (Inner.invalidation 9 1 1 2 0 1)).getD (Instr.clockLock 3)).wf = true ∧ wc.isSelf
       tr.dst = false ∧ onwardCommand 3 3 tr (Inner.invalidation 9 1 1 2 0 1) = some ((onwardCommand 3 3 tr (Inner.invalidation 9
       1 1 2 0 1)).getD (Instr.clockLock 3))) := ⟨⟨State.quiet_of _ (by decide +kernel), by decide +kernel⟩,
   ⟨State.quiet_of _ (by decide +kernel), rfl, by decide +kernel⟩,
   ⟨State.quiet_of _ (by decide +kernel), rfl, by decide +kernel⟩,
   ⟨State.quiet_of _ (by decide +kernel), by decide +kernel⟩,
   ⟨State.quiet_of _ (by decide +kernel), by decide +kernel⟩,
   ⟨State.quiet_of _ (by decide +kernel), by decide +kernel⟩,
   ⟨State.quiet_of _ (by decide +kernel), by decide +kernel⟩,
   ⟨State.quiet_of _ (by decide +kernel), by first | decide +kernel | (intros; rfl) | (intro _ h; cases h; done) | (intro _ h; cases h; decide +kernel) | (intro k; cases k <;> decide +kernel), by decide +kernel⟩,
   ⟨State.quiet_of _ (by decide +kernel), by first | decide +kernel | (intros; rfl) | (intro _ h; cases h; done) | (intro _ h; cases h; decide +kernel) | (intro k; cases k <;> decide +kernel), by decide +kernel⟩,
   ⟨State.quiet_of _ (by decide +kernel), by first | decide +kernel | (intros; rfl) | (intro _ h; cases h; done) | (intro _ h; cases h; decide +kernel) | (intro k; cases k <;> decide +kernel), by decide +kernel⟩,
   ⟨State.quiet_of _ (by decide +kernel), by first | decide +kernel | (intros; rfl) | (intro _ h; cases h; done) | (intro _ h; cases h; decide +kernel) | (intro k; cases k <;> decide +kernel), by decide +kernel⟩,
   ⟨State.quiet_of _ (by decide +kernel), by decide +kernel⟩,
   ⟨State.quiet_of _ (by decide +kernel), by decide +kernel⟩,
   ⟨State.quiet_of _ (by decide +kernel), by decide +kernel⟩,
   ⟨State.quiet_of _ (by decide +kernel), by decide +kernel⟩,
   ⟨State.quiet_of _ (by decide +kernel), by decide +kernel⟩,
   ⟨State.quiet_of _ (by decide +kernel), by decide +kernel⟩,
   ⟨State.quiet_of _ (by decide +kernel), by decide +kernel⟩,
   ⟨State.quiet_of _ (by decide +kernel), by decide +kernel⟩,
   ⟨State.quiet_of _ (by decide +kernel), by decide +kernel⟩,
   ⟨State.quiet_of _ (by decide +kernel), by decide +kernel⟩,
   ⟨State.quiet_of _ (by decide +kernel), by decide +kernel⟩,
   ⟨State.quiet_of _ (by decide +kernel), by decide +kernel⟩,
   ⟨State.quiet_of _ (by decide +kernel), by decide +kernel⟩,
   ⟨State.quiet_of _ (by decide +kernel), by decide +kernel⟩,
   ⟨State.quiet_of _ (by decide +kernel), by decide +kernel⟩⟩

end B12
namespace B13

def up0 : LinkSt := { up := true, width := 8 }
def cfg (l : List ((Nat × Nat) × Bytes)) (s : State) : State := { s with west.slate := ((0x2070, 1), [0]) :: l, east.slate := ((0x2070, 1), [0]) :: l }
def wp : State := cfg [((0x20D1, 4), [1]), ((0x20D1, 5), [4]), ((0x2100, 10), le 8 (2 + 2^8 * 3)), ((0x20E0, 1), [1])] w0
def P3 : Link := .port 3
def ln : List Nat := linkLanes P3
def lanesAct (k : Nat) : Tbl Nat Lane := (ln.mapIdx (fun i n => (n, ({ st := if i < k then 3 else 2, logical := if i < k then i else 0x1F } : Lane))))
def wl (k : Nat) (l : LinkSt) : State := { wp with fab.ports := [(3, { link := l, credits := [1,2,3,4], farNode := 9 })], opt.lanes := lanesAct k, opt.modules := [(linkEngine P3 / 2, { st := 2, present := true, enable := true })] }
def w8 : State := wl 8 up0
def gotOf (s : State) (l : Link) (cws : List Codeword) := (s.activeLanes l).map (fun n => (cws.find? (fun c => c.lane == n % 18)).bind readCodeword)
def cw (i : Nat) : Codeword := { lane := ln.getD i 0 % 18, bytes := zeros 272 }
def cws : List Codeword := (List.range 8).map cw
def fl : Flash := { seq := 4, carries := [], units := 3, since := 5 }
def x13_2_1 := { up0 with unacked := [fl] }
def x13_3_1 := { w0 with gel.east := { st := 4, link := { up0 with unacked := [fl, fl] } } }
def sp : Nat := ln.getD 8 0
def x13_5_1 := { up0 with reqs := [⟨1, 3, sp % 18, 5⟩] }
def x13_8_1 := { up0 with width := 7 }
def x13_9_1 := { up0 with width := 7, reqs := [⟨3, 8, 0, 5⟩] }
def wb4 (st : Nat) : State := { w8 with opt.lanes := tput sp { st := st } w8.opt.lanes }
def x13_13_1 := { up0 with width := 7, reqs := [⟨3, 8, 0, 5⟩, ⟨6, 8, 0, 5⟩] }
def x13_17_1 := { up0 with width := 7, reqs := [⟨3, 8, 0, 5⟩, ⟨6, 8, 0, 5⟩] }
def wd : State := { wl 0 {} with opt.lanes := [] }
def wtr (s4 : Nat) : State := { wl 0 { training := true, since := 4 } with opt.lanes := ln.map (fun n => (n, ({ st := 1, step := if n = sp then s4 else 5 } : Lane))) }
def tr : TrainRec := { node := 9, port := 3, role := 1, stepping := 0, good := 0x3FF }
def wt2 (s4 : Nat) : State := { wl 0 { training := true, since := 4 } with opt.lanes := ln.map (fun n => (n, ({ st := 1, step := if n = sp then s4 else 0 } : Lane))) }
def a0 : Nat := ln.headD 0

theorem witness_LaneMessages :
    (w8.Quiet ∧ gotOf w8 P3 [] = List.map (fun n => (List.find? (fun c => c.lane == n % 18) []).bind readCodeword) (w8.activeLanes
       P3) ∧ P3.wf = true ∧ (Instr.flashReceived 3 P3 []).wf = true ∧ (w8.linkSt P3).up = true) ∧
    (w8.Quiet ∧ gotOf w8 P3 cws = List.map (fun n => (List.find? (fun c => c.lane == n % 18) cws).bind readCodeword)
       (w8.activeLanes P3) ∧ P3.wf = true ∧ (Instr.flashReceived 3 P3 cws).wf = true ∧ (w8.linkSt P3).up = true) ∧
    ((wl 8 x13_2_1).Quiet ∧ P3.wf = true ∧ ((wl 8 x13_2_1).linkSt P3).up = true ∧ (∃ f, f ∈ ((wl 8 x13_2_1).linkSt P3).unacked ∧
       f.since + (wl 8 x13_2_1).gcfg 0x20E0 5 ≤ (wl 8 x13_2_1).now + 3)) ∧
    (x13_3_1.Quiet ∧ (Link.geled Half.east).wf = true ∧ (x13_3_1.linkSt (Link.geled Half.east)).up = true ∧ (∃ f, f ∈
       (x13_3_1.linkSt (Link.geled Half.east)).unacked ∧ f.since + x13_3_1.gcfg 0x20E0 5 ≤ x13_3_1.now + 3)) ∧
    (w8.Quiet ∧ P3.wf = true ∧ 3 < 16 ∧ sp % 18 < 18 ∧ 7 < 2 ^ 16 ∧ sp = 18 * linkEngine P3 + sp % 18 ∧ sp ∈ linkLanes P3 ∧
       (w8.lane sp).st = 2 ∧ (w8.linkSt P3).reqs = []) ∧
    ((wl 8 x13_5_1).Quiet ∧ P3.wf = true ∧ 3 < 16 ∧ sp % 18 < 18 ∧ 7 < 2 ^ 16 ∧ sp = 18 * linkEngine P3 + sp % 18 ∧ sp ∈ linkLanes
       P3 ∧ ((wl 8 x13_5_1).lane sp).st = 2 ∧ ((wl 8 x13_5_1).linkSt P3).reqs =
       [{ typ := 1, log := 3, phy := sp % 18, sw := 5 : LaneReq }] ∧ { typ := 1, log := 3, phy := sp % 18, sw := 5 : LaneReq }.typ
       = 1 ∧ { typ := 1, log := 3, phy := sp % 18, sw := 5 : LaneReq }.log = 3 ∧
       { typ := 1, log := 3, phy := sp % 18, sw := 5 : LaneReq }.phy = sp % 18) ∧
    (w8.Quiet ∧ (∀ (n : Nat), n ∈ w8.activeLanes P3 → (w8.lane n).health.expelled = false) ∧ P3.wf = true ∧ P3 = Link.port 3 ∧ (7
       = 7 ∨ 7 = 8) ∧ 5 < 2 ^ 16 ∧ (w8.port 3).link.up = true ∧ 7 ≤ (w8.usableLanes P3).length) ∧
    (w8.Quiet ∧ (∀ (n : Nat), n ∈ w8.activeLanes P3 → (w8.lane n).health.expelled = false) ∧ P3.wf = true ∧ P3 = Link.port 3 ∧ (8
       = 7 ∨ 8 = 8) ∧ 5 < 2 ^ 16 ∧ (w8.port 3).link.up = true ∧ 8 ≤ (w8.usableLanes P3).length) ∧
    ((wl 7 x13_8_1).Quiet ∧ (∀ (n : Nat), n ∈ (wl 7 x13_8_1).activeLanes P3 → ((wl 7 x13_8_1).lane n).health.expelled = false) ∧
       P3.wf = true ∧ P3 = Link.port 3 ∧ (8 = 7 ∨ 8 = 8) ∧ 5 < 2 ^ 16 ∧ ((wl 7 x13_8_1).port 3).link.up = true ∧ 8 ≤ ((wl 7
       x13_8_1).usableLanes P3).length) ∧
    ((wl 7 x13_9_1).Quiet ∧ (∀ (n : Nat), n ∈ (wl 7 x13_9_1).activeLanes P3 → ((wl 7 x13_9_1).lane n).health.expelled = false) ∧
       P3.wf = true ∧ P3 = Link.port 3 ∧ (8 = 7 ∨ 8 = 8) ∧ 5 < 2 ^ 16 ∧ ((wl 7 x13_9_1).port 3).link.up = true ∧ 8 ≤ ((wl 7
       x13_9_1).usableLanes P3).length ∧ (∃ r, r ∈ ((wl 7 x13_9_1).port 3).link.reqs ∧ r.typ = 3 ∧ r.log = 8)) ∧
    ((wb4 4).Quiet ∧ P3.wf = true ∧ sp % 18 < 18 ∧ sp = 18 * linkEngine P3 + sp % 18 ∧ sp ∈ linkLanes P3 ∧ ((wb4 4).lane sp).st =
       4 ∧ ((wb4 4).lane sp).health.expelled = false) ∧
    ((wb4 1).Quiet ∧ P3.wf = true ∧ sp % 18 < 18 ∧ sp = 18 * linkEngine P3 + sp % 18 ∧ sp ∈ linkLanes P3 ∧ ((wb4 1).lane sp).st ≠
       4) ∧
    ((wl 7 x13_13_1).Quiet ∧ P3.wf = true) ∧
    (w8.Quiet ∧ P3.wf = true ∧ (List.replicate 18 255).length ≤ 18 ∧ (List.replicate 18 (-40)).length ≤ 18) ∧
    (w8.Quiet ∧ (Link.geled Half.west).wf = true ∧ [3].length ≤ 18 ∧ [-40].length ≤ 18) ∧
    (w8.Quiet ∧ P3.wf = true ∧ [4].length ≤ 18) ∧
    ((wl 7 x13_17_1).Quiet ∧ P3.wf = true) := ⟨⟨State.quiet_of _ (by decide +kernel), rfl, by decide +kernel⟩,
   ⟨State.quiet_of _ (by decide +kernel), rfl, by decide +kernel⟩,
   ⟨State.quiet_of _ (by decide +kernel), by decide +kernel⟩,
   ⟨State.quiet_of _ (by decide +kernel), by decide +kernel⟩,
   ⟨State.quiet_of _ (by decide +kernel), by decide +kernel⟩,
   ⟨State.quiet_of _ (by decide +kernel), by decide +kernel⟩,
   ⟨State.quiet_of _ (by decide +kernel), by first | decide +kernel | (intros; rfl) | (intro _ h; cases h; done) | (intro _ h; cases h; decide +kernel) | (intro k; cases k <;> decide +kernel), by decide +kernel⟩,
   ⟨State.quiet_of _ (by decide +kernel), by first | decide +kernel | (intros; rfl) | (intro _ h; cases h; done) | (intro _ h; cases h; decide +kernel) | (intro k; cases k <;> decide +kernel), by decide +kernel⟩,
   ⟨State.quiet_of _ (by decide +kernel), by first | decide +kernel | (intros; rfl) | (intro _ h; cases h; done) | (intro _ h; cases h; decide +kernel) | (intro k; cases k <;> decide +kernel), by decide +kernel⟩,
   ⟨State.quiet_of _ (by decide +kernel), by first | decide +kernel | (intros; rfl) | (intro _ h; cases h; done) | (intro _ h; cases h; decide +kernel) | (intro k; cases k <;> decide +kernel), by decide +kernel⟩,
   ⟨State.quiet_of _ (by decide +kernel), by decide +kernel⟩,
   ⟨State.quiet_of _ (by decide +kernel), by decide +kernel⟩,
   ⟨State.quiet_of _ (by decide +kernel), by decide +kernel⟩,
   ⟨State.quiet_of _ (by decide +kernel), by decide +kernel⟩,
   ⟨State.quiet_of _ (by decide +kernel), by decide +kernel⟩,
   ⟨State.quiet_of _ (by decide +kernel), by decide +kernel⟩,
   ⟨State.quiet_of _ (by decide +kernel), by decide +kernel⟩⟩


theorem witness_LaneTraining :
    (wd.Quiet ∧ P3.wf = true ∧ wd.mayTrain P3 = true) ∧
    (w0.Quiet ∧ (Link.port 9).wf = true ∧ w0.mayTrain (Link.port 9) = false) ∧
    ((wtr 4).Quiet ∧ P3.wf = true ∧ ((wtr 4).linkSt P3).training = true ∧ ((wtr 4).linkSt P3).up = false ∧ ((wtr 4).linkSt
       P3).since + 160000000 ≤ (wtr 4).now + 3) ∧
    (w8.Quiet ∧ P3.wf = true ∧ (w8.linkSt P3).training = false) ∧
    ((wtr 1).Quiet ∧ P3.wf = true ∧ sp ∈ linkLanes P3 ∧ tr.wf = true ∧ ((wtr 1).lane sp).st = 1 ∧ (2 = 2 ∨ 2 = 3) ∧ ((wtr 1).lane
       sp).step + 1 = 2) ∧
    ((wtr 2).Quiet ∧ P3.wf = true ∧ sp ∈ linkLanes P3 ∧ tr.wf = true ∧ ((wtr 2).lane sp).st = 1 ∧ (3 = 2 ∨ 3 = 3) ∧ ((wtr 2).lane
       sp).step + 1 = 3) ∧
    ((wt2 3).Quiet ∧ P3.wf = true ∧ sp ∈ linkLanes P3 ∧ tr.wf = true ∧ ((wt2 3).lane sp).st = 1 ∧ 4 < 16 ∧ 4 ≤ 5 ∧ ((wt2 3).lane
       sp).step + 1 = 4 ∧ ln.headD 0 ∈ linkLanes P3 ∧ ln.headD 0 ≠ sp ∧ ((wt2 3).lane (ln.headD 0)).st = 1 ∧ ((wt2 3).lane
       (ln.headD 0)).step < 5) ∧
    ((wtr 4).Quiet ∧ (∀ (m : Nat), m ∈ linkLanes P3 → ((wtr 4).lane m).st = 1 ∧ ((wtr 4).lane m).step = if m = sp then 4 else 5) ∧
       P3.wf = true ∧ sp ∈ linkLanes P3 ∧ tr.wf = true ∧ ((wtr 4).lane sp).st = 1 ∧ P3 = Link.port 3 ∧ ((wtr 4).port 3).farValid =
       false ∧ ((wtr 4).port 3).link.up = false ∧ ((wtr 4).port 3).link.training = true) ∧
    (w8.Quiet ∧ (∀ (r : LaneReq), r ∈ (w8.linkSt P3).reqs → ¬(r.typ = 1 ∧ r.phy = sp % 18)) ∧ P3.wf = true ∧ sp ∈ linkLanes P3 ∧
       (w8.lane sp).health.expelled = false ∧ (w8.lane sp).st = 2) ∧
    (w8.Quiet ∧ P3.wf = true ∧ a0 ∈ linkLanes P3 ∧ (w8.lane a0).health.expelled = false ∧ (w8.lane a0).st = 3 ∧ (w8.linkSt P3).up
       = true ∧ w8.spareLanes P3 = sp :: List.drop 1 (w8.spareLanes P3)) ∧
    ((wb4 4).Quiet ∧ P3.wf = true ∧ sp ∈ linkLanes P3 ∧ ((wb4 4).lane sp).health.expelled = false ∧ ((wb4 4).lane sp).st = 4 ∧
       ((wb4 4).linkSt P3).up = true ∧ (wb4 4).cfgBit (opticHalf (sp / 18)) 0x20E0 1 0 = true) := ⟨⟨State.quiet_of _ (by decide +kernel), by decide +kernel⟩,
   ⟨State.quiet_of _ (by decide +kernel), by decide +kernel⟩,
   ⟨State.quiet_of _ (by decide +kernel), by decide +kernel⟩,
   ⟨State.quiet_of _ (by decide +kernel), by decide +kernel⟩,
   ⟨State.quiet_of _ (by decide +kernel), by decide +kernel⟩,
   ⟨State.quiet_of _ (by decide +kernel), by decide +kernel⟩,
   ⟨State.quiet_of _ (by decide +kernel), by decide +kernel⟩,
   ⟨State.quiet_of _ (by decide +kernel), by first | decide +kernel | (intros; rfl) | (intro _ h; cases h; done) | (intro _ h; cases h; decide +kernel) | (intro k; cases k <;> decide +kernel), by decide +kernel⟩,
   ⟨State.quiet_of _ (by decide +kernel), by first | decide +kernel | (intros; rfl) | (intro _ h; cases h; done) | (intro _ h; cases h; decide +kernel) | (intro k; cases k <;> decide +kernel), by decide +kernel⟩,
   ⟨State.quiet_of _ (by decide +kernel), by decide +kernel⟩,
   ⟨State.quiet_of _ (by decide +kernel), by decide +kernel⟩⟩

end B13
namespace B14

def up0 : LinkSt := { up := true, width := 8 }
def cfg (l : List ((Nat × Nat) × Bytes)) (s : State) : State := { s with west.slate := ((0x2070, 1), [0]) :: l, east.slate := ((0x2070, 1), [0]) :: l }
def wp : State := cfg [((0x20D1, 4), [1]), ((0x20D1, 5), [4]), ((0x2100, 10), le 8 (2 + 2^8 * 3)), ((0x20E0, 1), [1])] w0
def ba (s : State) (p : Pdu) : State := (s.begun 3).authorized p 0 9
def pl (m a : Nat) := signed 0x6F00 4 9 [BitVec.ofNat 8 m, BitVec.ofNat 8 a]
def wm (v : Module) : State := { wp with opt.modules := [(2, v)], opt.lanes := (linkLanes (.port 3)).map (fun n => (n, ({ st := 3, logical := n % 8 } : Lane))) }
def v (st : Nat) : Module := { st := st, present := st != 0, enable := st != 0, bol := List.replicate 18 10, bias := List.replicate 18 10 }
def x14_3_1 := { v 1 with bol := [], flagged := true }
def x14_4_1 := { v 1 with flagged := true }
def x14_6_1 := { v 4 with dark := 1 }
def wdr : State := { wm { v 5 with drainReply := some (pl 2 1) } with fab.ports := [(3, { link := up0, drained := true, draining := true, farNode := 9 }), (4, { link := up0, drained := true, draining := true })] }
def wrm (st : Nat) : State := { wm (v st) with fab.ports := [(3, { link := up0, farNode := 9 }), (4, { link := up0 })] }
def wsc (b : Nat) : State := cfg [((0x20F0, 1), [1])] { w0 with near.stackRecs := [(0, { scrub := b })] }
def wns : State := cfg [((0x20F0, 1), [0])] w0
def wds : State := { w0 with west.dir := [(3, ⟨3, 0, 0⟩)], rdg.agents := [(4, { state := 3 })] }
def x14_24_1 := { w0 with near.stackRecs := [(0, { spare := some 4, retired := [5] })] }
def x14_25_1 := { w0 with near.stackRecs := [(0, { spare := some 4, copying := true, copied := [0,1], retired := [5] })] }
def x14_26_1 := { w0 with near.stackRecs := [(0, { spare := some 4, copying := true, copied := [0,1], retired := [5] })] }
def wm1 (v : Module) : State := { wp with opt.modules := [(1, v)], opt.lanes := (linkLanes (.port 3) ++ linkLanes (.port 4)).map (fun n => (n, ({ st := 3, logical := n % 8 } : Lane))) }
def wdr1 : State := { wm1 { v 5 with drainReply := some (pl 1 1) } with fab.ports := [(3, { link := up0, drained := true, draining := true, farNode := 9 }), (4, { link := up0, drained := true, draining := true })] }
def wrm1 (st : Nat) : State := { wm1 (v st) with fab.ports := [(3, { link := up0, farNode := 9 }), (4, { link := up0 })] }
def tileE (i : Nat) : Engine := ⟨.tile, i⟩
def wft (g : Eng) : State := { w0 with eng.tiles := (List.range 16).map (fun i => (i, if i = 3 then g else { due := false })), eng.yealms := (List.range 32).map (fun i => (i, { due := false })), eng.updates := (List.range 32).map (fun i => (i, { due := false })) }
def ptr := signed 0x6F00 1 9 [1, 3, 0]
def pe (k i a : Nat) := signed 0x6F00 2 9 (le 1 k ++ le 2 i ++ le 1 a)
def wr : State := { wp with west.running := true, east.running := true, fab.ports := [(3, { link := up0, farNode := 9, credits := [100,100,100,100] })] }
def x14_43_1 := { wr with west.running := false }
def oP : OutReq := { acc := { op := .read, q := q0, org := .probe .west }, node := 9, tag := 3, sid := 0xF0, issued := 7 }
def wpb : State := { wr with fab.nodes := [(9, { probes := [.west, .east] })], eng.outs := [oP, { oP with node := 8 }] }
def x14_46_1 := { wpb with now := 8 }
def wln (l : Lane) : State := { wr with opt.lanes := [(45, l)] }
def x14_51_1 := { wr with eng.tiles := [(3, { state := 3 })] }
def x14_52_1 := { wr with eng.tiles := [(3, { state := 1 })] }

theorem witness_LaserModules :
    ((wm ({} : Module)).Quiet ∧ 2 < 9 ∧ (pl 2 1).wf = true ∧ [1, 2].length ≤ 18 ∧ 8 < 2 ^ 32 ∧ ((wm ({} : Module)).laserModule
       2).st = 0 ∧ 5 ≤ (wm ({} : Module)).phase) ∧
    ((({ (wm ({} : Module)) with phase := 4 } : State)).Quiet ∧ ((({ (wm ({} : Module)) with phase := 4 } : State)).begun
       3).authorized (pl 2 1) 0 9 = ((({ (wm ({} : Module)) with phase := 4 } : State)).begun 3).authorized (pl 2 1) 0 9 ∧ 2 < 9 ∧
       (({ (wm ({} : Module)) with phase := 4 } : State)).laserModule 2 = (({ (wm ({} : Module)) with phase := 4 } :
       State)).laserModule 2 ∧ (pl 2 1).wf = true ∧ [1, 2].length ≤ 18 ∧ 8 < 2 ^ 32 ∧ ((({ (wm ({} : Module)) with phase := 4 } :
       State)).laserModule 2).st = 0 ∧ (({ (wm ({} : Module)) with phase := 4 } : State)).phase < 5) ∧
    ((wm (v 1)).Quiet ∧ 2 < 9 ∧ (pl 2 1).wf = true ∧ (List.replicate 18 10).length ≤ 18 ∧ 400 < 2 ^ 16 ∧ ((wm (v 1)).laserModule
       2).st = 1) ∧
    ((wm x14_3_1).Quiet ∧ 2 < 9 ∧ (pl 2 1).wf = true ∧ (List.replicate 18 11).length ≤ 18 ∧ 40 < 2 ^ 16 ∧ ((wm
       x14_3_1).laserModule 2).st = 1) ∧
    ((wm x14_4_1).Quiet ∧ 2 < 9 ∧ (pl 2 1).wf = true ∧ (List.replicate 18 50).length ≤ 18 ∧ 40 < 2 ^ 16 ∧ ((wm
       x14_4_1).laserModule 2).st = 1) ∧
    ((wm (v 2)).Quiet ∧ 2 < 9 ∧ (pl 2 1).wf = true ∧ 3 < 18 ∧ 65535 < 65536 ∧ 2 ≤ ((wm (v 2)).laserModule 2).st ∧ ((wm (v
       2)).laserModule 2).st ≤ 4 ∧ ((wm (v 2)).laserModule 2).flagged = false ∧ ((wm (v 2)).gcfg 0x20E0 3 ≤ 65535 ∨ false = true)) ∧
    ((wm x14_6_1).Quiet ∧ 2 < 9 ∧ (pl 2 1).wf = true ∧ 3 < 18 ∧ 0 < 65536 ∧ 2 ≤ ((wm x14_6_1).laserModule 2).st ∧ ((wm
       x14_6_1).laserModule 2).st ≤ 4 ∧ ((wm x14_6_1).laserModule 2).flagged = false ∧ ((wm x14_6_1).gcfg 0x20E0 3 ≤ 0 ∨ true =
       true)) ∧
    ((wm (v 3)).Quiet ∧ 2 < 9 ∧ (pl 2 1).wf = true ∧ 3 < 18 ∧ 1 < 65536 ∧ 2 ≤ ((wm (v 3)).laserModule 2).st ∧ ((wm (v
       3)).laserModule 2).st ≤ 4 ∧ 1 < (wm (v 3)).gcfg 0x20E0 3) ∧
    ((wm (v 2)).Quiet ∧ (pl 2 1).wf = true ∧ ((wm (v 2)).begun 3).Takes (pl 2 1) 0x6F00 4 ∧ ((wm (v 2)).begun 3).Authorized (pl 2
       1) 0x6F00 4 0 9 ∧ (∀ (e : Half), State.moduleEnd 2 = some e → (wm (v 2)).endUp e = true → (wm (v 2)).endUp e.other = true)
       ∧ (∀ (q : Nat), q ∈ State.modulePorts 2 → ((wm (v 2)).port q).link.up = false) ∧ 2 < 9 ∧ field 0 1 (pl 2 1).data = 2 ∧
       field 1 1 (pl 2 1).data = 1 ∧ 2 ≤ ((wm (v 2)).laserModule 2).st ∧ ((wm (v 2)).laserModule 2).st ≤ 4) ∧
    ((({ (wm ({} : Module)) with opt := { lanes := (wm ({} : Module)).opt.lanes, modules := [(0, v 3)] : Optics } } :
       State)).Quiet ∧ (pl 0 1).wf = true ∧
       ((({ (wm ({} : Module)) with opt := { lanes := (wm ({} : Module)).opt.lanes, modules := [(0, v 3)] : Optics } } :
       State)).begun 3).authorized (pl 0 1) 0 9 =
       ((({ (wm ({} : Module)) with opt := { lanes := (wm ({} : Module)).opt.lanes, modules := [(0, v 3)] : Optics } } :
       State)).begun 3).authorized (pl 0 1) 0 9 ∧
       ((({ (wm ({} : Module)) with opt := { lanes := (wm ({} : Module)).opt.lanes, modules := [(0, v 3)] : Optics } } :
       State)).begun 3).Takes (pl 0 1) 0x6F00 4 ∧
       ((({ (wm ({} : Module)) with opt := { lanes := (wm ({} : Module)).opt.lanes, modules := [(0, v 3)] : Optics } } :
       State)).begun 3).Authorized (pl 0 1) 0x6F00 4 0 9 ∧ (∀ (e : Half), State.moduleEnd 0 = some e →
       (({ (wm ({} : Module)) with opt := { lanes := (wm ({} : Module)).opt.lanes, modules := [(0, v 3)] : Optics } } :
       State)).endUp e = true →
       (({ (wm ({} : Module)) with opt := { lanes := (wm ({} : Module)).opt.lanes, modules := [(0, v 3)] : Optics } } :
       State)).endUp e.other = true) ∧ (∀ (q : Nat), q ∈ State.modulePorts 0 →
       ((({ (wm ({} : Module)) with opt := { lanes := (wm ({} : Module)).opt.lanes, modules := [(0, v 3)] : Optics } } :
       State)).port q).link.up = false) ∧ 0 < 9 ∧
       (({ (wm ({} : Module)) with opt := { lanes := (wm ({} : Module)).opt.lanes, modules := [(0, v 3)] : Optics } } :
       State)).laserModule 0 =
       (({ (wm ({} : Module)) with opt := { lanes := (wm ({} : Module)).opt.lanes, modules := [(0, v 3)] : Optics } } :
       State)).laserModule 0 ∧ field 0 1 (pl 0 1).data = 0 ∧ field 1 1 (pl 0 1).data = 1 ∧ 2 ≤
       ((({ (wm ({} : Module)) with opt := { lanes := (wm ({} : Module)).opt.lanes, modules := [(0, v 3)] : Optics } } :
       State)).laserModule 0).st ∧
       ((({ (wm ({} : Module)) with opt := { lanes := (wm ({} : Module)).opt.lanes, modules := [(0, v 3)] : Optics } } :
       State)).laserModule 0).st ≤ 4) ∧
    ((wm (v 6)).Quiet ∧ (pl 2 2).wf = true ∧ ((wm (v 6)).begun 3).Takes (pl 2 2) 0x6F00 4 ∧ ((wm (v 6)).begun 3).Authorized (pl 2
       2) 0x6F00 4 0 9 ∧ 2 < 9 ∧ field 0 1 (pl 2 2).data = 2 ∧ field 1 1 (pl 2 2).data = 2 ∧ ((wm (v 6)).laserModule 2).st = 6) ∧
    ((wm (v 3)).Quiet ∧ (pl 2 2).wf = true ∧ ((wm (v 3)).begun 3).Takes (pl 2 2) 0x6F00 4 ∧ ((wm (v 3)).begun 3).Authorized (pl 2
       2) 0x6F00 4 0 9 ∧ 2 < 9 ∧ field 0 1 (pl 2 2).data = 2 ∧ field 1 1 (pl 2 2).data = 2 ∧ ((wm (v 3)).laserModule 2).st < 5) ∧
    (wdr.Quiet ∧ (∀ (q : Nat), q ∈ State.modulePorts 2 → (wdr.port q).link.up = true → (wdr.port q).drained = true) ∧ (∀ (e :
       Half), State.moduleEnd 2 = some e → wdr.endUp e = true → (wdr.geled e).link.unacked = []) ∧ 2 < 9 ∧ (pl 2 2).wf = true ∧
       (wdr.laserModule 2).st = 5) ∧
    ((wrm 2).Quiet ∧ 2 < 9 ∧ (pl 2 2).wf = true ∧ 1 ≤ ((wrm 2).laserModule 2).st ∧ ((wrm 2).laserModule 2).st ≤ 5) ∧
    ((wrm 5).Quiet ∧ 2 < 9 ∧ (pl 2 2).wf = true ∧ 1 ≤ ((wrm 5).laserModule 2).st ∧ ((wrm 5).laserModule 2).st ≤ 5) ∧
    ((wrm 1).Quiet ∧ 2 < 9 ∧ (pl 2 2).wf = true ∧ 1 ≤ ((wrm 1).laserModule 2).st ∧ ((wrm 1).laserModule 2).st ≤ 5) ∧
    (wdr1.Quiet ∧ (∀ (q : Nat), q ∈ State.modulePorts 1 → (wdr1.port q).link.up = true → (wdr1.port q).drained = true) ∧ (∀ (e :
       Half), State.moduleEnd 1 = some e → wdr1.endUp e = true → (wdr1.geled e).link.unacked = []) ∧ 1 < 9 ∧ (pl 1 2).wf = true ∧
       (wdr1.laserModule 1).st = 5) ∧
    ((wrm1 2).Quiet ∧ 1 < 9 ∧ (pl 1 2).wf = true ∧ 1 ≤ ((wrm1 2).laserModule 1).st ∧ ((wrm1 2).laserModule 1).st ≤ 5) ∧
    ((wrm1 5).Quiet ∧ 1 < 9 ∧ (pl 1 2).wf = true ∧ 1 ≤ ((wrm1 5).laserModule 1).st ∧ ((wrm1 5).laserModule 1).st ≤ 5) := ⟨⟨State.quiet_of _ (by decide +kernel), by decide +kernel⟩,
   ⟨State.quiet_of _ (by decide +kernel), rfl, by decide +kernel⟩,
   ⟨State.quiet_of _ (by decide +kernel), by decide +kernel⟩,
   ⟨State.quiet_of _ (by decide +kernel), by decide +kernel⟩,
   ⟨State.quiet_of _ (by decide +kernel), by decide +kernel⟩,
   ⟨State.quiet_of _ (by decide +kernel), by decide +kernel⟩,
   ⟨State.quiet_of _ (by decide +kernel), by decide +kernel⟩,
   ⟨State.quiet_of _ (by decide +kernel), by decide +kernel⟩,
   ⟨State.quiet_of _ (by decide +kernel), State.signed_wf _ _ _ _ (by decide) (by decide +kernel), State.takes_of _ _ _ _ (by decide +kernel), State.signed_authorized _ _ _ _ _ (by decide +kernel), by first | decide +kernel | (intros; rfl) | (intro _ h; cases h; done) | (intro _ h; cases h; decide +kernel) | (intro k; cases k <;> decide +kernel), by first | decide +kernel | (intros; rfl) | (intro _ h; cases h; done) | (intro _ h; cases h; decide +kernel) | (intro k; cases k <;> decide +kernel), by decide +kernel⟩,
   ⟨State.quiet_of _ (by decide +kernel), State.signed_wf _ _ _ _ (by decide) (by decide +kernel), rfl, State.takes_of _ _ _ _ (by decide +kernel), State.signed_authorized _ _ _ _ _ (by decide +kernel), by first | decide +kernel | (intros; rfl) | (intro _ h; cases h; done) | (intro _ h; cases h; decide +kernel) | (intro k; cases k <;> decide +kernel), by first | decide +kernel | (intros; rfl) | (intro _ h; cases h; done) | (intro _ h; cases h; decide +kernel) | (intro k; cases k <;> decide +kernel), by decide +kernel⟩,
   ⟨State.quiet_of _ (by decide +kernel), State.signed_wf _ _ _ _ (by decide) (by decide +kernel), State.takes_of _ _ _ _ (by decide +kernel), State.signed_authorized _ _ _ _ _ (by decide +kernel), by decide +kernel⟩,
   ⟨State.quiet_of _ (by decide +kernel), State.signed_wf _ _ _ _ (by decide) (by decide +kernel), State.takes_of _ _ _ _ (by decide +kernel), State.signed_authorized _ _ _ _ _ (by decide +kernel), by decide +kernel⟩,
   ⟨State.quiet_of _ (by decide +kernel), by first | decide +kernel | (intros; rfl) | (intro _ h; cases h; done) | (intro _ h; cases h; decide +kernel) | (intro k; cases k <;> decide +kernel), by first | decide +kernel | (intros; rfl) | (intro _ h; cases h; done) | (intro _ h; cases h; decide +kernel) | (intro k; cases k <;> decide +kernel), by decide +kernel⟩,
   ⟨State.quiet_of _ (by decide +kernel), by decide +kernel⟩,
   ⟨State.quiet_of _ (by decide +kernel), by decide +kernel⟩,
   ⟨State.quiet_of _ (by decide +kernel), by decide +kernel⟩,
   ⟨State.quiet_of _ (by decide +kernel), by first | decide +kernel | (intros; rfl) | (intro _ h; cases h; done) | (intro _ h; cases h; decide +kernel) | (intro k; cases k <;> decide +kernel), by first | decide +kernel | (intros; rfl) | (intro _ h; cases h; done) | (intro _ h; cases h; decide +kernel) | (intro k; cases k <;> decide +kernel), by decide +kernel⟩,
   ⟨State.quiet_of _ (by decide +kernel), by decide +kernel⟩,
   ⟨State.quiet_of _ (by decide +kernel), by decide +kernel⟩⟩


theorem witness_MemoryFaults :
    (wns.Quiet ∧ 0 < 16 ∧ wns.cfgBit (stackHalf 0) 0x20F0 1 0 = false ∧ [StackError.corrected 4].all (StackError.wf 0) = true) ∧
    ((wsc 7).Quiet ∧ 0 < 16 ∧ 7 = 0 * State.stackBlocks + ((wsc 7).stackRec 0).scrub ∧ (wsc 7).cfgBit (stackHalf 0) 0x20F0 1 0 =
       true ∧ (((wsc 7).metaOf 7).void = true ∨ ((wsc 7).metaOf 7).crc = (wsc 7).blockCrc 7) ∧ ((wsc 7).stackRec 0).scrub + 1 <
       State.stackBlocks) ∧
    ((wsc (State.stackBlocks - 1)).Quiet ∧ 0 < 16 ∧ State.stackBlocks - 1 = 0 * State.stackBlocks + ((wsc (State.stackBlocks -
       1)).stackRec 0).scrub ∧ (wsc (State.stackBlocks - 1)).cfgBit (stackHalf 0) 0x20F0 1 0 = true ∧ (((wsc (State.stackBlocks -
       1)).metaOf (State.stackBlocks - 1)).void = true ∨ ((wsc (State.stackBlocks - 1)).metaOf (State.stackBlocks - 1)).crc = (wsc
       (State.stackBlocks - 1)).blockCrc (State.stackBlocks - 1)) ∧ State.stackBlocks ≤ ((wsc (State.stackBlocks - 1)).stackRec
       0).scrub + 1) ∧
    (w0.Quiet ∧ (∀ (l : Nat), l ∈ [3, 4] → w0.entryOf Half.west l = none) ∧ 0 < 16 ∧ [3, 4].all lineOk = true) ∧
    (wds.Quiet ∧ (∀ (a : Nat × Agent), a ∈ wds.rdg.agents → a.snd.state ≠ 1 ∧ a.snd.state ≠ 2) ∧ 0 < 16 ∧ lineOk 3 = true ∧
       (wds.half Half.west).dir = [(3, { st := 3, shr := 0 : Entry })] ∧ State.isRp { st := 3, shr := 0 : Entry } = false) ∧
    (w0.Quiet ∧ 1 < 16 ∧ 3 < 32 ∧ [3, 103079215104 / 128 + 4].all lineOk = true ∧ ¬3 ∈ (w0.stackRec 1).retired ∧ (w0.stackRec
       1).spare = none) ∧
    (w0.Quiet ∧ 0 < 16 ∧ 0 < 32 ∧ [0, 1, 32, 64].all lineOk = true ∧ ¬0 ∈ (w0.stackRec 0).retired ∧ (w0.stackRec 0).spare = none) ∧
    (x14_24_1.Quiet ∧ 0 < 16 ∧ 0 < 32 ∧ [0, 1, 32, 64].all lineOk = true ∧ ¬0 ∈ (x14_24_1.stackRec 0).retired ∧ (x14_24_1.stackRec
       0).spare = some 4) ∧
    (x14_25_1.Quiet ∧ 0 < 16 ∧ 4 < 32 ∧ [0, 1, 32, 64].all lineOk = true ∧ ¬4 ∈ (x14_25_1.stackRec 0).retired ∧ (x14_25_1.stackRec
       0).spare = some 4) ∧
    (x14_26_1.Quiet ∧ 0 < 16 ∧ (x14_26_1.stackRec 0).copying = true) ∧
    (w0.Quiet ∧ 0 < 16 ∧ (w0.stackRec 0).copying = false ∧ [3].all lineOk = true) := ⟨⟨State.quiet_of _ (by decide +kernel), by decide +kernel⟩,
   ⟨State.quiet_of _ (by decide +kernel), by decide +kernel⟩,
   ⟨State.quiet_of _ (by decide +kernel), by decide +kernel⟩,
   ⟨State.quiet_of _ (by decide +kernel), by first | decide +kernel | (intros; rfl) | (intro _ h; cases h; done) | (intro _ h; cases h; decide +kernel) | (intro k; cases k <;> decide +kernel), by decide +kernel⟩,
   ⟨State.quiet_of _ (by decide +kernel), by first | decide +kernel | (intros; rfl) | (intro _ h; cases h; done) | (intro _ h; cases h; decide +kernel) | (intro k; cases k <;> decide +kernel), by decide +kernel⟩,
   ⟨State.quiet_of _ (by decide +kernel), by decide +kernel⟩,
   ⟨State.quiet_of _ (by decide +kernel), by decide +kernel⟩,
   ⟨State.quiet_of _ (by decide +kernel), by decide +kernel⟩,
   ⟨State.quiet_of _ (by decide +kernel), by decide +kernel⟩,
   ⟨State.quiet_of _ (by decide +kernel), by decide +kernel⟩,
   ⟨State.quiet_of _ (by decide +kernel), by decide +kernel⟩⟩


theorem witness_FieldTests :
    ((({ (wft { due := false : Eng }) with now := 10 ^ 13 } : State)).Quiet ∧ (tileE 3).wf = true ∧
       ((({ (wft { due := false : Eng }) with now := 10 ^ 13 } : State)).engOf (tileE 3)).due = false ∧
       (({ (wft { due := false : Eng }) with now := 10 ^ 13 } : State)).testsOn (tileE 3) = true ∧
       ((({ (wft { due := false : Eng }) with now := 10 ^ 13 } : State)).begun 3).testLate (tileE 3) 1 1 = true) ∧
    ((wft ({} : Eng)).Quiet ∧ (∀ (x : Engine), x ∈ State.halfEngines (engHalf (tileE 3)) → x ≠ tileE 3 → ((wft ({} : Eng)).engOf
       x).due = true → (wft ({} : Eng)).idle x = true → (wft ({} : Eng)).testBefore x (tileE 3) = false) ∧ (tileE 3).wf = true ∧
       ((wft ({} : Eng)).engOf (tileE 3)).due = true ∧ ((wft ({} : Eng)).engOf (tileE 3)).state = 0 ∧ ((wft ({} : Eng)).engOf
       (tileE 3)).queue = [] ∧ ((wft ({} : Eng)).engOf (tileE 3)).run = none ∧ (wft ({} : Eng)).halfTesting (engHalf (tileE 3)) =
       false ∧ (wft ({} : Eng)).testsOn (tileE 3) = true) ∧
    ((wft { forced := true : Eng }).Quiet ∧ (tileE 3).wf = true ∧ ((wft { forced := true : Eng }).engOf (tileE 3)).due = true ∧
       ((wft { forced := true : Eng }).engOf (tileE 3)).state = 0 ∧ ((wft { forced := true : Eng }).engOf (tileE 3)).queue = [] ∧
       ((wft { forced := true : Eng }).engOf (tileE 3)).run = none ∧ (wft { forced := true : Eng }).halfTesting (engHalf (tileE
       3)) = false ∧ ((wft { forced := true : Eng }).engOf (tileE 3)).forced = true) ∧
    ((wft { state := 1, testFrom := 98 : Eng }).Quiet ∧ (tileE 3).wf = true ∧ 4 < 65536 ∧ 5 < 2 ^ 32 ∧ ((wft
       { state := 1, testFrom := 98 : Eng }).engOf (tileE 3)).queue = [] ∧ ((wft { state := 1, testFrom := 98 : Eng }).engOf
       (tileE 3)).run = none ∧ ((wft { state := 1, testFrom := 98 : Eng }).engOf (tileE 3)).state = 1) ∧
    ((wft { state := 2, testFrom := 98, outs := [50, 99] : Eng }).Quiet ∧ (tileE 3).wf = true ∧ 4 < 65536 ∧ 5 < 2 ^ 32 ∧ ((wft
       { state := 2, testFrom := 98, outs := [50, 99] : Eng }).engOf (tileE 3)).queue = [] ∧ ((wft
       { state := 2, testFrom := 98, outs := [50, 99] : Eng }).engOf (tileE 3)).run = none ∧ ((wft
       { state := 2, testFrom := 98, outs := [50, 99] : Eng }).engOf (tileE 3)).state = 2 ∧ ((wft
       { state := 2, testFrom := 98, outs := [50, 99] : Eng }).engOf (tileE 3)).override = false ∧ ((wft
       { state := 2, testFrom := 98, outs := [50, 99] : Eng }).engOf (tileE 3)).outs = [50, 99] ∧ (wft
       { state := 2, testFrom := 98, outs := [50, 99] : Eng }).courseOf (engHalf (tileE 3)) < 50 + 1024 ∧ (wft
       { state := 2, testFrom := 98, outs := [50, 99] : Eng }).courseOf (engHalf (tileE 3)) < 99 + 1024) ∧
    ((wft { state := 1, testFrom := 98, outs := [50, 99] : Eng }).Quiet ∧ (tileE 3).wf = true ∧ 4 < 65536 ∧ 5 < 2 ^ 32 ∧ ((wft
       { state := 1, testFrom := 98, outs := [50, 99] : Eng }).engOf (tileE 3)).queue = [] ∧ ((wft
       { state := 1, testFrom := 98, outs := [50, 99] : Eng }).engOf (tileE 3)).run = none ∧ (((wft
       { state := 1, testFrom := 98, outs := [50, 99] : Eng }).engOf (tileE 3)).state = 1 ∨ ((wft
       { state := 1, testFrom := 98, outs := [50, 99] : Eng }).engOf (tileE 3)).state = 2) ∧ ((wft
       { state := 1, testFrom := 98, outs := [50, 99] : Eng }).engOf (tileE 3)).override = false ∧ ((wft
       { state := 1, testFrom := 98, outs := [50, 99] : Eng }).engOf (tileE 3)).jobs = []) ∧
    ((wft { state := 2, fails := 15, testFrom := 98 : Eng }).Quiet ∧ (tileE 3).wf = true ∧ 4 < 65536 ∧ 5 < 2 ^ 32 ∧ ((wft
       { state := 2, fails := 15, testFrom := 98 : Eng }).engOf (tileE 3)).queue = [] ∧ ((wft
       { state := 2, fails := 15, testFrom := 98 : Eng }).engOf (tileE 3)).run = none ∧ (((wft
       { state := 2, fails := 15, testFrom := 98 : Eng }).engOf (tileE 3)).state = 1 ∨ ((wft
       { state := 2, fails := 15, testFrom := 98 : Eng }).engOf (tileE 3)).state = 2) ∧ ((wft
       { state := 2, fails := 15, testFrom := 98 : Eng }).engOf (tileE 3)).override = false ∧ ((wft
       { state := 2, fails := 15, testFrom := 98 : Eng }).engOf (tileE 3)).jobs = []) ∧
    ((wft { state := 1, jobs := [(1, 7)] : Eng }).Quiet ∧ (tileE 3).wf = true ∧ 4 < 65536 ∧ 5 < 2 ^ 32 ∧ ((wft
       { state := 1, jobs := [(1, 7)] : Eng }).engOf (tileE 3)).queue = [] ∧ ((wft { state := 1, jobs := [(1, 7)] : Eng }).engOf
       (tileE 3)).run = none ∧ ((wft { state := 1, jobs := [(1, 7)] : Eng }).engOf (tileE 3)).state = 1 ∧ ((wft
       { state := 1, jobs := [(1, 7)] : Eng }).engOf (tileE 3)).jobs = [(1, 7)] ∧ 7 ≠ 65535 ∧ (wft
       { state := 1, jobs := [(1, 7)] : Eng }).jobEnded 1 7 = false ∧ List.length (wft
       { state := 1, jobs := [(1, 7)] : Eng }).itg.jobs < 4096 ∧ (wft { state := 1, jobs := [(1, 7)] : Eng }).itg.groups = [] ∧
       (wft { state := 1, jobs := [(1, 7)] : Eng }).itg.commits = [] ∧ (wft { state := 1, jobs := [(1, 7)] : Eng }).west.caps = []
       ∧ (wft { state := 1, jobs := [(1, 7)] : Eng }).east.caps = [] ∧ (wft { state := 1, jobs := [(1, 7)] : Eng }).jobEngines 1 7
       = []) ∧
    ((wft { due := false : Eng }).Quiet ∧ ptr.wf = true ∧ ba (wft { due := false : Eng }) ptr = ((wft
       { due := false : Eng }).begun 3).authorized ptr 0 9 ∧ ((wft { due := false : Eng }).begun 3).Takes ptr 0x6F00 1 ∧ ((wft
       { due := false : Eng }).begun 3).Authorized ptr 0x6F00 1 0 9 ∧ (tileE 3).wf = true ∧ (field 0 1 ptr.data, (tileE 3).cls) ∈
       [(1, EngClass.tile), (2, EngClass.yealm), (3, EngClass.update)] ∧ field 1 1 ptr.data = (tileE 3).idx ∧ field 2 1 ptr.data =
       0 ∧ ((wft { due := false : Eng }).engOf (tileE 3)).state < 2) ∧
    ((wft { state := 2 : Eng }).Quiet ∧ ptr.wf = true ∧ ba (wft { state := 2 : Eng }) ptr = ((wft { state := 2 : Eng }).begun
       3).authorized ptr 0 9 ∧ ((wft { state := 2 : Eng }).begun 3).Takes ptr 0x6F00 1 ∧ ((wft { state := 2 : Eng }).begun
       3).Authorized ptr 0x6F00 1 0 9 ∧ (tileE 3).wf = true ∧ (field 0 1 ptr.data, (tileE 3).cls) ∈
       [(1, EngClass.tile), (2, EngClass.yealm), (3, EngClass.update)] ∧ field 1 1 ptr.data = (tileE 3).idx ∧ 2 ≤ ((wft
       { state := 2 : Eng }).engOf (tileE 3)).state) := ⟨⟨State.quiet_of _ (by decide +kernel), by decide +kernel⟩,
   ⟨State.quiet_of _ (by decide +kernel), by first | decide +kernel | (intros; rfl) | (intro _ h; cases h; done) | (intro _ h; cases h; decide +kernel) | (intro k; cases k <;> decide +kernel), by decide +kernel⟩,
   ⟨State.quiet_of _ (by decide +kernel), by decide +kernel⟩,
   ⟨State.quiet_of _ (by decide +kernel), by decide +kernel⟩,
   ⟨State.quiet_of _ (by decide +kernel), by decide +kernel⟩,
   ⟨State.quiet_of _ (by decide +kernel), by decide +kernel⟩,
   ⟨State.quiet_of _ (by decide +kernel), by decide +kernel⟩,
   ⟨State.quiet_of _ (by decide +kernel), by decide +kernel⟩,
   ⟨State.quiet_of _ (by decide +kernel), State.signed_wf _ _ _ _ (by decide) (by decide +kernel), rfl, State.takes_of _ _ _ _ (by decide +kernel), State.signed_authorized _ _ _ _ _ (by decide +kernel), by decide +kernel⟩,
   ⟨State.quiet_of _ (by decide +kernel), State.signed_wf _ _ _ _ (by decide) (by decide +kernel), rfl, State.takes_of _ _ _ _ (by decide +kernel), State.signed_authorized _ _ _ _ _ (by decide +kernel), by decide +kernel⟩⟩


theorem witness_PeersAndParts :
    (wr.Quiet ∧ 9 < 2 ^ 14 ∧ (pe 1 3 1).wf = true ∧ (wr.half Half.west).running = true ∧ wr.roofPeers = [(9, 3)] ∧ wr.wayTo 9 ≠
       State.Way.unreachable ∧ wr.avl.purlinUp = true ∧ wr.eng.outs = []) ∧
    (x14_43_1.Quiet ∧ 9 < 2 ^ 14 ∧ (pe 1 3 1).wf = true ∧ (x14_43_1.half Half.west).running = false) ∧
    (wpb.Quiet ∧ 9 < 2 ^ 14 ∧ (pe 1 3 1).wf = true ∧ Half.west ∈ (wpb.node 9).probes) ∧
    (wpb.Quiet ∧ 9 < 2 ^ 14 ∧ (pe 1 3 1).wf = true ∧ 240 < 256 ∧ 3 < 2 ^ 20 ∧ wpb.outOf 240 3 = some oP ∧ oP.node = 9 ∧
       wpb.isRoofPeer 9 = true ∧ oP.issued + wpb.gcfg 0x20F0 11 ≤ wpb.now + 3) ∧
    (x14_46_1.Quiet ∧ 9 < 2 ^ 14 ∧ (pe 1 3 1).wf = true ∧ 240 < 256 ∧ 3 < 2 ^ 20 ∧ x14_46_1.outOf 240 3 = some oP ∧ oP.node = 9 ∧
       x14_46_1.isRoofPeer 9 = true ∧ x14_46_1.now + 3 < oP.issued + x14_46_1.gcfg 0x20F0 11) ∧
    (wpb.Quiet ∧ 9 < 2 ^ 14 ∧ (pe 1 3 1).wf = true ∧ wpb.isRoofPeer 9 = true ∧ (wpb.node 9).heard + wpb.gcfg 0x20F0 10 ≤ wpb.now +
       3 ∧ (wpb.node 9).health.hardDead = false) ∧
    ((wln { st := 2 : Lane }).Quiet ∧ (pe 1 45 1).wf = true ∧ ((wln { st := 2 : Lane }).begun 3).Takes (pe 1 45 1) 0x6F00 2 ∧
       ((wln { st := 2 : Lane }).begun 3).Authorized (pe 1 45 1) 0x6F00 2 0 9 ∧ (∀ (r : LaneReq), r ∈ ((wln
       { st := 2 : Lane }).linkSt (laneLink 45)).reqs → ¬(r.typ = 1 ∧ r.phy = 45 % 18)) ∧ 9 < 2 ^ 14 ∧ field 0 1 (pe 1 45 1).data
       = 1 ∧ field 1 2 (pe 1 45 1).data = 45 ∧ 45 < 324 ∧ field 3 1 (pe 1 45 1).data = 1 ∧ ((wln { st := 2 : Lane }).lane 45).st =
       2 ∧ ((wln { st := 2 : Lane }).lane 45).health.expelled = false) ∧
    ((wln { st := 5, health := { score := 3, clean := 9, expelled := true, hardDead := true : Health } : Lane }).Quiet ∧ (pe 1 45
       2).wf = true ∧ ((wln
       { st := 5, health := { score := 3, clean := 9, expelled := true, hardDead := true : Health } : Lane }).begun 3).Takes (pe 1
       45 2) 0x6F00 2 ∧ ((wln
       { st := 5, health := { score := 3, clean := 9, expelled := true, hardDead := true : Health } : Lane }).begun 3).Authorized
       (pe 1 45 2) 0x6F00 2 0 9 ∧ 9 < 2 ^ 14 ∧ field 0 1 (pe 1 45 2).data = 1 ∧ field 1 2 (pe 1 45 2).data = 45 ∧ 45 < 324 ∧ field
       3 1 (pe 1 45 2).data = 2 ∧ ((wln
       { st := 5, health := { score := 3, clean := 9, expelled := true, hardDead := true : Health } : Lane }).lane 45).st = 5 ∧
       ((wln { st := 5, health := { score := 3, clean := 9, expelled := true, hardDead := true : Health } : Lane }).lane
       45).health.expelled = true) ∧
    ((wln { st := 3, health := { suspect := true : Health } : Lane }).Quiet ∧ (pe 1 45 3).wf = true ∧ ((wln
       { st := 3, health := { suspect := true : Health } : Lane }).begun 3).Takes (pe 1 45 3) 0x6F00 2 ∧ ((wln
       { st := 3, health := { suspect := true : Health } : Lane }).begun 3).Authorized (pe 1 45 3) 0x6F00 2 0 9 ∧ 9 < 2 ^ 14 ∧
       { kind := 1, idx := 45 : PartRef } = { kind := field 0 1 (pe 1 45 3).data, idx := field 1 2 (pe 1 45 3).data : PartRef } ∧
       field 3 1 (pe 1 45 3).data = 3 ∧ (wln { st := 3, health := { suspect := true : Health } : Lane }).partExists
       { kind := 1, idx := 45 : PartRef } = true) ∧
    (x14_51_1.Quiet ∧ (pe 5 3 4).wf = true ∧ (x14_51_1.begun 3).Takes (pe 5 3 4) 0x6F00 2 ∧ (x14_51_1.begun 3).Authorized (pe 5 3
       4) 0x6F00 2 0 9 ∧ 9 < 2 ^ 14 ∧ { kind := 5, idx := 3 : PartRef } =
       { kind := field 0 1 (pe 5 3 4).data, idx := field 1 2 (pe 5 3 4).data : PartRef } ∧ field 3 1 (pe 5 3 4).data = 4 ∧
       State.partEngine { kind := 5, idx := 3 : PartRef } = some (tileE 3) ∧ 2 ≤ (x14_51_1.engOf (tileE 3)).state) ∧
    (x14_52_1.Quiet ∧ (pe 5 3 4).wf = true ∧ (x14_52_1.begun 3).Takes (pe 5 3 4) 0x6F00 2 ∧ (x14_52_1.begun 3).Authorized (pe 5 3
       4) 0x6F00 2 0 9 ∧ 9 < 2 ^ 14 ∧ { kind := 5, idx := 3 : PartRef } =
       { kind := field 0 1 (pe 5 3 4).data, idx := field 1 2 (pe 5 3 4).data : PartRef } ∧ field 3 1 (pe 5 3 4).data = 4 ∧
       State.partEngine { kind := 5, idx := 3 : PartRef } = some (tileE 3) ∧ (x14_52_1.engOf (tileE 3)).state < 2) := ⟨⟨State.quiet_of _ (by decide +kernel), by decide +kernel⟩,
   ⟨State.quiet_of _ (by decide +kernel), by decide +kernel⟩,
   ⟨State.quiet_of _ (by decide +kernel), by decide +kernel⟩,
   ⟨State.quiet_of _ (by decide +kernel), by decide +kernel⟩,
   ⟨State.quiet_of _ (by decide +kernel), by decide +kernel⟩,
   ⟨State.quiet_of _ (by decide +kernel), by decide +kernel⟩,
   ⟨State.quiet_of _ (by decide +kernel), State.signed_wf _ _ _ _ (by decide) (by decide +kernel), State.takes_of _ _ _ _ (by decide +kernel), State.signed_authorized _ _ _ _ _ (by decide +kernel), by first | decide +kernel | (intros; rfl) | (intro _ h; cases h; done) | (intro _ h; cases h; decide +kernel) | (intro k; cases k <;> decide +kernel), by decide +kernel⟩,
   ⟨State.quiet_of _ (by decide +kernel), State.signed_wf _ _ _ _ (by decide) (by decide +kernel), State.takes_of _ _ _ _ (by decide +kernel), State.signed_authorized _ _ _ _ _ (by decide +kernel), by decide +kernel⟩,
   ⟨State.quiet_of _ (by decide +kernel), State.signed_wf _ _ _ _ (by decide) (by decide +kernel), State.takes_of _ _ _ _ (by decide +kernel), State.signed_authorized _ _ _ _ _ (by decide +kernel), by decide +kernel⟩,
   ⟨State.quiet_of _ (by decide +kernel), State.signed_wf _ _ _ _ (by decide) (by decide +kernel), State.takes_of _ _ _ _ (by decide +kernel), State.signed_authorized _ _ _ _ _ (by decide +kernel), by decide +kernel⟩,
   ⟨State.quiet_of _ (by decide +kernel), State.signed_wf _ _ _ _ (by decide) (by decide +kernel), State.takes_of _ _ _ _ (by decide +kernel), State.signed_authorized _ _ _ _ _ (by decide +kernel), by decide +kernel⟩⟩

end B14
namespace B15

def up0 : LinkSt := { up := true, width := 8 }
def cfg (l : List ((Nat × Nat) × Bytes)) (s : State) : State := { s with west.slate := ((0x2070, 1), [0]) :: l, east.slate := ((0x2070, 1), [0]) :: l }
def wp : State := cfg [((0x20D1, 4), [1]), ((0x20D1, 5), [4]), ((0x2100, 10), le 8 (2 + 2^8 * 3)), ((0x20E0, 1), [1])] w0
def ba (s : State) (p : Pdu) : State := (s.begun 3).authorized p 0 9
def wl : State := { wp with west := { wp.west with leaseHolder := .east, leaseSeq := 5, leaseCourse := 100, running := true }, east := { wp.east with leaseHolder := .east, leaseSeq := 5, leaseCourse := 100, running := true }, fab.ports := [(3, { link := up0, farNode := 9, credits := [100,100,100,100] })] }
def x15_6_1 := { wl with east.running := false }
def x15_7_1 := { wl with east.running := false, avl.purlinUp := false }
def x15_9_1 := { wl with avl.purlinUp := false }
def x15_11_1 := { wl with avl.purlinUp := false }
def x15_12_1 := { wl with avl.purlinUp := false, west.course := 104 }
def pad := signed 0x6F00 3 9 (le 2 9 ++ le 8 0 ++ le 1 1 ++ (le 8 0x100000 ++ le 8 0 ++ le 4 1))
def wad (st : Nat) : State := { wl with avl.admission := { st := st, partner := 9, course := 200, ranges := [(0x100000, 0, 1)] } }
def wan (k : Nat) : State := { w0 with mgm.announces := [⟨2, 0x10305, k⟩], mgm.ports := (⟨true, true⟩, ⟨true, false⟩), mgm.eid := 7 }
def cu (s : State) := (s.begun 3).count .west 0x1102 3
def x15_25_1 := { wan 3 with phase := 0xF0 }
def x15_28_1 := { wan 3 with phase := 1 }
def rl : List (Nat × Nat) := [(750,1),(750,1),(750,1),(750,1),(750,1),(750,1),(750,1)]
def rls : List (Nat × Nat) := [(1800,1),(750,1),(700,1),(1050,1),(750,1),(900,1),(1800,1)]
def wmo : State := { wan 3 with mon.overs := [0,0,0,3,0,0,0], mon.rails := rls }
def chkRails : ∀ i r, rls[i]? = some r → State.railOut i r.1 = false := by
  intro i r h
  match i with
  | 0 | 1 | 2 | 3 | 4 | 5 | 6 => simp [rls] at h; subst h; decide
  | n + 7 => simp [rls] at h
def x15_34_1 := { wmo with mon.thermBit := true }
def x15_36_1 := { wmo with mon.holdover := true }
def wl2 (n : Nat) : State := { wl with mgm.update := n, mgm.oldBank := some 0, enc.active := 0 }
def x15_38_1 := { wl2 2 with west.leaseHolder := .west, east.leaseHolder := .west }
def x15_39_1 := { wl2 3 with west.running := false }
def x15_40_1 := { wl2 4 with enc.st := 3, enc.active := 1 }
def x15_41_1 := { wl2 4 with enc.st := 3, enc.active := 1 }
def x15_42_1 := { wl2 2 with east.running := false }
def x15_43_1 := { wl2 3 with east.running := false }
def ob (i u : Nat) : Obj := match objAt i u with | some o => o | none => ⟨0,0,0,0,.u8,.const,0,0⟩
def rd (i u off tot : Nat) : Pdu := { path := .mgmt 0, src := 1, tag := 1, offset := off, total := tot, data := [] }
def rmb : Pdu := { rd 0x4110 2 0 0 with path := .mailbox .west false 3 }
def pw (i : Nat) (d : Bytes) : Pdu := pdu d
def psg := signed 0x2070 1 9 [1]
def pr (i k : Nat) := pdu (le 2 i ++ le 1 k)
def x15_51_1 := { rmb with data := [] }
def raw (i u : Nat) : Bytes := le 2 0x5057 ++ le 1 1 ++ le 1 1 ++ le 2 4 ++ le 2 i ++ le 1 u ++ le 1 0 ++ le 2 0 ++ le 4 0 ++ le 4 0 ++ le 2 0 ++ le 2 0
def wmb (k : Nat) : State := { w0 with gel.west := { st := 4, first := false, credits := [100,100,100,100], link := up0, good := 18 }, mgm.mailbox := List.range k }
def pmb (hv : Bool) : Pdu := State.parsePdu (.mailbox .west hv 3) 4 (raw 0x4110 2)

theorem witness_LeaseAndAdmission :
    (wl.Quiet ∧ 5 < 2 ^ 32 ∧ 7 ≤ noCourse ∧ ((wl.half Half.west).leaseSeq < 5 ∨ (wl.half Half.west).leaseSeq = 5 ∧ (wl.half
       Half.west).leaseHolder = Half.east ∧ Half.west = Half.west)) ∧
    (wl.Quiet ∧ 6 < 2 ^ 32 ∧ 7 ≤ noCourse ∧ ((wl.half Half.west).leaseSeq < 6 ∨ (wl.half Half.west).leaseSeq = 6 ∧ (wl.half
       Half.west).leaseHolder = Half.east ∧ Half.east = Half.west)) ∧
    (wl.Quiet ∧ 5 < 2 ^ 32 ∧ 7 ≤ noCourse ∧ (5 < (wl.half Half.west).leaseSeq ∨ (wl.half Half.west).leaseSeq = 5 ∧ Half.east =
       Half.east)) ∧
    (wl.Quiet ∧ 4 < 2 ^ 32 ∧ 7 ≤ noCourse ∧ (4 < (wl.half Half.west).leaseSeq ∨ (wl.half Half.west).leaseSeq = 4 ∧ Half.west =
       Half.east)) ∧
    (wl.Quiet ∧ (wl.half Half.west).running = true) ∧
    (wl.Quiet ∧ (wl.half Half.east).running = true) ∧
    (x15_6_1.Quiet ∧ (x15_6_1.half Half.east).running = false) ∧
    (x15_7_1.Quiet ∧ (x15_7_1.half Half.east).running = false) ∧
    (x15_9_1.Quiet ∧ x15_9_1.avl.purlinUp = false) ∧
    (wl.Quiet ∧ (∀ (o : OutReq), o ∈ wl.eng.outs → wl.acrossPurlin (State.accHalf o.acc) o.node = false) ∧ wl.avl.purlinUp = true
       ∧ wl.spanningJobs = [] ∧ wl.plc.moves = [] ∧ wl.ylx.moves = []) ∧
    (x15_11_1.Quiet ∧ x15_11_1.avl.purlinUp = false) ∧
    (x15_12_1.Quiet ∧ x15_12_1.avl.purlinUp = false ∧ x15_12_1.west.course ≠ noCourse ∧ x15_12_1.east.course ≠ noCourse) ∧
    (wl.Quiet ∧ pad.wf = true ∧ (wl.begun 3).Takes pad 0x6F00 3 ∧ (wl.begun 3).Authorized pad 0x6F00 3 0 9 ∧ (∀ (r : Nat × Nat ×
       Nat), r ∈ State.admissionRanges pad.data → r.fst % 65536 = 0 ∧ r.snd.fst % 65536 = 0 ∧ r.snd.snd ≠ 0 ∧ wl.oneContext
       r.snd.fst r.snd.snd = true) ∧ 1 ≤ field 10 1 pad.data ∧ field 10 1 pad.data ≤ 64 ∧ wl.isRoofPeer (field 0 2 pad.data) =
       true ∧ (wl.node (field 0 2 pad.data)).health.expelled = false ∧ wl.avl.admission.st = 0 ∧ wl.course ≠ noCourse ∧ 102 = max
       (field 2 8 pad.data) (wl.course + 2)) ∧
    ((wad 1).Quiet ∧ (wad 1).avl.admission.st = 1 ∧ (wad 1).avl.admission.ranges = [(1048576, 0, 1)] ∧ (wad 1).isSelf (wad
       1).avl.admission.partner = false ∧ (wad 1).wayTo (wad 1).avl.admission.partner ≠ State.Way.unreachable ∧ (wad
       1).avl.purlinUp = true ∧ (wad 1).eng.outs = []) ∧
    ((wad 2).Quiet ∧ (wad 2).avl.admission.st = 2 ∧ (wad 2).eng.outs = [] ∧ (wad 2).admissionBroken = false) := ⟨⟨State.quiet_of _ (by decide +kernel), by decide +kernel⟩,
   ⟨State.quiet_of _ (by decide +kernel), by decide +kernel⟩,
   ⟨State.quiet_of _ (by decide +kernel), by decide +kernel⟩,
   ⟨State.quiet_of _ (by decide +kernel), by decide +kernel⟩,
   ⟨State.quiet_of _ (by decide +kernel), by decide +kernel⟩,
   ⟨State.quiet_of _ (by decide +kernel), by decide +kernel⟩,
   ⟨State.quiet_of _ (by decide +kernel), by decide +kernel⟩,
   ⟨State.quiet_of _ (by decide +kernel), by decide +kernel⟩,
   ⟨State.quiet_of _ (by decide +kernel), by decide +kernel⟩,
   ⟨State.quiet_of _ (by decide +kernel), by first | decide +kernel | (intros; rfl) | (intro _ h; cases h; done) | (intro _ h; cases h; decide +kernel) | (intro k; cases k <;> decide +kernel), by decide +kernel⟩,
   ⟨State.quiet_of _ (by decide +kernel), by decide +kernel⟩,
   ⟨State.quiet_of _ (by decide +kernel), by decide +kernel⟩,
   ⟨State.quiet_of _ (by decide +kernel), State.signed_wf _ _ _ _ (by decide) (by decide +kernel), State.takes_of _ _ _ _ (by decide +kernel), State.signed_authorized _ _ _ _ _ (by decide +kernel), by first | decide +kernel | (intros; rfl) | (intro _ h; cases h; done) | (intro _ h; cases h; decide +kernel) | (intro k; cases k <;> decide +kernel), by decide +kernel⟩,
   ⟨State.quiet_of _ (by decide +kernel), by decide +kernel⟩,
   ⟨State.quiet_of _ (by decide +kernel), by decide +kernel⟩⟩


theorem witness_ManagementEvents :
    ((wan 3).Quiet ∧ 2 < 4 ∧ 773 < 65536 ∧ 0x6805 < 65536) ∧
    ((wan 3).Quiet ∧ 2 < 4 ∧ 66309 < 2 ^ 32 ∧ (wan 3).mgm.announces = [{ sub := 2, seq := 66309, sends := 3 : Announce }] ∧ 3 < 8) ∧
    ((wan 8).Quiet ∧ 2 < 4 ∧ 66309 < 2 ^ 32 ∧ (wan 8).mgm.announces = [{ sub := 2, seq := 66309, sends := 8 : Announce }] ∧ 8 ≤ 8) ∧
    ((wan 3).Quiet ∧ cu (wan 3) = ((wan 3).begun 3).count Half.west 0x1102 3 ∧ 9 < 256 ∧ 12 < 256 ∧ 5 < 256 ∧ (3 ≤ (wan 3).phase ∧
       (wan 3).phase ≤ 10 ∨ (wan 3).phase = 240) ∧ (12 ≠ 0 ∧ 12 ≠ 255)) ∧
    ((wan 3).Quiet ∧ cu (wan 3) = ((wan 3).begun 3).count Half.west 0x1102 3 ∧ 9 < 256 ∧ 255 < 256 ∧ 5 < 256 ∧ (3 ≤ (wan 3).phase
       ∧ (wan 3).phase ≤ 10 ∨ (wan 3).phase = 240) ∧ (255 = 0 ∨ 255 = 255)) ∧
    (x15_25_1.Quiet ∧ cu x15_25_1 = (x15_25_1.begun 3).count Half.west 0x1102 3 ∧ 9 < 256 ∧ 12 < 256 ∧ 5 < 256 ∧ (3 ≤
       x15_25_1.phase ∧ x15_25_1.phase ≤ 10 ∨ x15_25_1.phase = 240) ∧ 5 ∈ [0, 5, 127, 255]) ∧
    ((wan 3).Quiet ∧ cu (wan 3) = ((wan 3).begun 3).count Half.west 0x1102 3 ∧ 9 < 256 ∧ 12 < 256 ∧ 4 < 256 ∧ (3 ≤ (wan 3).phase ∧
       (wan 3).phase ≤ 10 ∨ (wan 3).phase = 240) ∧ ¬4 ∈ [0, 5, 127, 255]) ∧
    ((wan 3).Quiet ∧ 50 < 128 ∧ 2 ≤ (wan 3).phase) ∧
    (x15_28_1.Quiet ∧ 50 < 128 ∧ x15_28_1.phase < 2) ∧
    ((wan 3).Quiet ∧ 3 ≤ (wan 3).phase) ∧
    (wmo.Quiet ∧ (∀ (i : Nat) (r : Nat × Nat), rls[i]? = some r → State.railOut i r.fst = false) ∧ (Instr.monitorSample 3 rls
       [900, 950] 80).wf = true) ∧
    (wmo.Quiet ∧ (∀ (i : Nat) (r : Nat × Nat), rls[i]? = some r → State.railOut i r.fst = false) ∧ (Instr.monitorSample 3 rls
       [900, 1001] 80).wf = true) ∧
    (wmo.Quiet ∧ (∀ (i : Nat) (r : Nat × Nat), rls[i]? = some r → State.railOut i r.fst = false) ∧ (Instr.monitorSample 3 rls []
       80).wf = true) ∧
    (x15_34_1.Quiet ∧ (∀ (i : Nat) (r : Nat × Nat), rls[i]? = some r → State.railOut i r.fst = false) ∧ (Instr.monitorSample 3 rls
       [1200] 80).wf = true) ∧
    (wmo.Quiet ∧ wmo.mon.holdover = false) ∧
    (x15_36_1.Quiet) ∧
    ((wl2 2).Quiet ∧ (wl2 2).mgm.update = 2 ∧ (wl2 2).avl.purlinUp = true) ∧
    (x15_38_1.Quiet ∧ x15_38_1.mgm.update = 2 ∧ x15_38_1.avl.purlinUp = true) ∧
    (x15_39_1.Quiet ∧ x15_39_1.mgm.update = 3) ∧
    (x15_40_1.Quiet ∧ x15_40_1.mgm.update = 4 ∧ x15_40_1.enc.st = 3 ∧ x15_40_1.enc.active < 2) ∧
    (x15_41_1.Quiet ∧ (x15_41_1.mgm.update = 2 ∨ x15_41_1.mgm.update = 3 ∨ x15_41_1.mgm.update = 4)) ∧
    (x15_42_1.Quiet ∧ (x15_42_1.mgm.update = 2 ∨ x15_42_1.mgm.update = 3 ∨ x15_42_1.mgm.update = 4)) ∧
    (x15_43_1.Quiet ∧ (x15_43_1.mgm.update = 2 ∨ x15_43_1.mgm.update = 3 ∨ x15_43_1.mgm.update = 4)) := ⟨⟨State.quiet_of _ (by decide +kernel), by decide +kernel⟩,
   ⟨State.quiet_of _ (by decide +kernel), by decide +kernel⟩,
   ⟨State.quiet_of _ (by decide +kernel), by decide +kernel⟩,
   ⟨State.quiet_of _ (by decide +kernel), rfl, by decide +kernel⟩,
   ⟨State.quiet_of _ (by decide +kernel), rfl, by decide +kernel⟩,
   ⟨State.quiet_of _ (by decide +kernel), rfl, by decide +kernel⟩,
   ⟨State.quiet_of _ (by decide +kernel), rfl, by decide +kernel⟩,
   ⟨State.quiet_of _ (by decide +kernel), by decide +kernel⟩,
   ⟨State.quiet_of _ (by decide +kernel), by decide +kernel⟩,
   ⟨State.quiet_of _ (by decide +kernel), by decide +kernel⟩,
   ⟨State.quiet_of _ (by decide +kernel), chkRails, by decide +kernel⟩,
   ⟨State.quiet_of _ (by decide +kernel), chkRails, by decide +kernel⟩,
   ⟨State.quiet_of _ (by decide +kernel), chkRails, by decide +kernel⟩,
   ⟨State.quiet_of _ (by decide +kernel), chkRails, by decide +kernel⟩,
   ⟨State.quiet_of _ (by decide +kernel), by decide +kernel⟩,
   State.quiet_of _ (by decide +kernel),
   ⟨State.quiet_of _ (by decide +kernel), by decide +kernel⟩,
   ⟨State.quiet_of _ (by decide +kernel), by decide +kernel⟩,
   ⟨State.quiet_of _ (by decide +kernel), by decide +kernel⟩,
   ⟨State.quiet_of _ (by decide +kernel), by decide +kernel⟩,
   ⟨State.quiet_of _ (by decide +kernel), by decide +kernel⟩,
   ⟨State.quiet_of _ (by decide +kernel), by decide +kernel⟩,
   ⟨State.quiet_of _ (by decide +kernel), by decide +kernel⟩⟩


theorem witness_DictionaryAccess :
    (w0.Quiet ∧ 4096 < 65536 ∧ 1 < 256 ∧ (rd 4096 1 0 0).wf = true ∧ State.pduGood (rd 4096 1 0 0) = true ∧ w0.phaseGate (rd 4096
       1 0 0) 4096 1 = State.Gate.go ∧ w0.phase ≠ 240 ∧ objAt 4096 1 = some (ob 4096 1) ∧ (rd 4096 1 0 0).trailer = none ∧
       State.mayRead (rd 4096 1 0 0) 4096 = true ∧ w0.keptReply (rd 4096 1 0 0) 1 4096 1 = none) ∧
    (w0.Quiet ∧ 0x4110 < 65536 ∧ 2 < 256 ∧ (rd 0x4110 2 1 2).wf = true ∧ State.pduGood (rd 0x4110 2 1 2) = true ∧ w0.phaseGate (rd
       0x4110 2 1 2) 0x4110 2 = State.Gate.go ∧ w0.phase ≠ 240 ∧ objAt 0x4110 2 = some (ob 0x4110 2) ∧ (rd 0x4110 2 1 2).trailer =
       none ∧ State.mayRead (rd 0x4110 2 1 2) 0x4110 = true ∧ w0.keptReply (rd 0x4110 2 1 2) 1 0x4110 2 = none) ∧
    (w0.Quiet ∧ 0x4110 < 65536 ∧ 2 < 256 ∧ (rd 0x4110 2 0 0).wf = true ∧ State.pduGood (rd 0x4110 2 0 0) = true ∧ w0.phaseGate (rd
       0x4110 2 0 0) 0x4110 2 = State.Gate.go ∧ w0.phase ≠ 240 ∧ objAt 0x4110 2 = some (ob 0x4110 2) ∧ (rd 0x4110 2 0 0).trailer =
       none ∧ State.mayRead (rd 0x4110 2 0 0) 0x4110 = true ∧ w0.keptReply (rd 0x4110 2 0 0) 3 0x4110 2 = none) ∧
    (w0.Quiet ∧ (w0.begun 3).Takes (pdu (le 8 196608)) 0x3002 2 ∧ State.writeEffect (pdu (le 8 196608)) 0x3002 2 (pdu (le 8
       196608)).data ((w0.begun 3).takePdu (pdu (le 8 196608))) = ((State.writeEffect (pdu (le 8 196608)) 0x3002 2 (pdu (le 8
       196608)).data ((w0.begun 3).takePdu (pdu (le 8 196608)))).fst, (State.writeEffect (pdu (le 8 196608)) 0x3002 2 (pdu (le 8
       196608)).data ((w0.begun 3).takePdu (pdu (le 8 196608)))).snd) ∧ 0x3002 < 65536 ∧ 2 < 256 ∧ (pdu (le 8 196608)).wf = true ∧
       State.pduGood (pdu (le 8 196608)) = true ∧ w0.phaseGate (pdu (le 8 196608)) 0x3002 2 = State.Gate.go ∧ w0.phase ≠ 240 ∧
       objAt 0x3002 2 = some (ob 0x3002 2) ∧ (pdu (le 8 196608)).trailer = none ∧ cmdClass 0x3002 2 (pdu (le 8 196608)).data =
       none) ∧
    (w0.Quiet ∧ psg.wf = true ∧ (w0.begun 3).Takes psg 0x2070 1 ∧ (w0.begun 3).Authorized psg 0x2070 1 0 9 ∧ State.writeEffect psg
       0x2070 1 psg.data ((w0.begun 3).authorized psg 0 9) = ((State.writeEffect psg 0x2070 1 psg.data (ba w0 psg)).fst,
       (State.writeEffect psg 0x2070 1 psg.data (ba w0 psg)).snd) ∧ 0x2070 < 65536 ∧ 1 < 256 ∧ State.pduGood psg = true ∧
       w0.phaseGate psg 0x2070 1 = State.Gate.go ∧ w0.phase ≠ 240 ∧ objAt 0x2070 1 = some (ob 0x2070 1)) ∧
    (w0.Quiet ∧ (w0.begun 3).Takes (pr 0x2070 1) 0x2F01 4 ∧ 0x2F01 < 65536 ∧ 4 < 256 ∧ (pr 0x2070 1).wf = true ∧ State.pduGood (pr
       0x2070 1) = true ∧ w0.phaseGate (pr 0x2070 1) 0x2F01 4 = State.Gate.go ∧ w0.phase ≠ 240 ∧ objAt 0x2F01 4 = some (ob 0x2F01
       4) ∧ (pr 0x2070 1).trailer = none ∧ field 0 2 (pr 0x2070 1).data = 0x2070 ∧ field 2 1 (pr 0x2070 1).data = 1 ∧ objAt 0x2070
       1 = some (ob 0x2070 1) ∧ (8192 ≤ 0x2070 ∧ 0x2070 ≤ 0x2EFF ∧ 1 ≠ 0)) ∧
    (w0.Quiet ∧ (w0.begun 3).Takes (pr 4096 1) 0x2F01 4 ∧ 0x2F01 < 65536 ∧ 4 < 256 ∧ (pr 4096 1).wf = true ∧ State.pduGood (pr
       4096 1) = true ∧ w0.phaseGate (pr 4096 1) 0x2F01 4 = State.Gate.go ∧ w0.phase ≠ 240 ∧ objAt 0x2F01 4 = some (ob 0x2F01 4) ∧
       (pr 4096 1).trailer = none ∧ field 0 2 (pr 4096 1).data = 4096 ∧ field 2 1 (pr 4096 1).data = 1 ∧ objAt 4096 1 = some (ob
       4096 1) ∧ (4096 < 8192 ∨ 0x2EFF < 4096)) ∧
    (w0.Quiet ∧ 0x3001 < 65536 ∧ 2 < 256 ∧ x15_51_1.wf = true ∧ State.pduGood x15_51_1 = true ∧ w0.phaseGate x15_51_1 0x3001 2 =
       State.Gate.go ∧ w0.phase ≠ 240 ∧ objAt 0x3001 2 = some (ob 0x3001 2) ∧ x15_51_1.trailer = none ∧ State.mayRead x15_51_1
       0x3001 = false ∧ w0.keptReply x15_51_1 1 0x3001 2 = none) ∧
    ((wmb 0).Quiet ∧ 0x4110 < 65536 ∧ 2 < 256 ∧ (pmb false).wf = true ∧ State.pduGood (pmb false) = true ∧ (wmb 0).phaseGate (pmb
       false) 0x4110 2 = State.Gate.go ∧ (wmb 0).phase ≠ 240 ∧ objAt 0x4110 2 = some (ob 0x4110 2) ∧ (Instr.mailboxRequest 3
       Half.west false 3 4 (raw 0x4110 2)).wf = true ∧ (wmb 0).endUp Half.west = true ∧ (pmb false).trailer = none ∧ (wmb
       0).mgm.mailbox = [] ∧ pmb false = State.parsePdu (Path.mailbox Half.west false 3) 4 (raw 0x4110 2) ∧ field 3 1 (raw 0x4110
       2) = 1 ∧ field 6 2 (raw 0x4110 2) = 0x4110 ∧ field 8 1 (raw 0x4110 2) = 2 ∧ State.mayRead (pmb false) 0x4110 = true ∧ (wmb
       0).keptReply (pmb false) 1 0x4110 2 = none) ∧
    ((wmb 0).Quiet ∧ 0x4110 < 65536 ∧ 2 < 256 ∧ (pmb true).wf = true ∧ State.pduGood (pmb true) = true ∧ (wmb 0).phaseGate (pmb
       true) 0x4110 2 = State.Gate.go ∧ (wmb 0).phase ≠ 240 ∧ objAt 0x4110 2 = some (ob 0x4110 2) ∧ (Instr.mailboxRequest 3
       Half.west true 3 4 (raw 0x4110 2)).wf = true ∧ (wmb 0).endUp Half.west = true ∧ (pmb true).trailer = none ∧ (wmb
       0).mgm.mailbox = [] ∧ pmb true = State.parsePdu (Path.mailbox Half.west true 3) 4 (raw 0x4110 2) ∧ field 3 1 (raw 0x4110 2)
       = 1 ∧ field 6 2 (raw 0x4110 2) = 0x4110 ∧ field 8 1 (raw 0x4110 2) = 2 ∧ State.mayRead (pmb true) 0x4110 = true ∧ (wmb
       0).keptReply (pmb true) 1 0x4110 2 = none) ∧
    ((wmb 16).Quiet ∧ 0x4110 < 65536 ∧ 2 < 256 ∧ (pmb true).wf = true ∧ State.pduGood (pmb true) = true ∧ (wmb 16).phaseGate (pmb
       true) 0x4110 2 = State.Gate.go ∧ (wmb 16).phase ≠ 240 ∧ objAt 0x4110 2 = some (ob 0x4110 2) ∧ (Instr.mailboxRequest 3
       Half.west true 3 4 (raw 0x4110 2)).wf = true ∧ (wmb 16).endUp Half.west = true ∧ 16 ≤ (wmb 16).mgm.mailbox.length) := ⟨⟨State.quiet_of _ (by decide +kernel), by decide +kernel⟩,
   ⟨State.quiet_of _ (by decide +kernel), by decide +kernel⟩,
   ⟨State.quiet_of _ (by decide +kernel), by decide +kernel⟩,
   ⟨State.quiet_of _ (by decide +kernel), State.takes_of _ _ _ _ (by decide +kernel), rfl, by decide +kernel⟩,
   ⟨State.quiet_of _ (by decide +kernel), State.signed_wf _ _ _ _ (by decide) (by decide +kernel), State.takes_of _ _ _ _ (by decide +kernel), State.signed_authorized _ _ _ _ _ (by decide +kernel), rfl, by decide +kernel⟩,
   ⟨State.quiet_of _ (by decide +kernel), State.takes_of _ _ _ _ (by decide +kernel), by decide +kernel⟩,
   ⟨State.quiet_of _ (by decide +kernel), State.takes_of _ _ _ _ (by decide +kernel), by decide +kernel⟩,
   ⟨State.quiet_of _ (by decide +kernel), by decide +kernel⟩,
   ⟨State.quiet_of _ (by decide +kernel), by decide +kernel⟩,
   ⟨State.quiet_of _ (by decide +kernel), by decide +kernel⟩,
   ⟨State.quiet_of _ (by decide +kernel), by decide +kernel⟩⟩

end B15
namespace B16

def prg := signed 0x3FF0 1 9 (le 1 4 ++ le 2 9 ++ le 2 3)
def ba2 (s : State) (p : Pdu) : State := (s.begun 3).authorized p 0 9
def wag (st : Nat) : State := { w0 with rdg := { mode := 1, agents := [(0, { state := 1, node := 5 }), (4, { state := st, node := 9, tag := 3 })] } }
def wna : State := { w0 with rdg.agents := [] }
def pdg := signed 0x3FF0 2 9 (le 1 4)
def pmd (m : Nat) := signed 0x3FF0 3 9 (le 1 m)
def prb := signed 0x3FF0 4 9 []
def wdn : State := { w0 with rdg := { mode := 0, agents := [(0, { state := 1, node := 5 })] } }
def wrb : State := { w0 with rdg := { mode := 0, rebuild := some prb, downLines := [7], agents := [(0, { state := 1, node := 5 }), (4, { state := 4, node := 9 })] } }

theorem witness_AgentCommands :
    (wna.Quiet ∧ prg.wf = true ∧ (wna.begun 3).Takes prg 0x3FF0 1 ∧ (wna.begun 3).Authorized prg 0x3FF0 1 0 9 ∧ wna.west.dir = []
       ∧ wna.east.dir = [] ∧ wna.west.pend = [] ∧ wna.east.pend = [] ∧ wna.west.recalls = [] ∧ wna.east.recalls = [] ∧ field 0 1
       prg.data = 4 ∧ 1 ≤ 4 ∧ 4 < 64 ∧ wna.rdg.agents = []) ∧
    ((wag 1).Quiet ∧ pdg.wf = true ∧ ((wag 1).begun 3).Takes pdg 0x3FF0 2 ∧ ((wag 1).begun 3).Authorized pdg 0x3FF0 2 0 9 ∧ (wag
       1).west.dir = [] ∧ (wag 1).east.dir = [] ∧ (wag 1).west.pend = [] ∧ (wag 1).east.pend = [] ∧ (wag 1).west.recalls = [] ∧
       (wag 1).east.recalls = [] ∧ field 0 1 pdg.data = 4 ∧ 1 ≤ 4 ∧ ((wag 1).agentRec 4).state = 1) ∧
    ((wag 2).Quiet ∧ (pdu [4]).wf = true ∧ (wag 2).west.dir = [] ∧ (wag 2).east.dir = [] ∧ (wag 2).west.pend = [] ∧ (wag
       2).east.pend = [] ∧ (wag 2).west.recalls = [] ∧ (wag 2).east.recalls = [] ∧ 1 ≤ 4 ∧ 4 < 64 ∧ ((wag 2).agentRec 4).state = 2
       ∧ ((wag 2).agentRec 0).state = 1) ∧
    ((wag 3).Quiet ∧ (pdu [4]).wf = true ∧ (wag 3).west.dir = [] ∧ (wag 3).east.dir = [] ∧ (wag 3).west.pend = [] ∧ (wag
       3).east.pend = [] ∧ (wag 3).west.recalls = [] ∧ (wag 3).east.recalls = [] ∧ 1 ≤ 4 ∧ 4 < 64 ∧ ((wag 3).agentRec 4).state = 3
       ∧ ((wag 3).agentRec 0).state = 1) ∧
    ((wag 1).Quiet ∧ (pmd 1).wf = true ∧ ((wag 1).begun 3).Takes (pmd 1) 0x3FF0 3 ∧ ((wag 1).begun 3).Authorized (pmd 1) 0x3FF0 3
       0 9 ∧ (wag 1).west.dir = [] ∧ (wag 1).east.dir = [] ∧ (wag 1).west.pend = [] ∧ (wag 1).east.pend = [] ∧ (wag
       1).west.recalls = [] ∧ (wag 1).east.recalls = [] ∧ field 0 1 (pmd 1).data = 1 ∧ (1 = 1 ∨ 1 = 2) ∧ (wag 1).rdg.mode ≠ 0) ∧
    ((wag 1).Quiet ∧ (pmd 2).wf = true ∧ ((wag 1).begun 3).Takes (pmd 2) 0x3FF0 3 ∧ ((wag 1).begun 3).Authorized (pmd 2) 0x3FF0 3
       0 9 ∧ (wag 1).west.dir = [] ∧ (wag 1).east.dir = [] ∧ (wag 1).west.pend = [] ∧ (wag 1).east.pend = [] ∧ (wag
       1).west.recalls = [] ∧ (wag 1).east.recalls = [] ∧ field 0 1 (pmd 2).data = 2 ∧ (2 = 1 ∨ 2 = 2) ∧ (wag 1).rdg.mode ≠ 0) ∧
    (wdn.Quiet ∧ prb.wf = true ∧ (wdn.begun 3).Takes prb 0x3FF0 4 ∧ (wdn.begun 3).Authorized prb 0x3FF0 4 0 9 ∧ wdn.west.dir = []
       ∧ wdn.east.dir = [] ∧ wdn.west.pend = [] ∧ wdn.east.pend = [] ∧ wdn.west.recalls = [] ∧ wdn.east.recalls = [] ∧
       wdn.rdg.mode = 0 ∧ wdn.rdg.rebuild = none) ∧
    (wrb.Quiet ∧ wrb.rdg.rebuild = some prb ∧ wrb.rdg.mode = 0 ∧ wrb.rdg.blocked = [] ∧ wrb.plc.moves = [] ∧ wrb.ylx.moves = []) := ⟨⟨State.quiet_of _ (by decide +kernel), State.signed_wf _ _ _ _ (by decide) (by decide +kernel), State.takes_of _ _ _ _ (by decide +kernel), State.signed_authorized _ _ _ _ _ (by decide +kernel), by decide +kernel⟩,
   ⟨State.quiet_of _ (by decide +kernel), State.signed_wf _ _ _ _ (by decide) (by decide +kernel), State.takes_of _ _ _ _ (by decide +kernel), State.signed_authorized _ _ _ _ _ (by decide +kernel), by decide +kernel⟩,
   ⟨State.quiet_of _ (by decide +kernel), by decide +kernel⟩,
   ⟨State.quiet_of _ (by decide +kernel), by decide +kernel⟩,
   ⟨State.quiet_of _ (by decide +kernel), State.signed_wf _ _ _ _ (by decide) (by decide +kernel), State.takes_of _ _ _ _ (by decide +kernel), State.signed_authorized _ _ _ _ _ (by decide +kernel), by decide +kernel⟩,
   ⟨State.quiet_of _ (by decide +kernel), State.signed_wf _ _ _ _ (by decide) (by decide +kernel), State.takes_of _ _ _ _ (by decide +kernel), State.signed_authorized _ _ _ _ _ (by decide +kernel), by decide +kernel⟩,
   ⟨State.quiet_of _ (by decide +kernel), State.signed_wf _ _ _ _ (by decide) (by decide +kernel), State.takes_of _ _ _ _ (by decide +kernel), State.signed_authorized _ _ _ _ _ (by decide +kernel), by decide +kernel⟩,
   ⟨State.quiet_of _ (by decide +kernel), rfl, by decide +kernel⟩⟩

end B16
namespace B17


theorem witness_DebugPortLevels_2 :
    (w0.Quiet ∧ 8 < 2 ^ 32 ∧ 9 < 2 ^ 32) := ⟨State.quiet_of _ (by decide +kernel), by decide +kernel⟩

end B17

end Sys2Proof.Tests
end

section
/-! PROOFS. Near memory: which operations leave its bytes alone, and that every operation keeps its canonical form. -/

namespace Sys2Proof.Machine
namespace State

/-! ### Operations that leave the bytes of near memory alone -/

@[simp] theorem setMeta_mem (s : State) (b : Nat) (f : Meta → Meta) : (s.setMeta b f).near.mem = s.near.mem := rfl

/-- Poison is a mark on a line: the bytes stay (R207). -/
@[simp] theorem poisonLine_mem (s : State) (l : Nat) : (s.poisonLine l).near.mem = s.near.mem := by
  simp only [poisonLine, setMeta_mem]
  split
  · rfl
  · rw [count_near]

/-- A line that loses its poison keeps its bytes; the crc of its block may be computed again (R207, R208). -/
@[simp] theorem cleanLine_mem (s : State) (l : Nat) : (s.cleanLine l).near.mem = s.near.mem := by
  simp only [cleanLine]
  split <;> rfl

/-- A fold of operations that each keep the canonical form keeps it. -/
theorem foldl_memOk {α : Type} (f : State → α → State) (hf : ∀ (s : State) (x : α), s.MemOk → (f s x).MemOk) (l : List α)
    (s : State) (h : s.MemOk) : (l.foldl f s).MemOk :=
  List.foldlRecOn l f h fun s hs x _ => hf s x hs

/-! ### Operations that write bytes -/

theorem storeBytes_memOk (s : State) (off : Nat) (bs : Bytes) (h : s.MemOk) : (s.storeBytes off bs).MemOk :=
  memPutAll_wf off bs s.near.mem h

theorem poisonLine_memOk (s : State) (l : Nat) (h : s.MemOk) : (s.poisonLine l).MemOk := by
  simpa [MemOk] using h

theorem writeInBlock_memOk (s : State) (off : Nat) (bs : Bytes) (h : s.MemOk) : (s.writeInBlock off bs).MemOk := by
  unfold writeInBlock
  split
  · exact h
  · apply foldl_memOk
    · intro s i hs
      dsimp only
      split
      · simpa [MemOk] using hs
      · exact hs
    · apply storeBytes_memOk
      split <;> exact h

/-- A write is one write in its block, or one in each of two blocks. -/
theorem writeNear_memOk (s : State) (off : Nat) (bs : Bytes) (h : s.MemOk) : (s.writeNear off bs).MemOk := by
  unfold writeNear
  dsimp only
  split
  · exact writeInBlock_memOk _ _ _ (writeInBlock_memOk _ _ _ h)
  · exact writeInBlock_memOk _ _ _ h

theorem writeBlock_memOk (s : State) (b : Nat) (d : Bytes) (crc : BitVec 32) (tag poison st hold : Nat) (h : s.MemOk) :
    (s.writeBlock b d crc tag poison st hold).MemOk := by
  unfold writeBlock
  split
  · exact h
  · dsimp only
    rw [MemOk, setMeta_mem]
    apply foldl_memOk
    · intro s i hs
      split
      · exact poisonLine_memOk s _ hs
      · exact hs
    · exact storeBytes_memOk s _ _ h

theorem zeroBlock_memOk (s : State) (b : Nat) (h : s.MemOk) : (s.zeroBlock b).MemOk :=
  writeBlock_memOk s b _ _ _ _ _ _ h

end State

/-- Settles O6: bytes change by `memPut` alone, which keeps the canonical form, and marking lines changes no byte. -/
theorem memoryStaysCanonical : Obligations.MemoryStaysCanonical := by
  intro s h
  exact ⟨fun off bs => s.storeBytes_memOk off bs h, fun l => s.poisonLine_memOk l h, fun off bs => s.writeNear_memOk off bs h,
    fun b d crc tag p st hold => s.writeBlock_memOk b d crc tag p st hold h, fun b => s.zeroBlock_memOk b h⟩

end Sys2Proof.Machine
end

section
/-! PROOFS. The block as a whole: every command is taken by the frame of `run`. -/

namespace Sys2Proof.Machine

/-- A meaning given by its effect alone is that effect, what follows from it and the noting of events, in the frame. -/
theorem act_eq_run (c : Instr) (dt : Nat) (f : State → State) :
    ∃ (d : Nat) (g : State → State), ∀ s, act c dt s f = run c.wf d s g :=
  ⟨dt, fun s => State.noteEvents s (f s).settle, fun _ => rfl⟩

/-- Every row's meaning is an effect in the frame of a command, with the row's own form as the test; neither the time that
passes nor the effect depends on the state. A reset and a power loss note no events and leave nothing to follow. -/
theorem exec_eq_run (c : Instr) : ∃ (d : Nat) (g : State → State), ∀ s, exec c s = run c.wf d s g := by
  cases c <;> simp only [exec]
  case reset dt => exact ⟨dt, _, fun _ => rfl⟩
  case powerLoss dt => exact ⟨dt, _, fun _ => rfl⟩
  all_goals exact act_eq_run _ _ _

/-- The frame answers a next state, leaves the queue as it is and lets time pass. -/
theorem run_completes (wf : Bool) (dt : Nat) (s : State) (f : State → State) :
    ∃ t, run wf dt s f = .next t ∧ t.pending = s.pending ∧ t.now = s.now + dt := by
  cases wf with
  | false => exact ⟨_, run_illFormed dt s f, rfl, rfl⟩
  | true => exact ⟨_, run_next dt s f, rfl, rfl⟩

/-- Settles O2: all 218 rows go through `run`, which completes in both of its cases. -/
theorem wellFormedCompletes : Obligations.WellFormedCompletes := by
  intro c s
  obtain ⟨dt, f, hrun⟩ := exec_eq_run c
  rw [hrun s]
  constructor
  · obtain ⟨t, ht, hpend, hnow⟩ := run_completes c.wf dt s f
    exact ⟨t, ht, hpend, by omega⟩
  · intro hwf
    rw [hwf]
    exact ⟨dt, run_illFormed dt s f⟩

end Sys2Proof.Machine
end

section
/-! PROOFS. READ of another node. -/

namespace Sys2Proof.Machine

/-- The answer to a READ leaves by the response channel of the device in service (R312). -/
theorem State.sendReply_read (s : State) (d : Party) (a : Acc) (r : Reply) (hop : a.op = .read) (hphase : s.phase = 0xA) :
    s.sendReply d a r = s.sendTo d 1 (State.replyUnits r) (.mem { r with tag := a.q.tag, ld := s.fab.loadLevel }) := by
  unfold State.sendReply
  simp only [hop, State.loadNow_service s hphase]
  rfl

@[simp] theorem State.loadBytes_length (s : State) (off n : Nat) : (s.loadBytes off n).length = n :=
  State.memGetAll_length s.near.mem off n

/-- A READ of a served request is the answer that carries the bytes: the home reads what memory held before the request was
counted on its port. -/
theorem State.Served.receive_read {s : State} {q : Req} {off : Nat} (h : s.Served q off q.size) (hclean : s.Clean off q.size)
    (hform : State.wellFormed .read q = true) (dt : Nat) :
    (s.begun dt).receive .read q = (s.heard dt q).sendTo (.node q.src q.sid) 1 (4 + State.unitsOf q.size)
      (.mem { tag := q.tag, ld := s.fab.loadLevel, data := s.loadBytes off q.size, tg := (s.metaOf (off / 4096)).tag }) := by
  have hnear : (s.heard dt q).near = s.near := State.heard_near s dt q
  have hserved : (s.heard dt q).Served q off q.size := h.heard dt
  have hcleanHeard : (s.heard dt q).Clean off q.size := by
    intro l hl
    simpa [State.poisoned, hnear] using hclean l hl
  have hbytes : (s.heard dt q).loadBytes off q.size = s.loadBytes off q.size := by simp only [State.loadBytes, hnear]
  have htag : (s.heard dt q).metaOf (off / 4096) = s.metaOf (off / 4096) := by simp only [State.metaOf, hnear]
  rw [h.receive dt .read (.inl rfl) hform rfl, hserved.doRead _ rfl rfl rfl rfl rfl rfl rfl hcleanHeard,
    State.sendReply_read _ _ _ _ rfl hserved.service, State.heard_load, hbytes, htag]
  simp [State.replyUnits, ofBool]

theorem exec_read (dt : Nat) (q : Req) (s : State) :
    exec (.read dt q) s = act (.read dt q) dt s (fun s => s.receive .read q) := rfl

/-- Settles O9: the request reaches its home, the home reads, and the answer leaves nothing else to do. -/
theorem readAnswersNode : Obligations.ReadAnswersNode := by
  intro dt q s off hwf hform hserved hclean
  rw [exec_read]
  exact State.idle_sends (State.sends_sendTo (s.heard dt q) _ _ _ _) (hserved.heard dt).quiet _ dt _ hwf
    (hserved.receive_read hclean hform dt)

end Sys2Proof.Machine
end

section
/-! PROOFS. Course messages, edge numbers, early edges and the silent beacon. -/

namespace Sys2Proof.Machine
namespace State

/-! ### The number of an edge -/

/-- With a course begun before and one still to begin, an edge is numbered by comparing its announcement with the next
number (R32). -/
theorem numberOf_begun (prev : Nat) (armed : Option Nat) (h : prev + 1 < noCourse) :
    numberOf prev armed = match armed with
      | none => (some (prev + 1), some (5, 1))
      | some a =>
          if a = prev + 1 then (some a, none)
          else if prev + 1 < a then (some a, some (7, a - (prev + 1)))
          else (some (prev + 1), some (6, 1)) := by
  have hbegun : prev ≠ noCourse := by omega
  have hleft : prev + 1 ≠ noCourse := by omega
  cases armed <;> simp [numberOf, hbegun, hleft]

/-! ### Messages -/

/-- What has come for this device is handled here (R319). -/
theorem orPass_forUs {v : Via} (h : forUs v = true) (s : State) (x : Inner) (here : Via → State → State) :
    s.orPass v x here = here v s := by
  cases v with
  | onward p t => cases h
  | port p => rfl
  | batch p => rfl
  | geled e hv => rfl

theorem Sends.fromSource {s t : State} (k : s.Sends t) (v : Via) : t.fromSource v = s.fromSource v := by
  simp [State.fromSource, k.cfg]

theorem Sends.west_armed {s t : State} (k : s.Sends t) : t.west.armed = s.west.armed :=
  Sends.at' k .west HalfSt.armed fun _ => rfl

theorem Sends.east_armed {s t : State} (k : s.Sends t) : t.east.armed = s.east.armed :=
  Sends.at' k .east HalfSt.armed fun _ => rfl

/-- Arming both halves leaves nothing to do. -/
theorem Quiet.modBoth {s : State} (h : s.Quiet) (f : HalfSt → HalfSt) : (s.modBoth f).Quiet :=
  ⟨h.todo, h.retries, h.fronts, h.behind, h.fences, h.waiting, h.retracts⟩

/-- A message of the course source while the purlin is up arms both halves; one that finds an announcement in either half is
counted first (R30, R32). -/
theorem courseHeard_source (s : State) (v : Via) (c : Nat) (hc : c ≠ noCourse) (hup : s.avl.purlinUp = true)
    (hsrc : s.fromSource v = true) :
    s.courseHeard v c =
      (if s.west.armed.isSome || s.east.armed.isSome then (s.countArrival v 3 5).count (viaHalf v) 0x4020 6
        else s.countArrival v 3 5).modBoth (fun x => { x with armed := some c }) := by
  have k := sends_countArrival s v 3 5
  have hcount : ∀ (b : Bool) (t : State), t.avl.purlinUp = true →
      (if b then t.count (viaHalf v) 0x4020 6 else t).avl.purlinUp = true := by
    intro b t ht
    cases b <;> simpa using ht
  have hupHeard : (s.countArrival v 3 5).avl.purlinUp = true := by rw [k.avl, hup]
  unfold courseHeard
  simp only [k.fromSource, hsrc, hupHeard, hc, k.west_armed, k.east_armed, hcount, beq_iff_eq, Bool.not_true,
    if_true, Bool.false_or, if_false]
  rfl

/-- A message from anywhere else is only counted (R30). -/
theorem courseHeard_other (s : State) (v : Via) (c : Nat) (hsrc : s.fromSource v = false) :
    s.courseHeard v c = (s.countArrival v 3 5).count (viaHalf v) 0x4020 6 := by
  unfold courseHeard
  simp [(sends_countArrival s v 3 5).fromSource, hsrc]

/-! ### Edges that are not accepted -/

/-- An edge that comes too early is counted, and nothing else (R27). -/
theorem beaconEdge_early (s : State) (u : Nat) (h8 : 8 ≤ s.phase) (hA : s.phase ≤ 0xA) (hlast : s.crs.lastEdge = some u)
    (hearly : s.now < u + edgeSpacing) : s.beaconEdge = s.count s.holder 0x4020 4 := by
  have hphase : ¬ (s.phase < 8 ∨ 0xA < s.phase) := by omega
  simp [beaconEdge, hphase, hlast, hearly]

/-- Before phase 0x08 an edge is not seen (R478). -/
theorem beaconEdge_unseen (s : State) (h : s.phase < 8) : s.beaconEdge = s := by
  simp [beaconEdge, h]

/-! ### Gutter records and events -/

/-- An announcement is messages, and is remembered until each subscriber has acknowledged it (R440). -/
theorem announceRecord_shape (s : State) (h : Half) (q : Nat) :
    ∃ (m : Mgmt) (os : List Out), m.nextSeq = s.mgm.nextSeq ∧
      s.announceRecord h q = ({ s with mgm := m } : State).emitAll os :=
  ⟨(s.announceRecord h q).mgm, _, rfl, rfl⟩

/-- A gutter record is one event of its half, a new management state and announcements; the record it overwrites unread is
counted (R392, R440). -/
theorem gutter_shape (s : State) (h : Half) (a b c d sev fl sc ga cx j cn : Nat) (dt : Bytes) :
    ∃ (t : State) (m : Mgmt) (os : List Out), (t = s ∨ t = s.count h 0x6000 3) ∧ m.nextSeq = (s.mgm.nextSeq + 1) % 2 ^ 32 ∧
      s.gutter h a b c d sev fl sc ga cx j cn dt = ({ t.raiseEvt h 0 with mgm := m } : State).emitAll os := by
  have raised : ∀ (t : State) (n : Mgmt), (t = s ∨ t = s.count h 0x6000 3) → n.nextSeq = (s.mgm.nextSeq + 1) % 2 ^ 32 →
      ∃ (u : State) (m : Mgmt) (os : List Out), (u = s ∨ u = s.count h 0x6000 3) ∧
        m.nextSeq = (s.mgm.nextSeq + 1) % 2 ^ 32 ∧
        ((({ t with mgm := n } : State).raiseEvt h 0).announceRecord h s.mgm.nextSeq) =
          ({ u.raiseEvt h 0 with mgm := m } : State).emitAll os := by
    intro t n ht hn
    obtain ⟨m, os, hm, he⟩ := announceRecord_shape (({ t with mgm := n } : State).raiseEvt h 0) h s.mgm.nextSeq
    exact ⟨t, m, os, ht, by rw [hm, raiseEvt_mgm]; exact hn, by rw [he]; cases h <;> rfl⟩
  unfold gutter
  apply raised
  · split
    · split
      · exact .inl rfl
      · exact .inr rfl
    · exact .inl rfl
  · rfl

/-- A raised event stays raised when another is. -/
theorem raiseEvt_keeps_bit (s : State) (g h : Half) (b i : Nat) (hi : (s.half g).regs.evtStat.getLsbD i = true) :
    ((s.raiseEvt h b).half g).regs.evtStat.getLsbD i = true := by
  cases g <;> cases h <;> simp_all [raiseEvt, modHalf, State.half]

theorem raiseEvt_sets_bit (s : State) (h : Half) (b : Nat) (hb : b < 32) :
    ((s.raiseEvt h b).half h).regs.evtStat.getLsbD b = true := by
  cases h <;> simp [raiseEvt, modHalf, State.half, hb]

/-- A gutter record raises its own event and takes none back. -/
theorem gutter_keeps_bit (s : State) (g h : Half) (a b c d sev fl sc ga cx j cn : Nat) (dt : Bytes) (i : Nat)
    (hi : (s.half g).regs.evtStat.getLsbD i = true) :
    ((s.gutter h a b c d sev fl sc ga cx j cn dt).half g).regs.evtStat.getLsbD i = true := by
  obtain ⟨t, m, os, ht, -, he⟩ := gutter_shape s h a b c d sev fl sc ga cx j cn dt
  have hregs : (t.half g).regs = (s.half g).regs := by
    rcases ht with rfl | rfl
    · rfl
    · cases g
      · exact count_west_regs _ _ _ _ _
      · exact count_east_regs _ _ _ _ _
  have hbit := raiseEvt_keeps_bit t g h 0 i (by rw [hregs]; exact hi)
  rw [he]
  cases g <;> exact hbit

/-- A gutter record leaves a half as it is but for its counts and registers. -/
theorem gutter_core (s : State) (g h : Half) (a b c d sev fl sc ga cx j cn : Nat) (dt : Bytes) :
    ((s.gutter h a b c d sev fl sc ga cx j cn dt).half g).core = (s.half g).core := by
  obtain ⟨t, m, os, ht, -, he⟩ := gutter_shape s h a b c d sev fl sc ga cx j cn dt
  have hcore : ((t.raiseEvt h 0).half g).core = (s.half g).core := by
    rcases ht with rfl | rfl
    · exact (sends_raiseEvt _ _ _).half g
    · exact ((sends_count s h 0x6000 3 1).trans (sends_raiseEvt _ _ _)).half g
  rw [he]
  cases g <;> exact hcore

theorem gutter_nextSeq (s : State) (h : Half) (a b c d sev fl sc ga cx j cn : Nat) (dt : Bytes) :
    (s.gutter h a b c d sev fl sc ga cx j cn dt).mgm.nextSeq = (s.mgm.nextSeq + 1) % 2 ^ 32 := by
  obtain ⟨t, m, os, -, hm, he⟩ := gutter_shape s h a b c d sev fl sc ga cx j cn dt
  rw [he]
  exact hm

/-- A gutter record leaves nothing to do. -/
theorem Quiet.gutter {s : State} (q : s.Quiet) (h : Half) (a b c d sev fl sc ga cx j cn : Nat) (dt : Bytes) :
    (s.gutter h a b c d sev fl sc ga cx j cn dt).Quiet :=
  ⟨by simpa using q.todo, by simpa using q.retries, by simpa using q.fronts, by simpa using q.behind, by simpa using q.fences,
    by simpa using q.waiting, by simpa using q.retracts⟩

/-! ### The silent beacon -/

/-- The beacon-silent flag, with its event in both halves (R42). -/
def silenced (s : State) : State := ({ s with crs.silent := true }.raiseEvt .west 2).raiseEvt .east 2

/-- After 10 s the flag is set and a gutter record tells of it (R42). -/
theorem beaconSilent_due (s : State) (h8 : 8 ≤ s.phase) (hA : s.phase ≤ 0xA) (hflag : s.crs.silent = false)
    (hdue : s.crs.silentBase + silenceLimit ≤ s.now) :
    s.beaconSilent = s.silenced.gutter s.silenced.holder 0x18 0x0E 0 0x09 (severity := 3) := by
  have hphase : ¬ (s.phase < 8 ∨ 0xA < s.phase) := by omega
  have hnow : ¬ s.now < s.crs.silentBase + silenceLimit := by omega
  simp [beaconSilent, hphase, hflag, hnow, silenced]

theorem silenced_bit (s : State) (h : Half) : (s.silenced.half h).regs.evtStat.getLsbD 2 = true := by
  cases h
  · exact raiseEvt_keeps_bit _ _ _ _ _ (raiseEvt_sets_bit _ .west 2 (by decide))
  · exact raiseEvt_sets_bit _ .east 2 (by decide)

theorem silenced_core (s : State) (h : Half) : (s.silenced.half h).core = (s.half h).core := by
  cases h <;> rfl

theorem Quiet.silenced {s : State} (q : s.Quiet) : s.silenced.Quiet :=
  ⟨q.todo, q.retries, q.fronts, q.behind, q.fences, q.waiting, q.retracts⟩

/-- What the registers note of a command takes no event back (R465). -/
theorem after_keeps_bit (s : State) (dt : Nat) (u : State) (h : Half) (i : Nat)
    (hi : (u.half h).regs.evtStat.getLsbD i = true) : ((s.after dt u).half h).regs.evtStat.getLsbD i = true := by
  have hnote : ∀ x : HalfSt, x.regs.evtStat.getLsbD i = true → (noteRegs (s.begun dt) u h x).regs.evtStat.getLsbD i = true := by
    intro x hx
    unfold noteRegs
    dsimp only
    split <;> simp [hx]
  cases h <;> exact hnote _ hi

end State

/-! ### The obligations -/

theorem exec_courseMessage (dt : Nat) (via : Via) (c : Nat) (s : State) :
    exec (.courseMessage dt via c) s =
      act (.courseMessage dt via c) dt s (fun s => s.orPass via (.course c) (fun v s => s.courseHeard v c)) := rfl

theorem exec_courseBeaconEdge (dt : Nat) (s : State) :
    exec (.courseBeaconEdge dt) s = act (.courseBeaconEdge dt) dt s (fun s => s.beaconEdge) := rfl

theorem exec_beaconSilenceTimeout (dt : Nat) (s : State) :
    exec (.beaconSilenceTimeout dt) s = act (.beaconSilenceTimeout dt) dt s (fun s => s.beaconSilent) := rfl

/-- A course message for this device is what its half makes of it, when that leaves nothing to do. -/
theorem exec_courseMessage_idle (dt : Nat) (via : Via) (c : Nat) (s u : State) (hwf : (Instr.courseMessage dt via c).wf = true)
    (hus : forUs via = true) (hu : (s.begun dt).courseHeard via c = u) (hq : u.Quiet) :
    exec (.courseMessage dt via c) s = .next (s.after dt u) := by
  have he := State.orPass_forUs hus (s.begun dt) (.course c) (fun v s => s.courseHeard v c)
  rw [exec_courseMessage, act_idle _ _ _ _ hwf]
  · rw [he, hu]
  · rw [he, hu]; exact hq

/-- Settles O17: the three ways an announcement can compare with the next number, and none at all. -/
theorem edgeNumber : Obligations.EdgeNumber := by
  intro prev a h
  have number := fun armed => State.numberOf_begun prev armed h
  refine ⟨number none, ?_, ?_, ?_⟩ <;> intro ha <;> rw [number]
  · simp [ha]
  · simp [ha, Nat.ne_of_gt ha]
  · simp [Nat.ne_of_lt (Nat.lt_succ_of_le ha), Nat.not_lt.mpr (Nat.le_succ_of_le ha)]

/-- Settles O18: counting a message leaves the halves' announcements and the slate's source as they are. -/
theorem courseMessageArms : Obligations.CourseMessageArms := by
  intro dt via c s hquiet hwf hus hc hup
  have hheard : ((s.begun dt).countArrival via 3 5).Quiet := (State.sends_countArrival _ _ _ _).quiet (hquiet.begun dt)
  have hcounted : (((s.begun dt).countArrival via 3 5).count (viaHalf via) 0x4020 6).Quiet :=
    (State.sends_count _ _ _ _ _).quiet hheard
  refine ⟨?_, ?_, ?_⟩
  · intro hsrc hwest heast
    refine exec_courseMessage_idle dt via c s _ hwf hus ?_ (hheard.modBoth _)
    have hnone : ((s.begun dt).west.armed.isSome || (s.begun dt).east.armed.isSome) = false := by
      simp [State.begun, hwest, heast]
    rw [State.courseHeard_source (s.begun dt) via c hc hup hsrc, hnone]
    rfl
  · intro hsrc hwest
    refine exec_courseMessage_idle dt via c s _ hwf hus ?_ (hcounted.modBoth _)
    have hsome : ((s.begun dt).west.armed.isSome || (s.begun dt).east.armed.isSome) = true := by
      simp [State.begun, Option.isSome_iff_ne_none, hwest]
    rw [State.courseHeard_source (s.begun dt) via c hc hup hsrc, hsome]
    rfl
  · intro hsrc
    exact exec_courseMessage_idle dt via c s _ hwf hus (State.courseHeard_other _ via c hsrc) hcounted

/-- Settles O19: neither an early edge nor one before phase 0x08 leaves anything to do. -/
theorem earlyEdgeIgnored : Obligations.EarlyEdgeIgnored := by
  intro dt u s hquiet
  have hbegun : (s.begun dt).Quiet := hquiet.begun dt
  refine ⟨fun h8 hA hlast hearly => ?_, fun hphase => ?_⟩
  · rw [exec_courseBeaconEdge]
    exact State.idle_sends (State.sends_count _ _ _ _ _) hbegun _ dt _ rfl
      (State.beaconEdge_early (s.begun dt) u h8 hA hlast hearly)
  · rw [exec_courseBeaconEdge]
    exact State.idle_sends (State.Sends.refl _) hbegun _ dt _ rfl (State.beaconEdge_unseen (s.begun dt) hphase)

/-- Settles O20: the flag and its event are set, and the gutter record that tells of them touches neither a course nor
memory. -/
theorem beaconSilence : Obligations.BeaconSilence := by
  intro dt s hquiet h8 hA hflag hdue
  have hsilent := State.beaconSilent_due (s.begun dt) h8 hA hflag hdue
  have hq : ((s.begun dt).beaconSilent).Quiet := by
    rw [hsilent]; exact (hquiet.begun dt).silenced.gutter ..
  refine ⟨_, (exec_beaconSilenceTimeout dt s).trans (act_idle _ dt s _ rfl hq), ?_⟩
  have hcore : ∀ h, ((s.begun dt).beaconSilent.half h).core = (s.half h).core := by
    intro h
    rw [hsilent]
    exact (State.gutter_core ..).trans (State.silenced_core (s.begun dt) h)
  have hcourse : ∀ h, ((s.begun dt).beaconSilent.half h).course = (s.half h).course :=
    fun h => (congrArg HalfSt.course (hcore h) :)
  have hbit : ∀ h, ((s.after dt (s.begun dt).beaconSilent).half h).regs.evtStat.getLsbD 2 = true := by
    intro h
    apply State.after_keeps_bit
    rw [hsilent]
    exact State.gutter_keeps_bit (hi := State.silenced_bit _ h) ..
  refine ⟨?_, hcourse .west, hcourse .east, hbit .west, hbit .east, ?_, ?_, ?_, ?_, ?_, ?_⟩
  all_goals simp only [State.after, State.noteEvents_crs, hsilent]
  all_goals simp [State.silenced, State.begun, State.gutter_nextSeq]

end Sys2Proof.Machine
end

section
/-! PROOFS. The number a course message gives an edge, and the steps of a boundary that find nothing to do on a device with
nothing placed, moved, tracked or scheduled. -/

namespace Sys2Proof.Machine
namespace State

/-! ### Counts and registers -/

/-- `t` is `s` but for messages, counts and what registers show; its ports are as they were. -/
structure Notes (s t : State) : Prop where
  sends : s.Sends t
  fab : t.fab = s.fab

theorem Notes.refl (s : State) : s.Notes s := ⟨Sends.refl s, rfl⟩

theorem Notes.trans {s t u : State} (h : s.Notes t) (k : t.Notes u) : s.Notes u :=
  ⟨h.sends.trans k.sends, k.fab.trans h.fab⟩

theorem notes_count (s : State) (h : Half) (i j n : Nat) : s.Notes (s.count h i j n) :=
  ⟨sends_count s h i j n, count_fab s h i j n⟩

theorem notes_raiseEvt (s : State) (h : Half) (b : Nat) : s.Notes (s.raiseEvt h b) :=
  ⟨sends_raiseEvt s h b, raiseEvt_fab s h b⟩

/-- Whether start-up is held does not depend on counts and registers (R475). -/
theorem Sends.startupHeld {s t : State} (k : s.Sends t) : t.startupHeld = s.startupHeld := by
  have hwest : t.west.running = s.west.running := Sends.at' k .west HalfSt.running fun _ => rfl
  have heast : t.east.running = s.east.running := Sends.at' k .east HalfSt.running fun _ => rfl
  simp only [State.startupHeld, hwest, heast, k.mgm]

/-! ### The number both halves take -/

/-- Both halves take one number, and their announcements are used up (R29, R32). -/
def numbered (s : State) (c : Nat) : State := s.modBoth (fun x => { x with armed := none, course := c })

theorem Notes.numbered {s t : State} (k : s.Notes t) (c : Nat) : (s.numbered c).Notes (t.numbered c) := by
  have hcore : ∀ x y : HalfSt, x.core = y.core →
      ({ x with armed := none, course := c } : HalfSt).core = ({ y with armed := none, course := c } : HalfSt).core :=
    fun x y hxy => (congrArg (fun z : HalfSt => { z with armed := none, course := c }) hxy :)
  exact ⟨{ k.sends with west := hcore _ _ k.sends.west, east := hcore _ _ k.sends.east }, k.fab⟩

/-- An announcement above the course, or the first one, is the number (R32). -/
theorem numberOf_announced {prev a : Nat} (hprev : prev = noCourse ∨ prev < a) (ha : a < noCourse) :
    (numberOf prev (some a)).1 = some a := by
  rcases hprev with rfl | hlt
  · simp [numberOf]
  · rw [numberOf_begun prev (some a) (by omega)]
    by_cases hnext : a = prev + 1
    · simp [hnext]
    · have hskip : prev + 1 < a := by omega
      simp [hnext, hskip]

/-- With the purlin up an announcement above the course is the number of both halves (R29, R32). -/
theorem numberAll_announced (s : State) {h : Half} {a : Nat} (hup : s.avl.purlinUp = true) (hholder : s.holder = h)
    (harmed : (s.half h).armed = some a) (hprev : s.courseOf h = noCourse ∨ s.courseOf h < a) (ha : a < noCourse) :
    ∃ n, s.numberAll = ([.west, .east], n) ∧ (s.numbered a).Notes n := by
  have hnum := numberOf_announced hprev ha
  have hboth : [Half.west, Half.east].foldl (fun (s : State) k =>
      s.modHalf k (fun x => { x with armed := none, course := (some a).getD x.course })) s = s.numbered a := rfl
  unfold numberAll numberEdge
  simp only [hup, if_true, hholder, harmed, hnum, hboth, Option.isSome_some]
  refine ⟨_, rfl, ?_⟩
  split
  · exact notes_count _ _ _ _ _
  · exact Notes.refl _

/-! ### Accepting an edge -/

/-- What an accepted edge sets before the boundary (R26, R42). -/
def edgeMarked (s : State) : State :=
  { s with crs.lastEdge := some s.now, crs.stamp := s.now, crs.silentBase := s.now, crs.silent := false }

/-- An edge far enough from the last is accepted; with a number in some half it is a boundary (R27, R39). -/
theorem beaconEdge_accepted (s : State) {hs : List Half} {n : State} (h8 : 8 ≤ s.phase) (hA : s.phase ≤ 0xA)
    (hspaced : ∀ u, s.crs.lastEdge = some u → u + edgeSpacing ≤ s.now)
    (hn : ((s.edgeMarked.raiseEvt .west 1).raiseEvt .east 1).numberAll = (hs, n)) (hne : hs ≠ []) :
    s.beaconEdge = n.boundary hs := by
  have hphase : (decide (s.phase < 8) || decide (0xA < s.phase)) = false := by simp; omega
  have hpair : s.beaconEdge = (match ((s.edgeMarked.raiseEvt .west 1).raiseEvt .east 1).numberAll with
      | (hs, n) => if hs.isEmpty then n else n.boundary hs) := by
    unfold beaconEdge
    cases hlast : s.crs.lastEdge with
    | none => simp only [hphase, Bool.false_eq_true, if_false]; rfl
    | some u =>
      have hlate : ¬ s.now < u + edgeSpacing := Nat.not_lt.mpr (hspaced u hlast)
      simp only [hphase, hlate, Bool.false_eq_true, decide_false, if_false]
      rfl
  rw [hpair, hn]
  simp [hne]

/-! ### A device at rest -/

/-- Nothing is placed or moved, no row is tracked, no slate is in effect and nothing is scheduled. -/
structure Still (s : State) : Prop where
  slate : ∀ h, (s.half h).slate = []
  events : ∀ h, (s.half h).events = []
  staged : ∀ h, (s.half h).staged = []
  rejoined : s.crs.rejoined = false
  serving : s.avl.serving = []
  admission : s.avl.admission.st = 0
  rows : s.ylx = {}
  pages : s.plc = { state := s.plc.state }

theorem set_plc_self (s : State) (p : Placement) (hp : p = s.plc) : { s with plc := p } = s := by subst hp; rfl

theorem set_ylx_self (s : State) (y : Yilx) (hy : y = s.ylx) : { s with ylx := y } = s := by subst hy; rfl

theorem modBoth_self (s : State) (f : HalfSt → HalfSt) (hf : ∀ g, f (s.half g) = s.half g) : s.modBoth f = s := by
  have hw : f s.west = s.west := hf .west
  have he : f s.east = s.east := hf .east
  simp [modBoth, hw, he]

@[simp] theorem sortBy_nil {α : Type} (lt : α → α → Bool) : sortBy lt [] = [] := rfl

namespace Still
variable {s t : State}

/-- Counts and registers are no work for a boundary. -/
theorem notes (h : s.Still) (k : s.Notes t) : t.Still where
  slate g := (Sends.at' k.sends g HalfSt.slate fun _ => rfl).trans (h.slate g)
  events g := (Sends.at' k.sends g HalfSt.events fun _ => rfl).trans (h.events g)
  staged g := (Sends.at' k.sends g HalfSt.staged fun _ => rfl).trans (h.staged g)
  rejoined := by rw [k.sends.crs]; exact h.rejoined
  serving := by rw [k.sends.avl]; exact h.serving
  admission := by rw [k.sends.avl]; exact h.admission
  rows := by rw [k.sends.ylx]; exact h.rows
  pages := by rw [k.sends.plc]; exact h.pages

theorem with_state (h : s.Still) (n : Nat) : { s with plc.state := n }.Still where
  slate := h.slate
  events := h.events
  staged := h.staged
  rejoined := h.rejoined
  serving := h.serving
  admission := h.admission
  rows := h.rows
  pages := by rw [h.pages]

theorem roofPeers (h : s.Still) : s.roofPeers = [] := by simp [State.roofPeers, h.slate]

theorem eligible (h : s.Still) (g : Half) : s.eligible g = [] := by simp [State.eligible, h.events]

theorem regions (h : s.Still) : s.plc.regions = [] := congrArg Placement.regions h.pages
theorem counters (h : s.Still) : s.plc.counters = [] := congrArg Placement.counters h.pages
theorem here (h : s.Still) : s.plc.here = [] := congrArg Placement.here h.pages
theorem moves (h : s.Still) : s.plc.moves = [] := congrArg Placement.moves h.pages
theorem hints (h : s.Still) : s.plc.hints = [] := congrArg Placement.hints h.pages

theorem blocksOn (h : s.Still) (k : Nat) : s.blocksOn k = [] := by simp [State.blocksOn, h.rows]

/-! The steps of R39 that find nothing to do. -/

theorem snapCounters (h : s.Still) (g : Half) (c : Nat) : s.snapCounters g c = s := by
  unfold State.snapCounters
  exact set_plc_self s _ (by rw [h.counters, List.map_nil, h.pages])

theorem snapLoads (h : s.Still) : s.snapLoads = s := set_ylx_self s _ (by rw [h.rows]; rfl)

theorem rejoinLists (h : s.Still) : s.rejoinLists = s := by simp [State.rejoinLists, h.rejoined]

theorem compareLists (h : s.Still) : s.compareLists = ([], s) := by simp [State.compareLists, h.eligible]

theorem applyLists (h : s.Still) (hs : List Half) : s.applyLists hs = s := by simp [State.applyLists, h.eligible]

theorem retireForwards (h : s.Still) : s.retireForwards = s := by
  have hplc : ({ s with plc.forwards := [] } : State) = s := set_plc_self s _ (by rw [h.pages])
  have hylx : ({ s with ylx.forwards := [] } : State) = s := set_ylx_self s _ (by rw [h.rows])
  calc s.retireForwards = { ({ s with plc.forwards := [] } : State) with ylx.forwards := [] } := rfl
    _ = s := by rw [hplc, hylx]

theorem commitRows (h : s.Still) : s.commitRows = s := by simp [State.commitRows, h.rows]

theorem commitPages (h : s.Still) : s.commitPages = s := by simp [State.commitPages, h.moves]

theorem endDraining (h : s.Still) : s.endDraining = s := by simp [State.endDraining, h.regions]

theorem admitHere (h : s.Still) (c : Nat) : s.admitHere c = s := by simp [State.admitHere, h.admission]

theorem ageStaged (h : s.Still) : s.ageStaged = s := by
  have hhalf : ∀ x : HalfSt, x.staged = [] →
      { x with staged := x.staged.map (fun (r : Staged) => { r with boundaries := r.boundaries + 1 }) } = x := by
    intro x hx
    rw [hx, List.map_nil, ← hx]
  unfold State.ageStaged
  rw [modBoth_self s _ fun g => hhalf _ (h.staged g)]
  exact set_ylx_self s _ (by rw [h.rows])

theorem selectPages (h : s.Still) (k : Nat) : s.selectPages k = s := by
  have hnone : s.candidates k = [] := by simp [candidates, h.counters, h.hints]
  unfold State.selectPages
  simp only [h.here, List.filter_nil, sortBy_nil, List.foldl_nil, hnone]
  exact set_plc_self s _ (by rw [h.pages]; rfl)

theorem selectAll (h : s.Still) : s.selectAll = { s with plc.state := s.plc.state % 8 } := by
  have hloops : ({ s with plc.state := s.plc.state % 8, plc.loops := [] } : State) = { s with plc.state := s.plc.state % 8 } :=
    set_plc_self { s with plc.state := s.plc.state % 8 } _ (by rw [h.pages])
  have hrest : ({ s with plc.state := s.plc.state % 8 } : State).Still := h.with_state _
  unfold State.selectAll
  rw [hloops]
  have htrims : ({ s with plc.state := s.plc.state % 8 } : State).markTrims = { s with plc.state := s.plc.state % 8 } := by
    simp [markTrims, h.regions]
  have hresume : ({ s with plc.state := s.plc.state % 8 } : State).resumeCopies = { s with plc.state := s.plc.state % 8 } := by
    simp [resumeCopies, h.moves]
  dsimp only
  rw [htrims, hresume, foldl_fixed _ _ _ hrest.selectPages, ite_self]

theorem selectRows (h : s.Still) (k : Nat) : s.selectRows k = s := by
  have hspills : s.ylx.spills = [] := congrArg Yilx.spills h.rows
  unfold State.selectRows
  simp only [h.blocksOn, hspills, List.filterMap_nil, List.filter_nil, sortBy_nil, List.foldl_nil, List.map_nil]
  exact set_ylx_self s _ (by rw [h.rows]; rfl)

theorem selectAllRows (h : s.Still) : s.selectAllRows = s := by
  have hloops : ({ s with ylx.loops := [] } : State) = s := set_ylx_self s _ (by rw [h.rows])
  have hresume : s.resumeRows = s := by simp [resumeRows, h.rows]
  unfold State.selectAllRows
  rw [hloops]
  dsimp only
  rw [hresume, foldl_fixed _ s _ (fun k => by rw [h.selectRows, ite_self]), ite_self]

theorem predict (h : s.Still) (g : Half) : s.predict g = s := by
  have hnone : (((List.range 16).filter (fun k => stackHalf k = g)).map s.blocksOn).flatten = [] := by
    rw [List.flatten_eq_nil_iff]
    intro l hl
    obtain ⟨k, -, rfl⟩ := List.mem_map.mp hl
    exact h.blocksOn k
  unfold State.predict
  split
  · rfl
  · simp only [hnone, sortBy_nil, List.foldl_nil]

end Still

end State
end Sys2Proof.Machine
end

section
/-! PROOFS. The edge at which a course begins on a device at rest: scores, the lease, the first course, and the whole. -/

namespace Sys2Proof.Machine

/-! ### Scores where no part has run -/

/-- A part that a boundary neither expels nor readmits (R379, R382). -/
def Health.fit (x : Health) : Prop := x.due = 0 ∧ x.expelled = false

/-- A good score stays good in one course, whatever its mark (R376, R379). -/
theorem scoreCourse_fit (mark : Nat) {dead : Bool} {h : Health} (hscore : 73 ≤ h.score) (hin : h.expelled = false)
    (hdead : dead = false) : (State.scoreCourse mark dead h).fit := by
  have hkept : ¬ h.score - h.score / 8 + mark / 8 < 64 := by omega
  simp [State.scoreCourse, Health.fit, hkept, hin, hdead]

/-- Every entry of a table made from an index, and the value of any other key, has what the makers have. -/
theorem tgetD_indexed {α : Type} (P : α → Prop) (f : Nat → α) {d : α} (hd : P d) (hf : ∀ i, P (f i)) (n : Nat) (l : List Nat) :
    P (tgetD n d (l.map (fun i => (i, f i)))) := by
  induction l with
  | nil => exact hd
  | cons i l ih =>
    unfold tgetD at ih ⊢
    by_cases hi : i = n
    · simpa [tget, hi] using hf n
    · simpa [tget, hi] using ih

namespace State

theorem laneCourse_fit {s : State} {n : Nat} (h : s.lane n = {}) : (s.laneCourse n).health.fit := by
  unfold laneCourse
  rw [h]
  exact scoreCourse_fit _ (by decide) rfl (by simp)

theorem portCourse_fit {s : State} {p : Nat} (h : s.port p = {}) : (s.portCourse p).health.fit := by
  unfold portCourse
  rw [h]
  exact scoreCourse_fit _ (by decide) rfl (by simp)

theorem moduleCourse_fit {s : State} {m : Nat} (h : s.laserModule m = {}) : (s.moduleCourse m).health.fit := by
  unfold moduleCourse
  rw [h]
  exact scoreCourse_fit _ (by decide) rfl (by simp)

theorem roofPeers_none (s : State) (h : ∀ g, (s.half g).slate = []) : s.roofPeers = [] := by
  simp [roofPeers, h]

/-- A roof without another member has no scores but those of lanes, ports and modules. -/
theorem Still.scoreAll_foldl {s : State} (h : s.Still) (o : Optics) (f : Fabric) (g : State → Nat × Nat → State) :
    ({ s with opt := o, fab := f } : State).roofPeers.foldl g { s with opt := o, fab := f } = { s with opt := o, fab := f } := by
  rw [roofPeers_none { s with opt := o, fab := f } h.slate, List.foldl_nil]

/-- Where no lane, port or module has run, scoring changes their records alone, and no part is due (R376, R379). -/
theorem Still.scoreAll_fit {s : State} (h : s.Still) (hfab : s.fab = {}) (hopt : s.opt = {}) :
    ∃ (o : Optics) (f : Fabric), s.scoreAll = { s with opt := o, fab := f } ∧
      ∀ x, (({ s with opt := o, fab := f } : State).healthOf x).fit := by
  refine ⟨_, _, h.scoreAll_foldl _ _ _, fun x => ?_⟩
  have fresh : ({} : Health).fit := ⟨rfl, rfl⟩
  unfold healthOf
  split
  · exact tgetD_indexed (fun v : Lane => v.health.fit) _ fresh (fun i => laneCourse_fit (by simp [lane, hopt, tgetD])) _ _
  · exact tgetD_indexed (fun v : Port => v.health.fit) _ fresh (fun i => portCourse_fit (by simp [port, hfab, tgetD])) _ _
  · exact tgetD_indexed (fun v : Module => v.health.fit) _ fresh
      (fun i => moduleCourse_fit (by simp [laserModule, hopt, tgetD])) _ _
  · simpa [node, hfab, tgetD] using fresh

/-- Step 6 has nothing to do where no part is due or expelled (R379, R382). -/
theorem expelAll_none {s : State} (hfit : ∀ x, (s.healthOf x).fit) (c : Nat) : s.expelAll c = s := by
  have hdue : ∀ x, (s.healthOf x).due = 0 := fun x => (hfit x).1
  have hin : ∀ x, (s.healthOf x).expelled = false := fun x => (hfit x).2
  have hnever : ∀ l : List PartRef, l.filter (fun _ => false) = [] := fun l =>
    List.filter_eq_nil_iff.mpr fun _ _ => Bool.false_ne_true
  simp only [expelAll, hdue, hin, Nat.reduceBEq, Bool.false_and, hnever, sortBy_nil, List.foldl_nil]

/-! ### The lease -/

/-- Both copies of the record name `h`, with one sequence number (R385). -/
structure Leased (s : State) (h : Half) : Prop where
  west : s.west.leaseHolder = h
  east : s.east.leaseHolder = h
  seq : s.west.leaseSeq = s.east.leaseSeq

theorem Leased.holder {s : State} {h : Half} (l : s.Leased h) : s.holder = h := by
  simp [State.holder, l.west, l.east, l.seq]

theorem Leased.notes {s t : State} {h : Half} (l : s.Leased h) (k : s.Notes t) : t.Leased h where
  west := (Sends.at' k.sends .west HalfSt.leaseHolder fun _ => rfl).trans l.west
  east := (Sends.at' k.sends .east HalfSt.leaseHolder fun _ => rfl).trans l.east
  seq := by
    have hwest : t.west.leaseSeq = s.west.leaseSeq := Sends.at' k.sends .west HalfSt.leaseSeq fun _ => rfl
    have heast : t.east.leaseSeq = s.east.leaseSeq := Sends.at' k.sends .east HalfSt.leaseSeq fun _ => rfl
    rw [hwest, heast, l.seq]

/-- Both copies of the record renewed for course `c` (R385). -/
def leaseRenewed (s : State) (h : Half) (c : Nat) : State :=
  (s.modBoth (fun x => { x with leaseHolder := h, leaseSeq := x.leaseSeq + 1, leaseCourse := c })).emit
    (.lease h.other h (s.west.leaseSeq + 1) c)

/-- The holder renews its record, and the other half takes it over (R385). -/
theorem Leased.renewLease {s : State} {h : Half} (l : s.Leased h) (hup : s.avl.purlinUp = true) :
    s.renewLease = s.leaseRenewed h (s.half h).course := by
  have hseq := l.seq
  unfold State.renewLease
  rw [l.holder]
  cases h <;> simp [sendLease, keepLease, modHalf, State.half, Half.other, hup, hseq, leaseRenewed, modBoth, emit]

theorem Still.leaseRenewed {s : State} (h : s.Still) (g : Half) (c : Nat) : (s.leaseRenewed g c).Still where
  slate := fun | .west => h.slate .west | .east => h.slate .east
  events := fun | .west => h.events .west | .east => h.events .east
  staged := fun | .west => h.staged .west | .east => h.staged .east
  rejoined := h.rejoined
  serving := h.serving
  admission := h.admission
  rows := h.rows
  pages := h.pages

/-! ### The first course -/

/-- The first course is course s, and joining the roof begins with it (R480). -/
def courseMarked (s : State) (c : Nat) : State :=
  { s with crs.first := if s.crs.first = noCourse then c else s.crs.first,
           phase := if s.crs.first = noCourse ∧ s.phase = 8 ∧ s.avl.tested = true ∧ s.startupHeld = false then 9 else s.phase }

/-- Without another member of the roof, joining sends nothing. -/
theorem Still.joinBegins {s : State} (h : s.Still) (hc : s.course ≠ noCourse) :
    (if s.crs.first == noCourse && s.course != noCourse then s.joinBegins else s) = s.courseMarked s.course := by
  by_cases hfirst : s.crs.first = noCourse
  · have hroof : ∀ (c : Courses) (p : Nat), ({ s with crs := c, phase := p } : State).roofPeers = [] :=
      fun c p => roofPeers_none _ h.slate
    simp [hfirst, hc, State.joinBegins, courseMarked, hroof, and_assoc]
  · simp [hfirst, courseMarked]

theorem Still.courseMarked {s : State} (h : s.Still) (c : Nat) : (s.courseMarked c).Still :=
  ⟨h.slate, h.events, h.staged, h.rejoined, h.serving, h.admission, h.rows, h.pages⟩

/-! ### The boundary -/

theorem milestones_state (s : State) (c : Nat) : ∃ v, s.milestones c = { s with plc.state := v } := by
  unfold milestones
  dsimp only
  split
  · exact ⟨s.plc.state, rfl⟩
  · exact ⟨_, rfl⟩

/-- Step 11 and what follows it leave only the state of 0x4042.01 changed (R104, R105). -/
theorem Still.milestones {s : State} (h : s.Still) (c : Nat) :
    ∃ v, (((s.milestones c).ageStaged.selectAll.selectAllRows.predict .west).predict .east) = { s with plc.state := v } := by
  obtain ⟨v, hv⟩ := milestones_state s c
  have hmile : ({ s with plc.state := v } : State).Still := h.with_state v
  have hsel : ({ s with plc.state := v % 8 } : State).Still := h.with_state _
  exact ⟨v % 8, by rw [hv, hmile.ageStaged, hmile.selectAll, hsel.selectAllRows, hsel.predict, hsel.predict]⟩

/-- At a device at rest the boundary is the mark of the course, the lease and the scores; of what follows only 0x4042.01
changes, and service may begin (R39). -/
theorem Still.boundary_scored {s r u : State} (h : s.Still) (hc : s.course ≠ noCourse)
    (hlease : (s.courseMarked s.course).renewLease = r) (hr : r.Still) (hscore : r.scoreAll = u) (hu : u.Still)
    (hfit : ∀ x, (u.healthOf x).fit) (hs : List Half) :
    ∃ v, s.boundary hs = ({ u with plc.state := v } : State).enterService := by
  have hsnap : hs.foldl (fun (s : State) h => s.snapCounters h (s.courseOf h)) r = r :=
    foldl_fixed _ _ _ fun g => hr.snapCounters g _
  obtain ⟨v, hv⟩ := hu.milestones s.course
  refine ⟨v, ?_⟩
  unfold State.boundary
  simp only [h.joinBegins hc, hlease, hsnap, hr.snapLoads, hscore, hu.rejoinLists, hu.compareLists, hu.applyLists,
    expelAll_none hfit, hu.retireForwards, hu.commitRows, hu.commitPages, hu.endDraining, hu.admitHere, hu.serving,
    List.filter_nil, List.foldl_nil, hv]

/-- The boundary at a device at rest whose fabric and optics are fresh: a record of the course, the renewed lease, scores, and
0x4042.01 (R39, R376, R385). -/
theorem Still.boundary {s : State} {h : Half} (st : s.Still) (l : s.Leased h) (hup : s.avl.purlinUp = true)
    (hfab : s.fab = {}) (hopt : s.opt = {}) (hc : s.course ≠ noCourse) (hs : List Half) :
    ∃ (o : Optics) (f : Fabric) (v : Nat), s.boundary hs =
      ({ (s.courseMarked s.course).leaseRenewed h s.course with opt := o, fab := f, plc.state := v } : State).enterService := by
  have hmarked : (s.courseMarked s.course).Leased h := ⟨l.west, l.east, l.seq⟩
  have hcourse : ((s.courseMarked s.course).half h).course = s.course := by rw [course, l.holder]; cases h <;> rfl
  have hlease : (s.courseMarked s.course).renewLease = (s.courseMarked s.course).leaseRenewed h s.course := by
    rw [hmarked.renewLease hup, hcourse]
  have hr := (st.courseMarked s.course).leaseRenewed h s.course
  obtain ⟨o, f, hscore, hfit⟩ := hr.scoreAll_fit hfab hopt
  obtain ⟨v, hv⟩ := st.boundary_scored hc hlease hr hscore
    ⟨hr.slate, hr.events, hr.staged, hr.rejoined, hr.serving, hr.admission, hr.rows, hr.pages⟩ hfit hs
  exact ⟨o, f, v, hv⟩

/-! ### Service entry -/

theorem enterService_shape (s : State) : ∃ p m, s.enterService = { s with phase := p, rdg.mode := m } := by
  unfold enterService
  split
  · exact ⟨_, _, rfl⟩
  · exact ⟨s.phase, s.rdg.mode, rfl⟩

/-- Service is not entered at the edge of course s itself (R481). -/
theorem enterService_first (s : State) (h : s.crs.first = s.course) : s.enterService = s := by
  simp [enterService, h]

/-! ### The edge as a whole -/

/-- A device that is still, with the half that holds the lease and its announcement of a course that can begin (R32, R39). -/
structure Announced (s : State) (h : Half) (a : Nat) : Prop where
  still : s.Still
  leased : s.Leased h
  purlin : s.avl.purlinUp = true
  fab : s.fab = {}
  opt : s.opt = {}
  armed : (s.half h).armed = some a
  above : s.courseOf h = noCourse ∨ s.courseOf h < a
  number : a < noCourse

/-- The device once the boundary's steps are done: `n` is it when the course is numbered. -/
def courseTaken (n : State) (h : Half) (a : Nat) (o : Optics) (f : Fabric) (v : Nat) : State :=
  { (n.courseMarked a).leaseRenewed h a with opt := o, fab := f, plc.state := v }

/-- An accepted edge numbers both halves with the announcement, and its boundary marks the course, renews the lease and
scores the parts (R27, R29, R32, R39, R385). -/
theorem Announced.beaconEdge {s : State} {h : Half} {a : Nat} (k : s.Announced h a) (h8 : 8 ≤ s.phase) (hA : s.phase ≤ 0xA)
    (hspaced : ∀ u, s.crs.lastEdge = some u → u + edgeSpacing ≤ s.now) :
    ∃ n o f v, (s.edgeMarked.numbered a).Notes n ∧ n.Leased h ∧ s.beaconEdge = (n.courseTaken h a o f v).enterService := by
  have hmarked : s.edgeMarked.Notes ((s.edgeMarked.raiseEvt .west 1).raiseEvt .east 1) :=
    (notes_raiseEvt _ _ _).trans (notes_raiseEvt _ _ _)
  have hholder : s.edgeMarked.holder = h := k.leased.holder
  have inHalf := fun {α : Type} (f : HalfSt → α) (hf : ∀ x, f x.core = f x) => Sends.at' hmarked.sends h f hf
  obtain ⟨n, hnumber, hnotes⟩ := numberAll_announced _ (a := a) (hmarked.sends.avl ▸ k.purlin) (hmarked.sends.holder.trans hholder)
    ((inHalf HalfSt.armed fun _ => rfl).trans k.armed)
    (by rw [courseOf, inHalf HalfSt.course fun _ => rfl]; exact k.above) k.number
  have hn : (s.edgeMarked.numbered a).Notes n := (hmarked.numbered a).trans hnotes
  have hstill : (s.edgeMarked.numbered a).Still := by
    have st := k.still
    exact ⟨fun | .west => st.slate .west | .east => st.slate .east,
      fun | .west => st.events .west | .east => st.events .east,
      fun | .west => st.staged .west | .east => st.staged .east, st.rejoined, st.serving, st.admission, st.rows, st.pages⟩
  have hleased : n.Leased h :=
    Leased.notes (s := s.edgeMarked.numbered a) ⟨k.leased.west, k.leased.east, k.leased.seq⟩ hn
  have hcourse : n.course = a := by
    rw [course, hleased.holder, Sends.at' hn.sends h HalfSt.course fun _ => rfl]
    cases h <;> rfl
  obtain ⟨o, f, v, hboundary⟩ := (hstill.notes hn).boundary hleased (by rw [hn.sends.avl]; exact k.purlin)
    (hn.fab.trans k.fab) (hn.sends.opt.trans k.opt) (by rw [hcourse]; exact Nat.ne_of_lt k.number) [.west, .east]
  refine ⟨n, o, f, v, hn, hleased, ?_⟩
  rw [beaconEdge_accepted s h8 hA hspaced hnumber (by simp), hboundary, hcourse]
  rfl

theorem Quiet.enterService {s : State} (q : s.Quiet) : s.enterService.Quiet := by
  obtain ⟨p, m, he⟩ := enterService_shape s
  rw [he]
  exact ⟨q.todo, q.retries, q.fronts, q.behind, q.fences, q.waiting, q.retracts⟩

/-- At the first course, with the field tests over, the device joins the roof and is not yet in service (R480, R481). -/
theorem courseTaken_first {n : State} {h : Half} {a : Nat} (o : Optics) (f : Fabric) (v : Nat) (l : n.Leased h)
    (hcourse : (n.half h).course = a) (hfirst : n.crs.first = noCourse) (h8 : n.phase = 8) (htested : n.avl.tested = true)
    (hheld : n.startupHeld = false) : (n.courseTaken h a o f v).enterService.phase = 9 := by
  have hleased : (n.courseTaken h a o f v).Leased h := ⟨rfl, rfl, congrArg (· + 1) l.seq⟩
  have hnow : (n.courseTaken h a o f v).course = a := by
    rw [course, hleased.holder, ← hcourse]
    cases h <;> rfl
  have hmarked : (n.courseTaken h a o f v).crs.first = a := if_pos hfirst
  rw [enterService_first _ (by rw [hmarked, hnow])]
  exact if_pos ⟨hfirst, h8, htested, hheld⟩

end State

/-- Settles O37: the edge numbers both halves with the announcement, and the boundary of a device at rest is the mark of the
course, the renewed lease and the scores. -/
theorem courseBegins : Obligations.CourseBegins := by
  intro dt a h s hquiet h8 hA hspaced hup hwest heast hseq harmed habove ha hsw hse hew hee hstw hste _ _ hrej hserv hadm hfab
    hopt hylx hplc
  have hstill : (s.begun dt).Still :=
    ⟨fun | .west => hsw | .east => hse, fun | .west => hew | .east => hee, fun | .west => hstw | .east => hste,
      hrej, hserv, hadm, hylx, hplc⟩
  have hann : (s.begun dt).Announced h a := ⟨hstill, ⟨hwest, heast, hseq⟩, hup, hfab, hopt, harmed, habove, ha⟩
  obtain ⟨n, o, f, v, hn, hleased, hedge⟩ := hann.beaconEdge h8 hA hspaced
  have hnumbered : ((s.begun dt).edgeMarked.numbered a).Quiet :=
    ⟨hquiet.todo, hquiet.retries, hquiet.fronts, hquiet.behind, hquiet.fences, hquiet.waiting, hquiet.retracts⟩
  have hnq : n.Quiet := hn.sends.quiet hnumbered
  have hq : (s.begun dt).beaconEdge.Quiet := by
    rw [hedge]
    exact State.Quiet.enterService (s := n.courseTaken h a o f v)
      ⟨hnq.todo, hnq.retries, hnq.fronts, hnq.behind, hnq.fences, hnq.waiting, hnq.retracts⟩
  refine ⟨_, (exec_courseBeaconEdge dt s).trans (act_idle _ dt s _ rfl hq), ?_⟩
  have inHalf := fun {α : Type} (g : Half) (f : HalfSt → α) (hf : ∀ x, f x.core = f x) => State.Sends.at' hn.sends g f hf
  have hcourse : ∀ g, (n.half g).course = a := fun g =>
    (inHalf g HalfSt.course fun _ => rfl).trans (by cases g <;> rfl)
  have hcrs : n.crs = (s.begun dt).edgeMarked.crs := hn.sends.crs
  have hfirst : n.crs.first = s.crs.first := (congrArg Courses.first hcrs :)
  have hmark : (n.courseTaken h a o f v).crs.first = if s.crs.first = noCourse then a else s.crs.first := by
    rw [← hfirst]; rfl
  have hphase : s.crs.first = noCourse → s.phase = 8 → s.avl.tested = true → s.startupHeld = false →
      (n.courseTaken h a o f v).enterService.phase = 9 := fun hf hp ht hs =>
    State.courseTaken_first o f v hleased (hcourse h) (hfirst.trans hf) (hn.sends.phase.trans hp)
      ((congrArg Avail.tested hn.sends.avl).trans ht) (hn.sends.startupHeld.trans hs)
  obtain ⟨p, m, hshape⟩ := (n.courseTaken h a o f v).enterService_shape
  rw [hshape] at hphase
  rw [hedge, hshape]
  exact ⟨hcourse .west, hcourse .east, inHalf .west HalfSt.armed fun _ => rfl, inHalf .east HalfSt.armed fun _ => rfl, rfl, rfl,
    congrArg (· + 1) (inHalf .west HalfSt.leaseSeq fun _ => rfl),
    congrArg (· + 1) (hleased.seq.symm.trans (inHalf .west HalfSt.leaseSeq fun _ => rfl)), rfl, rfl,
    congrArg Courses.lastEdge hcrs, congrArg Courses.stamp hcrs, congrArg Courses.silent hcrs, hmark, hphase, hn.sends.near,
    hn.sends.spc, hn.sends.itg, hn.sends.nodeNum, (inHalf .west HalfSt.slate fun _ => rfl).trans hsw,
    (inHalf .east HalfSt.slate fun _ => rfl).trans hse⟩

end Sys2Proof.Machine
end

section
/-! PROOFS. What an engine runs, as one reads it after a change, and how a descriptor that nothing turns away is posted. -/

namespace Sys2Proof.Machine
namespace State

/-! ### What an engine runs -/

/-- Counting leaves what an engine runs as it is. -/
@[simp] theorem count_runOf (s : State) (h : Half) (i j n : Nat) (e : Engine) : (s.count h i j n).runOf e = s.runOf e := by
  simp [runOf, engOf]

@[simp] theorem runOf_modRun_same (s : State) (e : Engine) (f : Work → Work) : (s.modRun e f).runOf e = (s.runOf e).map f := by
  simp [runOf, modRun]

/-- A change of an engine that leaves its job alone. -/
theorem runOf_modEng_same (s : State) (e : Engine) {f : Eng → Eng} (hf : ∀ g, (f g).run = g.run) :
    (s.modEng e f).runOf e = s.runOf e := by
  simp [runOf, hf]

theorem modEng_congr (s : State) (e : Engine) {f g : Eng → Eng} (h : f (s.engOf e) = g (s.engOf e)) :
    s.modEng e f = s.modEng e g := by
  unfold modEng
  unfold engOf at h
  cases hc : e.cls <;> simp only [hc] at h <;> simp [tmod, h]

/-- Two changes of a running job that agree on it are one. -/
theorem modRun_congr {s : State} {e : Engine} {w : Work} {f g : Work → Work} (hrun : s.runOf e = some w) (hw : f w = g w) :
    s.modRun e f = s.modRun e g :=
  modEng_congr s e (by simp [show (s.engOf e).run = some w from hrun, hw])

/-- Whether the checks are on is slated, not a matter of the engines. -/
@[simp] theorem modRun_checksOn (s : State) (e x : Engine) (f : Work → Work) : (s.modRun e f).checksOn x = s.checksOn x := by
  have hhalf : ∀ h, (s.modRun e f).half h = s.half h := fun h => by cases h <;> simp [half]
  simp [checksOn, cfgBit, cfg, slateBytes, hhalf]

/-! ### A submission -/

theorem Sends.ite {s t u : State} {b : Prop} [Decidable b] (ht : s.Sends t) (hu : s.Sends u) : s.Sends (if b then t else u) := by
  split
  · exact ht
  · exact hu

/-- Sending changes nothing that stage 1 looks at. -/
theorem Sends.stage1 {s t : State} (k : s.Sends t) (q : Req) : t.stage1 q = s.stage1 q := by
  unfold State.stage1
  simp [k.phase, State.jobEnded, k.itg, State.ctx, k.spc, k.roleOf]

/-- Sending changes nothing that validation of a descriptor looks at. -/
theorem Sends.refusalOf {s t : State} (k : s.Sends t) (cls : EngClass) (h : Half) (c : Nat) (d : Bytes) :
    t.refusalOf cls h c d = s.refusalOf cls h c d := by
  cases cls <;> simp [State.refusalOf, k.cfg, tableOf, k.ylx]

/-- The buckets of the ports a request may have come by are off (R331). -/
def BucketsOff (s : State) (v : Via) : Prop :=
  ∀ p, (v = .port p ∨ v = .batch p ∨ ∃ t, v = .onward p t) → s.cfgBit (portHalf p) 0x20D0 1 2 = false

theorem Sends.bucketsOff {s t : State} (k : s.Sends t) {v : Via} (h : s.BucketsOff v) : t.BucketsOff v := fun p hp =>
  (k.cfgBit _ _ _ _).trans (h p hp)

theorem chargeBucket_off {s : State} {v : Via} (h : s.BucketsOff v) (src c job cost : Nat) :
    s.chargeBucket v src c job cost = (true, s) := by
  cases v with
  | port p => simp [chargeBucket, h p (.inl rfl)]
  | batch p => simp [chargeBucket, h p (.inr (.inl rfl))]
  | onward p t => simp [chargeBucket, h p (.inr (.inr ⟨t, rfl⟩))]
  | geled e hv => rfl

/-- The state in which a submission is looked at: it has been counted on its port. -/
def submitted (s : State) (j : Submit) : State := s.countArrival j.via 0 (4 + unitsOf j.desc.length)

theorem sends_submitted (s : State) (j : Submit) : s.Sends (s.submitted j) := sends_countArrival _ _ _ _

/-- A submission of the right length that neither a bucket nor stage 1 turns away is posted (R97, R314, R331). -/
theorem submitJob_posted {s : State} {cls : EngClass} {j : Submit} (hlen : j.desc.length = cls.size) (hbucket : s.BucketsOff j.via)
    (hpass : s.submitRefusal j = none) :
    s.submitJob cls j = (s.submitted j).postJob cls (viaHalf j.via) (workOf j (issuerOf j)) false := by
  have k := s.sends_submitted j
  have hcharge : (s.submitted j).submitBucket j (s.submitted j).nodeNum = (true, s.submitted j) :=
    chargeBucket_off (k.bucketsOff hbucket) _ _ _ _
  have hstage : (s.submitted j).submitRefusal j = none := (k.stage1 _).trans hpass
  have hsize : (j.desc.length != cls.size) = false := by simp [hlen]
  unfold submitted at hcharge hstage ⊢
  simp [submitJob, hcharge, hsize, hstage]

/-- The state once a front end has taken a number for a descriptor. -/
def frontNumbered (s : State) : State := { s with eng.nextFront := s.eng.nextFront + 1 }

theorem Quiet.frontNumbered {s : State} (q : s.Quiet) : s.frontNumbered.Quiet :=
  ⟨q.todo, q.retries, q.fronts, q.behind, q.fences, q.waiting, q.retracts⟩

/-- A descriptor that is not valid and names no place for its record, a misaligned one counting as none, completes at once (R133,
R168, log entry 128). -/
theorem postJob_refused {s : State} {cls : EngClass} {h : Half} {w : Work} {st : Status} {f d : Nat} (forwarded : Bool)
    (hfronts : s.eng.fronts = []) (hbad : s.refusalOf cls h w.ctx w.desc = some (st, f, d))
    (hplace : cmplOf cls w.desc = 0 ∨ cmplOf cls w.desc % 64 ≠ 0) :
    s.postJob cls h w forwarded = s.frontNumbered.completeJob cls h { w with status := st, fault := f, detail := d } := by
  have hnone : (cmplOf cls w.desc != 0 && cmplOf cls w.desc % 64 == 0) = false := by
    rcases hplace with h0 | h64 <;> simp_all
  have hkept : ∀ x : Engines, ({ s with eng := x } : State).refusalOf cls h w.ctx w.desc = some (st, f, d) := by
    intro x
    rw [← hbad]
    cases cls <;> rfl
  have hdrop : ({ s with eng.nextFront := s.eng.nextFront + 1, eng.fronts := [] } : State) = s.frontNumbered := by
    rw [frontNumbered, ← hfronts]
  unfold postJob
  simp only [hkept, hfronts, tput]
  simp [frontRefuse, tget, hnone, dropFront, tdel, hdrop]

/-- The state once a front end has taken a descriptor. -/
def fronted (s : State) (cls : EngClass) (h : Half) (w : Work) (forwarded : Bool) : State :=
  { s with eng.nextFront := s.eng.nextFront + 1,
           eng.fronts := [(s.eng.nextFront, { cls := cls, w := w, h := h, forwarded := forwarded })] }

/-- A valid descriptor is taken by a front end, which asks where its operands are (R97). -/
theorem postJob_valid {s : State} {cls : EngClass} {h : Half} {w : Work} (forwarded : Bool) (hfronts : s.eng.fronts = [])
    (hgood : s.refusalOf cls h w.ctx w.desc = none) :
    s.postJob cls h w forwarded =
      ((s.fronted cls h w forwarded).frontAsk s.eng.nextFront).push (.post s.eng.nextFront) := by
  have hkept : ∀ x : Engines, ({ s with eng := x } : State).refusalOf cls h w.ctx w.desc = none := by
    intro x
    rw [← hgood]
    cases cls <;> rfl
  unfold postJob
  simp only [hkept, hfronts, tput]
  rfl

end State

/-- A command whose effect is `u` comes to what follows from `u`. -/
theorem act_settles {c : Instr} {dt : Nat} {s u : State} {f : State → State} (hwf : c.wf = true) (hf : f (s.begun dt) = u) :
    act c dt s f = .next (s.after dt u.settle) := by
  rw [act_next c dt s f hwf, hf]

end Sys2Proof.Machine
end

section
/-! PROOFS. Tile jobs from the front end to their queue, gangs, partials, panels, verdicts and recomputations, and the windows
of an update program. -/

namespace Sys2Proof.Machine
namespace State

/-! ### Posting -/

/-- A refused tile job is one of one tile: no gang is counted (R175). -/
theorem tileCount_refused {s : State} (h : Half) {w : Work} (hused : w.t.used = 1) (hbad : w.status.good = false) :
    s.tileCount h w = (if tFed w.desc then (s.count h 0x4060 1).count h 0x4060 3 else s.count h 0x4060 1).count h 0x4060 7 := by
  simp [tileCount, hused, hbad]

/-- Counting a completed tile job only counts. -/
theorem sends_tileCount (s : State) (h : Half) (w : Work) : s.Sends (s.tileCount h w) :=
  (((sends_count s h 0x4060 1 1).trans (.ite (sends_count _ _ _ _ _) (.refl _))).trans
    (.ite (sends_count _ _ _ _ _) (.refl _))).trans (.ite (.refl _) (sends_count _ _ _ _ _))

/-- A refused tile job is counted, and its record goes to the issuing host (R168, R171, R175). -/
theorem completeJob_tileRefused {s : State} (h : Half) {w : Work} {now : Nat} (hnow : s.now = now) (hused : w.t.used = 1)
    (hbad : w.status.good = false) :
    s.completeJob .tile h w = ((if tFed w.desc then (s.count h 0x4060 1).count h 0x4060 3 else s.count h 0x4060 1).count
      h 0x4060 7).sendCompletion w .tile (tRecord w now) := by
  rw [← tileCount_refused h hused hbad, ← hnow]
  rfl

theorem sends_completeJob_tile (s : State) (h : Half) (w : Work) : s.Sends (s.completeJob .tile h w) :=
  (sends_tileCount s h w).trans (sends_sendTo _ _ _ _ _)

/-- A tile job that passes stage 1 but is not valid, and names no place for its record, completes (R133, R168, R175). -/
theorem submitJob_tileRefused {s : State} {j : Submit} {st : Status} {d : Nat} (hfronts : s.eng.fronts = [])
    (hlen : j.desc.length = EngClass.tile.size) (hbucket : s.BucketsOff j.via) (hpass : s.submitRefusal j = none)
    (hbad : tRefusal j.desc (s.cfg (viaHalf j.via) 0x2090 1) = some (st, d))
    (hplace : tCmpl j.desc = 0 ∨ tCmpl j.desc % 64 ≠ 0) :
    s.submitJob .tile j = (s.submitted j).frontNumbered.completeJob .tile (viaHalf j.via)
      { workOf j (issuerOf j) with status := st, detail := d } := by
  have k := s.sends_submitted j
  have hrefused : (s.submitted j).refusalOf .tile (viaHalf j.via) j.ctx j.desc = some (st, 0, d) :=
    (k.refusalOf _ _ _ _).trans (by simp [refusalOf, hbad])
  rw [submitJob_posted hlen hbucket hpass]
  exact postJob_refused false (by rw [k.eng, hfronts]) hrefused hplace

/-- A valid tile job that passes stage 1 is taken by a front end (R97, R168). -/
theorem submitJob_tileTaken {s : State} {j : Submit} (hfronts : s.eng.fronts = []) (hlen : j.desc.length = EngClass.tile.size)
    (hbucket : s.BucketsOff j.via) (hpass : s.submitRefusal j = none)
    (hgood : tRefusal j.desc (s.cfg (viaHalf j.via) 0x2090 1) = none) :
    s.submitJob .tile j = (((s.submitted j).fronted .tile (viaHalf j.via) (workOf j (issuerOf j)) false).frontAsk
      s.eng.nextFront).push (.post s.eng.nextFront) := by
  have k := s.sends_submitted j
  have hvalid : (s.submitted j).refusalOf .tile (viaHalf j.via) j.ctx j.desc = none :=
    (k.refusalOf _ _ _ _).trans (by simp [refusalOf, hgood])
  rw [submitJob_posted hlen hbucket hpass, postJob_valid false (by rw [k.eng, hfronts]) hvalid, k.eng]

/-! ### The queue -/

/-- A job for a single tile is work of that tile alone, with every strip of K, panel and strip of C (R158). -/
theorem gangWorks_single (s : State) {w : Work} (lead : Nat) (home : Nat → Nat) (hgang : tGang w.desc = 1) :
    s.gangWorks w lead home =
      [(lead, { w with t := { leader := lead, ks := List.range (tStrips w.desc),
                              share := unitList (List.range (tPanels w.desc)) (List.range (tCols w.desc)),
                              units := unitList (List.range (tPanels w.desc)) (List.range (tCols w.desc)) } })] := by
  simp [gangWorks, hgang, groupWorks, shareOf]

/-- A descriptor whose operands are known, whose job goes on and which waits for no other, is given away (R97). -/
theorem frontGo_place {s : State} {id : Nat} {f : Front} (hfront : tget id s.eng.fronts = some f) (hawait : f.await = [])
    (hopen : f.refused = false) (hjob : s.jobEnded f.w.ctx f.w.job = false) (hfree : s.mustWait f = false) :
    s.frontGo id = s.frontPlace id f := by
  simp [frontGo, hfront, hawait, hopen, hjob, hfree]

/-- A tile job that stays on this device goes to the tile R97 chooses (R97, R161). -/
theorem frontPlace_tile {s : State} {f : Front} {e : Engine} (id : Nat) (hcls : f.cls = .tile)
    (hstay : s.awayNode f.w.ctx (s.frontLocs f) f.forwarded = none)
    (hchosen : s.chooseEngine .tile (s.frontLocs f) (fun _ => true) = some e) :
    s.frontPlace id f = (s.dropFront id).tileQueue f.w e.idx (s.frontLocs f) := by
  simp [frontPlace, hcls, hstay, hchosen]

/-! ### Gangs -/

/-- A gang's member starts: its place in its queue becomes the job it runs (R162). -/
def startMember (s : State) (x : Nat × Work) : State :=
  (s.modEng (tileEng x.1) (fun t => { t with run := some x.2, queue := t.queue.drop 1 })).push (.wake (tileEng x.1))

/-- A member of a gang is free: its tile is in service, runs nothing, and the gang's place has come in its queue (R162). -/
def MemberFree (s : State) (lead : Nat) (x : Nat × Work) : Prop :=
  (s.engOf (tileEng x.1)).run = none ∧ (s.engOf (tileEng x.1)).state = 0 ∧
    ∃ q r, (s.engOf (tileEng x.1)).queue = q :: r ∧ q.sink = .gang lead

/-- The only gang, with every member free, starts on all of them (R162). -/
theorem gangStart_free {s : State} {lead : Nat} {works : List (Nat × Work)} (hgang : s.eng.gangs = [⟨lead, works⟩])
    (hfree : ∀ x ∈ works, s.MemberFree lead x) : s.gangStart lead = works.foldl startMember { s with eng.gangs := [] } := by
  have hnone : works.any (fun x => (s.engOf (tileEng x.1)).state == 3) = false := by
    rw [List.any_eq_false]
    intro x hx
    obtain ⟨-, hstate, -⟩ := hfree x hx
    simp [hstate]
  unfold gangStart
  simp only [hgang, List.find?_cons, beq_self_eq_true, hnone]
  rw [if_neg Bool.false_ne_true, if_neg]
  · simp only [ne_eq, not_true_eq_false, decide_false, Bool.false_eq_true, not_false_eq_true, List.filter_cons_of_neg,
      List.filter_nil]
    rfl
  · simp only [Bool.not_eq_true', Bool.not_eq_false, List.all_eq_true]
    intro x hx
    obtain ⟨hrun, hstate, q, r, hqueue, hsink⟩ := hfree x hx
    simp [hrun, hstate, hqueue, hsink]

end State

/-! ### Partials -/

/-- A sum with one more partial (R163, R219). -/
def OutUnit.withPartial (u v : OutUnit) : OutUnit :=
  { u with acc := addUnits u.acc v.acc, parts := u.parts ++ [v.acc], chk := addChk u.chk v.chk, waiting := u.waiting - 1 }

namespace State

/-- The leader's tile with a sum in hand. -/
def withSum (s : State) (lead : Nat) (u : OutUnit) : State :=
  s.modRun (tileEng lead) (fun l => { l with t.unit := some u })

/-- A member goes on with its next unit once its partial has been taken. -/
def memberGoesOn (s : State) (i : Nat) : State := (s.modRun (tileEng i) nextUnit).push (.wake (tileEng i))

/-- The member `i` running `m` reports to `lead` running `l`; their units `v` and `u` are one unit, and both are ready to be
added: each is its tile's own checked part, or a sub-leader's checked sum (R163, R164, R219). -/
structure PartialReady (s : State) (lead i : Nat) (l m : Work) (u v : OutUnit) : Prop where
  apart : i ≠ lead
  leaderRuns : s.runOf (tileEng lead) = some l
  memberRuns : s.runOf (tileEng i) = some m
  leaderUnit : l.t.unit = some u
  memberUnit : m.t.unit = some v
  leaderReduces : l.t.reduce = true
  memberReduces : m.t.reduce = true
  reports : m.t.leader = lead
  samePanel : v.p = u.p
  sameStrip : v.n = u.n
  leaderChecked : u.checked = true
  memberChecked : v.checked = true
  nobody : v.waiting = 0
  whole : v.sums = false ∨ v.summed = true

/-- A checked partial is added at its leader; the last one makes the sum whole (R163, R164, R219). -/
theorem PartialReady.arrives {s : State} {lead i : Nat} {l m : Work} {u v : OutUnit} (h : s.PartialReady lead i l m u v) :
    s.partialArrive lead i u.p u.n =
      (if u.waiting - 1 == 0 then (s.withSum lead (u.withPartial v)).sumReady (tileEng lead) (u.withPartial v)
        else s.withSum lead (u.withPartial v)).memberGoesOn i := by
  have hwhole : (!v.sums || v.summed) = true := by rcases h.whole with hs | hs <;> simp [hs]
  unfold partialArrive
  simp only [h.leaderRuns, h.memberRuns, h.leaderUnit, h.memberUnit]
  rw [if_pos (by simp [h.leaderReduces, h.memberReduces, h.reports, h.apart, h.samePanel, h.sameStrip, h.leaderChecked,
    h.memberChecked, h.nobody, hwhole])]
  rfl

/-- With the checks on, a sub-leader's whole sum waits for its own check (R219). -/
theorem sumReady_subleader {s : State} {e : Engine} {w : Work} (u : OutUnit) (hrun : s.runOf e = some w) (htop : w.t.top = false)
    (hchecks : s.checksOn e = true) : s.sumReady e u = s := by
  simp [sumReady, hrun, htop, hchecks]

/-- With the checks on, the leader's whole sum drains before its verdict (R220). -/
theorem sumReady_leader {s : State} {e : Engine} {w : Work} (u : OutUnit) (hrun : s.runOf e = some w) (htop : w.t.top = true)
    (hchecks : s.checksOn e = true) : s.sumReady e u = s.drainUnit e u := by
  simp [sumReady, hrun, htop, hchecks]

theorem runOf_withSum {s : State} {lead : Nat} {l : Work} (u : OutUnit) (hl : s.runOf (tileEng lead) = some l) :
    (s.withSum lead u).runOf (tileEng lead) = some { l with t.unit := some u } := by
  simp [withSum, hl]

@[simp] theorem withSum_checksOn (s : State) (lead : Nat) (u : OutUnit) (e : Engine) :
    (s.withSum lead u).checksOn e = s.checksOn e := modRun_checksOn _ _ _ _

/-- A partial after which others are still to come, or one at a sub-leader, leaves the sum in hand (R163, R219). -/
theorem PartialReady.kept {s : State} {lead i : Nat} {l m : Work} {u v : OutUnit} (h : s.PartialReady lead i l m u v)
    (hkept : 1 < u.waiting ∨ (l.t.top = false ∧ s.checksOn (tileEng lead) = true)) :
    s.partialArrive lead i u.p u.n = (s.withSum lead (u.withPartial v)).memberGoesOn i := by
  rw [h.arrives]
  rcases hkept with hmore | ⟨htop, hchecks⟩
  · rw [if_neg (by simp; omega)]
  · rw [sumReady_subleader _ (runOf_withSum _ h.leaderRuns) htop (by simpa using hchecks), ite_self]

/-- The last partial lets the leader's sum drain (R219, R220). -/
theorem PartialReady.last {s : State} {lead i : Nat} {l m : Work} {u v : OutUnit} (h : s.PartialReady lead i l m u v)
    (hlast : u.waiting = 1) (htop : l.t.top = true) (hchecks : s.checksOn (tileEng lead) = true) :
    s.partialArrive lead i u.p u.n =
      ((s.withSum lead (u.withPartial v)).drainUnit (tileEng lead) (u.withPartial v)).memberGoesOn i := by
  rw [h.arrives, if_pos (by simp [hlast]),
    sumReady_leader _ (runOf_withSum _ h.leaderRuns) htop (by simpa using hchecks)]

/-! ### Panels -/

/-- The panel the leader's units need next, once the gather has completed it, goes to a slot when both are free (R166). -/
theorem panelDeliver_next {s : State} {i p : Nat} {w : Work} {out : Bytes} (hrun : s.runOf (tileEng i) = some w)
    (htop : w.t.top = true) (hmade : tget p w.t.fedOut = some out) (hfed : tFed w.desc = true) (hslots : w.t.slots = [])
    (hnext : ((w.t.units.filter w.t.share.contains).head?).map (·.1) = some p) :
    s.panelDeliver i p = (s.modRun (tileEng i) (fun w => { w with t.slots := [(p, out)] })).push (.wake (tileEng i)) := by
  have hfree : ∀ l : List (Nat × Nat), l.find? (fun u => !thas u.1 ([] : Tbl Nat Bytes)) = l.head? := fun l => by
    cases l <;> rfl
  unfold panelDeliver
  simp only [hrun, htop, hmade, if_true, hslots, List.filter_nil]
  rw [if_neg (by rw [hfree, hnext, hfed, bne_self_eq_false]; decide)]
  rfl

/-! ### Verdicts -/

/-- Every tile looks again at what it waits for. -/
def wakeTiles (s : State) : State := s.pushAll ((List.range 16).map (fun k => .wake (tileEng k)))

/-- A unit whose own part has passed its check (R219). -/
def ownPassed (s : State) (e : Engine) (u : OutUnit) : State :=
  (s.modRun e (fun w => { w with t.unit := some { u with summed := false, checked := true } })).wakeTiles

/-- A gang member's own part that passes may be sent on (R219). -/
theorem unitPassed_member {s : State} {e : Engine} {w : Work} {u : OutUnit} (hrun : s.runOf e = some w)
    (hreduce : w.t.reduce = true) (htop : w.t.top = false) (hown : u.checked = false) : s.unitPassed e u = s.ownPassed e u := by
  unfold unitPassed
  simp only [hrun]
  rw [if_neg (by simp [writes, hreduce, htop]), hown]
  rfl

/-- The unit in hand with the bits its array upset. -/
def upsetBy (u : OutUnit) (upset : List (Nat × Nat × BitVec 32)) : OutUnit := { u with acc := upsetUnit u.acc upset }

/-- Tile `i` runs `w`, and a check of its own part of the unit `u` in hand is due for the first time (R219). -/
structure OwnCheckDue (s : State) (i : Nat) (w : Work) (u : OutUnit) : Prop where
  runs : s.runOf (tileEng i) = some w
  unit : w.t.unit = some u
  undisputed : u.recompute = none
  own : u.checked = false

/-- Whether a tile's own part of a unit fails the checker's tests (R218). -/
def ownFails (s : State) (i : Nat) (w : Work) (u : OutUnit) : Bool :=
  unitFails u.chk u.acc (kLen w.desc w.t.ks) (s.tolerance (tileEng i) w.desc) true

/-- The verdict on a tile's own part (R218, R219). -/
theorem OwnCheckDue.verdict {s : State} {i : Nat} {w : Work} {u : OutUnit} (h : s.OwnCheckDue i w u)
    (upset : List (Nat × Nat × BitVec 32)) :
    s.verdict i upset =
      if s.checksOn (tileEng i) && s.ownFails i w (upsetBy u upset) then s.disputeUnit (tileEng i) w (upsetBy u upset)
      else s.unitPassed (tileEng i) (upsetBy u upset) := by
  simp [State.verdict, h.runs, h.unit, checkDue, h.undisputed, h.own, unitBad, ownFails, upsetBy]

/-- A gang member's own part that passes, or that nothing checks, may be sent on (R219, R232). -/
theorem OwnCheckDue.passes {s : State} {i : Nat} {w : Work} {u : OutUnit} (h : s.OwnCheckDue i w u)
    (upset : List (Nat × Nat × BitVec 32)) (hreduce : w.t.reduce = true) (htop : w.t.top = false)
    (hpass : s.checksOn (tileEng i) = false ∨ s.ownFails i w (upsetBy u upset) = false) :
    s.verdict i upset = s.ownPassed (tileEng i) (upsetBy u upset) := by
  rw [h.verdict, if_neg (by rcases hpass with hp | hp <;> simp [hp])]
  exact unitPassed_member h.runs hreduce htop h.own

/-- A tile's own part that fails is disputed (R218, R221). -/
theorem OwnCheckDue.fails {s : State} {i : Nat} {w : Work} {u : OutUnit} (h : s.OwnCheckDue i w u)
    (upset : List (Nat × Nat × BitVec 32)) (hchecks : s.checksOn (tileEng i) = true)
    (hfails : s.ownFails i w (upsetBy u upset) = true) :
    s.verdict i upset = s.disputeUnit (tileEng i) w (upsetBy u upset) := by
  rw [h.verdict, if_pos (by simp [hchecks, hfails])]

/-- The state in which a disputed unit's operands are asked for again: it is counted and recorded, and tile `other` is to
recompute it (R221). -/
def disputed (s : State) (i other : Nat) (w : Work) (u : OutUnit) : State :=
  (((s.count (engHalf (tileEng i)) 0x4080 8).gutter (engHalf (tileEng i)) 0x0A 0x05 i 0x09 (c := w.ctx) (job := w.job)).modEng
    (tileEng other) (fun g => listJob g w.ctx w.job)).modRun (tileEng i) (fun v =>
      { v with t.unit := some { u with recompute := some other },
               got := v.got.filter (fun b => !inRangesOf (operandRanges w u.p u.n) b.1) })

/-- A disputed unit goes to some tile, and its operands are read again (R221). -/
theorem disputeUnit_disputed (s : State) (i : Nat) (w : Work) (u : OutUnit) :
    ∃ other, s.disputeUnit (tileEng i) w u =
      (operandRanges w u.p u.n).foldl (fun b r => b.askRange (tileEng i) r.1 r.2.1) (s.disputed i other w u) :=
  ⟨_, rfl⟩

/-! ### Recomputations -/

/-- The operands of a unit are consumed again. -/
def operandsUsed (s : State) (i : Nat) (rs : List (Nat × Nat × List Nat)) : State :=
  rs.foldl (fun v r => v.consume (tileEng i) r.1 r.2.1 r.2.2) s

/-- A recomputation that agrees with the array tells of the checker: its tile is due a test of it first (R221). -/
def checkerSuspect (s : State) (i : Nat) : State :=
  (s.modEng (tileEng i) (fun g => { g with checkerFirst := true, due := true })).count (engHalf (tileEng i)) 0x4080 9

theorem runOf_checkerSuspect (s : State) (i : Nat) : (s.checkerSuspect i).runOf (tileEng i) = s.runOf (tileEng i) :=
  (count_runOf _ _ _ _ _ _).trans (runOf_modEng_same _ _ fun _ => rfl)

/-- The first time a checker is found wrong its tile stays in service, and the unit passes (R221). -/
theorem resolved_agrees {s : State} {i : Nat} {u : OutUnit} {r : List (List (BitVec 32))} (w : Work) (other : Nat) (hr : r = u.acc)
    (hfirst : (s.engOf (tileEng i)).checkerFirst = false) :
    s.resolved i w u other r = (s.checkerSuspect i).unitPassed (tileEng i) u := by
  simp [resolved, hr, hfirst, checkerSuspect]

/-- Tile `i` ran `w` with its own part of the unit `u` given to tile `other` to recompute; the operands are here again, and once
they are consumed it runs `x`, which has not failed (R221). -/
structure Recomputed (s : State) (i other : Nat) (w x : Work) (u : OutUnit) : Prop where
  runs : s.runOf (tileEng i) = some w
  unit : w.t.unit = some u
  disputed : u.recompute = some other
  own : u.checked = false
  here : ∀ r ∈ operandRanges w u.p u.n, blocksHere w r.1 r.2.1 = true
  used : (s.operandsUsed i (operandRanges w u.p u.n)).runOf (tileEng i) = some x
  good : x.status.good = true

/-- A recomputation is resolved with what the other tile makes of the operands (R221). -/
theorem Recomputed.resolve {s : State} {i other : Nat} {w x : Work} {u : OutUnit} (h : s.Recomputed i other w x u)
    (upset : List (Nat × Nat × BitVec 32)) :
    s.resolve i upset = (s.operandsUsed i (operandRanges w u.p u.n)).resolved i x { u with recompute := none } other
      (upsetUnit (computeUnit x u.p u.n).1 upset) := by
  have hall : (operandRanges w u.p u.n).all (fun r => blocksHere w r.1 r.2.1) = true := List.all_eq_true.mpr h.here
  have hused := h.used
  unfold operandsUsed at hused ⊢
  simp [State.resolve, h.runs, h.unit, h.disputed, hall, hused, h.good, h.own]

/-- A recomputation of a gang member's own part that agrees with the array: the checker is suspect, and the part may be sent
on (R219, R221). -/
theorem Recomputed.agrees {s : State} {i other : Nat} {w x : Work} {u : OutUnit} (h : s.Recomputed i other w x u)
    {upset : List (Nat × Nat × BitVec 32)} (hreduce : x.t.reduce = true) (htop : x.t.top = false)
    (hagrees : upsetUnit (computeUnit x u.p u.n).1 upset = u.acc)
    (hfirst : ((s.operandsUsed i (operandRanges w u.p u.n)).engOf (tileEng i)).checkerFirst = false) :
    s.resolve i upset = ((s.operandsUsed i (operandRanges w u.p u.n)).checkerSuspect i).ownPassed (tileEng i)
      { u with recompute := none } := by
  rw [h.resolve]
  exact (resolved_agrees (u := { u with recompute := none }) x other hagrees hfirst).trans
    (unitPassed_member ((runOf_checkerSuspect _ _).trans h.used) hreduce htop h.own)

/-! ### Windows -/

/-- What a program of an update unit in service keeps once its window's writes have landed: what was read ahead (R191). -/
def windowLanded (w : Work) : Work :=
  { w with u.window := w.u.window + 1, u.writing := false, u.slots := w.u.next, u.crc := w.u.nextCrc,
           got := w.got.filter (fun b => (aheadReads w.desc (w.u.window + 1)).any
             (fun r => r.2.1 < b.1 * 4096 + 4096 && b.1 * 4096 < r.2.1 + r.2.2.1)) }

/-- A window whose writes have landed is complete: its slots are counted and the program goes on (R191, R198). -/
theorem windowDone_landed {s : State} {unit : Nat} {w : Work} (hrun : s.runOf ⟨.update, unit⟩ = some w)
    (hwriting : w.u.writing = true) (hlanded : w.await = []) (hgood : w.status.good = true)
    (hserving : (s.engOf ⟨.update, unit⟩).state = 0) :
    s.windowDone unit = (((s.count (engHalf ⟨.update, unit⟩) 0x4070 2
        (windowLen w.desc w.u.window * (uWords w.desc).foldl (fun k x => k + x.slots) 0)).modRun ⟨.update, unit⟩ windowLanded).push
      (.wake ⟨.update, unit⟩)) := by
  have hstays : leaving (s.engOf ⟨.update, unit⟩) = false := by simp [leaving, hserving]
  unfold windowDone
  simp only [hrun, hstays, hwriting, hgood, hlanded, List.any_nil, Bool.not_true, Bool.false_and, Bool.or_false, Bool.false_eq_true,
    if_false]
  congr 1
  exact modRun_congr ((count_runOf _ _ _ _ _ _).trans hrun) rfl

end State

/-! ### The obligation -/

theorem exec_tileJob (dt : Nat) (j : Submit) (s : State) :
    exec (.tileJob dt j) s = act (.tileJob dt j) dt s (fun s => s.submitJob .tile j) := rfl

theorem exec_gangStart (dt lead : Nat) (s : State) :
    exec (.gangStart dt lead) s = act (.gangStart dt lead) dt s (fun s => s.gangStart lead) := rfl

theorem exec_partialAccumulator (dt lead i p n : Nat) (s : State) :
    exec (.partialAccumulator dt lead i p n) s =
      act (.partialAccumulator dt lead i p n) dt s (fun s => s.partialArrive lead i p n) := rfl

theorem exec_panelDelivery (dt i p : Nat) (s : State) :
    exec (.panelDelivery dt i p) s = act (.panelDelivery dt i p) dt s (fun s => s.panelDeliver i p) := rfl

theorem exec_checkVerdict (dt i : Nat) (upset : List (Nat × Nat × BitVec 32)) (s : State) :
    exec (.checkVerdict dt i upset) s = act (.checkVerdict dt i upset) dt s (fun s => s.verdict i upset) := rfl

theorem exec_recomputationComplete (dt i : Nat) (upset : List (Nat × Nat × BitVec 32)) (s : State) :
    exec (.recomputationComplete dt i upset) s = act (.recomputationComplete dt i upset) dt s (fun s => s.resolve i upset) := rfl

theorem exec_windowComplete (dt unit : Nat) (s : State) :
    exec (.windowComplete dt unit) s = act (.windowComplete dt unit) dt s (fun s => s.windowDone unit) := rfl

/-- Settles O48, event by event: what each one's operation does under its premises is what its command leaves to settle. -/
theorem tileWork : Obligations.TileWork := by
  intro dt i s hquiet hi
  refine ⟨?tileJob, ?queue, ?gang, ?partials, ?panel, ?verdict, ?recomputation, ?window⟩
  case tileJob =>
    rintro j b v h hwf - rfl hlen rfl rfl hbucket hpass
    have k := (s.begun dt).sends_submitted j
    have hnext : ((s.begun dt).submitted j).eng.nextFront = s.eng.nextFront := congrArg Engines.nextFront k.eng
    rw [exec_tileJob]
    constructor
    · rintro st d w hbad hst hplace rfl
      have hcompletes := State.submitJob_tileRefused (s := s.begun dt) hquiet.fronts hlen hbucket hpass hbad hplace
      refine (State.idle_sends (State.sends_completeJob_tile _ _ _) (k.quiet (hquiet.begun dt)).frontNumbered _ dt _ hwf
        hcompletes).trans ?_
      rw [State.completeJob_tileRefused (s := ((s.begun dt).submitted j).frontNumbered) _ k.now rfl hst, State.frontNumbered, hnext]
      rfl
    · intro hgood
      have htaken := State.submitJob_tileTaken (s := s.begun dt) hquiet.fronts hlen hbucket hpass hgood
      rw [State.fronted, hnext] at htaken
      exact act_settles hwf htaken
  case queue =>
    rintro u id f us hfront hawait hopen hjob hfree hcls hstay hgang hchosen rfl
    rw [State.frontGo_place hfront hawait hopen hjob hfree, State.frontPlace_tile id hcls hstay hchosen, State.tileQueue,
      State.gangWorks_single _ _ _ hgang]
    rfl
  case gang =>
    intro works hgang hfree
    have hwf : (Instr.gangStart dt i).wf = true := by simp [Instr.wf, hi]
    exact (exec_gangStart _ _ _).trans (act_settles hwf (State.gangStart_free (s := s.begun dt) hgang hfree))
  case partials =>
    rintro k p n l m u v sum b hk hne hp hn hl hm hu hv hlr hmr hlead rfl rfl hvp hvn huc hvc hnobody hwhole rfl rfl
    have hwf : (Instr.partialAccumulator dt i k u.p u.n).wf = true := by
      simpa [Instr.wf, hi, hk] using And.intro hp hn
    have hready : (s.begun dt).PartialReady i k l m u v :=
      ⟨hne, hl, hm, hu, hv, hlr, hmr, hlead, hvp, hvn, huc, hvc, hnobody, hwhole⟩
    rw [exec_partialAccumulator]
    exact ⟨fun hkept => act_settles hwf (hready.kept hkept),
      fun hlast htop hchecks => act_settles hwf (hready.last hlast htop hchecks)⟩
  case panel =>
    intro p w out hp hrun htop hmade hfed hslots hnext
    have hwf : (Instr.panelDelivery dt i p).wf = true := by simpa [Instr.wf, hi] using hp
    exact (exec_panelDelivery _ _ _ _).trans
      (act_settles hwf (State.panelDeliver_next (s := s.begun dt) hrun htop hmade hfed hslots hnext))
  case verdict =>
    rintro w u v rs hrun hunit hfirst hown rfl hreduce htop rfl
    have hwf : (Instr.checkVerdict dt i []).wf = true := by simp [Instr.wf, hi]
    have hdue : (s.begun dt).OwnCheckDue i w u := ⟨hrun, hunit, hfirst, hown⟩
    rw [exec_checkVerdict]
    constructor
    · intro hpass
      exact act_settles hwf (hdue.passes [] hreduce htop hpass)
    · intro hchecks hfails
      obtain ⟨other, hdisputed⟩ := (s.begun dt).disputeUnit_disputed i w (State.upsetBy u [])
      exact ⟨other, act_settles hwf ((hdue.fails [] hchecks hfails).trans hdisputed)⟩
  case recomputation =>
    rintro w u other rs b x hrun hunit hother hown rfl hhere rfl hused hgood hreduce htop hagrees hfirst
    have hwf : (Instr.recomputationComplete dt i []).wf = true := by simp [Instr.wf, hi]
    have hdone : (s.begun dt).Recomputed i other w x u := ⟨hrun, hunit, hother, hown, hhere, hused, hgood⟩
    exact (exec_recomputationComplete _ _ _ _).trans (act_settles hwf (hdone.agrees hreduce htop hagrees hfirst))
  case window =>
    intro unit w hlt hrun hwriting hlanded hgood hserving
    have hwf : (Instr.windowComplete dt unit).wf = true := by simp [Instr.wf, hlt]
    exact (exec_windowComplete _ _ _).trans
      (act_settles hwf (State.windowDone_landed (s := s.begun dt) hrun hwriting hlanded hgood hserving))

end Sys2Proof.Machine
end

section
/-! PROOFS. The atomic operations of another node. -/

namespace Sys2Proof.Machine

/-! ### The answer -/

/-- The answer to an atomic leaves by the response channel of the device in service (R312). -/
theorem State.sendReply_atomic (s : State) (d : Party) (a : Acc) (r : Reply) (hop : a.op = .atomic) (hphase : s.phase = 0xA) :
    s.sendReply d a r = s.sendTo d 1 (State.replyUnits r) (.mem { r with tag := a.q.tag, ld := s.fab.loadLevel }) := by
  unfold State.sendReply
  simp only [hop, State.loadNow_service s hphase]
  rfl

/-- A write to near memory is nothing to the fabric. -/
theorem State.KeepsState.fab {s t : State} (k : State.KeepsState s t) : t.fab = s.fab := by
  rw [← k.rest]

theorem State.Clean.of_near {s t : State} {off n : Nat} (h : s.Clean off n) (hnear : t.near = s.near) : t.Clean off n := by
  intro l hl
  simpa [State.poisoned, hnear] using h l hl

/-! ### The operation -/

/-- The state after an atomic at `off`, where memory held `old`: the operand is combined with it, and the operation is counted
(R284, R285). -/
def State.combined (s : State) (q : Req) (off : Nat) (old : Bytes) : State :=
  (s.writeNear off (atomicApply q.aop old q.data)).count (offHalf off) 0x40A0 1

/-- The combining takes nothing away from what serves the request. -/
theorem State.Served.combined {s : State} {q : Req} {off n : Nat} (h : s.Served q off n) (old : Bytes) :
    (s.combined q off old).Served q off n :=
  (State.KeepsState.served h (State.keeps_writeNear _ _ _)).mono (State.sends_count _ _ _ _ _)

theorem State.combined_fab (s : State) (q : Req) (off : Nat) (old : Bytes) : (s.combined q off old).fab = s.fab :=
  (State.count_fab _ _ _ _ _).trans (State.keeps_writeNear _ _ _).fab

/-- An atomic of a served request combines, and answers with the old value where the operation fetches. -/
theorem State.Served.receive_atomic {s : State} {q : Req} {off : Nat} (h : s.Served q off (aopSize q.aop))
    (hclean : s.Clean off (aopSize q.aop)) (hallowed : s.cfg (offHalf off) 0x20C0 1 ≠ 0) (hform : State.wellFormed .atomic q = true)
    (dt : Nat) :
    (s.begun dt).receive .atomic q = ((s.heard dt q).combined q off (s.loadBytes off (aopSize q.aop))).sendTo (.node q.src q.sid) 1
      (4 + State.unitsOf (if aopFetch q.aop then aopSize q.aop else 0))
      (.mem { tag := q.tag, ld := s.fab.loadLevel, data := if aopFetch q.aop then s.loadBytes off (aopSize q.aop) else [],
              tg := (s.metaOf (off / 4096)).tag }) := by
  have hnear : (s.heard dt q).near = s.near := State.heard_near s dt q
  have hserved : (s.heard dt q).Served q off (aopSize q.aop) := h.heard dt
  have hbytes : (s.heard dt q).loadBytes off (aopSize q.aop) = s.loadBytes off (aopSize q.aop) := by
    simp only [State.loadBytes, hnear]
  have htag : (s.heard dt q).metaOf (off / 4096) = s.metaOf (off / 4096) := by simp only [State.metaOf, hnear]
  rw [h.receive dt .atomic (.inr (.inr (.inr ⟨rfl, hallowed⟩))) hform rfl,
    hserved.doAtomic _ rfl rfl rfl rfl rfl rfl rfl (hclean.of_near hnear), ← State.combined,
    State.sendReply_atomic _ _ _ _ rfl (hserved.combined _).service, State.combined_fab, State.heard_load, hbytes, htag]
  cases hfetch : aopFetch q.aop <;> simp [State.replyUnits, ofBool]

/-! ### The obligation -/

/-- The twelve commands that bring an atomic request (R284). -/
def atomicCommands (dt : Nat) (q : Req) : List Instr :=
  [.add dt q, .smin dt q, .smax dt q, .umin dt q, .umax dt q, .and dt q, .or dt q, .xor dt q, .swap dt q, .cas dt q, .fadd dt q,
    .vadd dt q]

/-- Each of them receives the request, which names its operation itself. -/
theorem exec_atomic {c : Instr} {dt : Nat} {q : Req} (hc : c ∈ atomicCommands dt q) (s : State) :
    exec c s = act c dt s (fun s => s.receive .atomic q) := by
  simp only [atomicCommands, List.mem_cons, List.not_mem_nil, or_false] at hc
  rcases hc with rfl | rfl | rfl | rfl | rfl | rfl | rfl | rfl | rfl | rfl | rfl | rfl <;> rfl

/-- Settles O11: the request reaches its home, the home combines the operand with what memory holds, and the answer leaves
nothing else to do. -/
theorem atomicsUpdateMemory : Obligations.AtomicsUpdateMemory := by
  intro dt q s off c hc hwf hform hserved hclean hallowed
  rw [exec_atomic hc]
  exact State.idle_sends (State.sends_sendTo _ _ _ _ _) ((hserved.heard dt).combined _).quiet _ dt _ hwf
    (hserved.receive_atomic hclean hallowed hform dt)

end Sys2Proof.Machine
end

section
/-! PROOFS. An answer to the one outstanding request of a host. -/

namespace Sys2Proof.Machine

/-- A request of a host's job as it was sent: nothing has joined it, no fallback path has served it, and no stall of it or
mismatch in its answer has been seen. -/
structure OutReq.OfHost (o : OutReq) (d : Party) : Prop where
  host : o.acc.org = .host d
  job : o.acc.q.job ≠ 0xFFFF
  alone : o.joined = []
  fell : o.fell = false
  reread : o.reread = false
  cause : o.cause = none

/-- A request that has been sent, and that an answer names by source and tag (R312). -/
structure OutReq.NamedBy (o : OutReq) (r : Rsp) : Prop where
  sid : o.sid = r.sid
  tag : o.tag = r.tag
  sent : o.sent = true

/-- A request with one segment more of its answer. -/
def OutReq.withSegment (o : OutReq) (r : Rsp) : OutReq := { o with segs := o.segs ++ [r] }

namespace State

/-! ### What every answer tells -/

theorem sends_portRecv (s : State) (r : Rsp) : s.Sends (s.portRecv r) := sends_countArrival s (.port r.port) _ _

theorem sends_noteWindow (s : State) (n ld : Nat) (emptyBucket : Bool) : s.Sends (s.noteWindow n ld emptyBucket) := by
  unfold noteWindow
  exact Sends.ite (Sends.refl s) (Sends.ite ((sends_modNode _ _ _).trans (sends_count _ _ _ _ _))
    (Sends.ite (Sends.ite (sends_modNode _ _ _) (sends_modNode _ _ _)) (Sends.refl s)))

theorem sends_noteResponse (s : State) (r : Rsp) : s.Sends (s.noteResponse r) :=
  (sends_modNode _ _ _).trans (sends_noteWindow _ _ _ _)

/-- The state that has counted an answer on its port and noted it at its node (R332, R334). -/
def answerNoted (s : State) (r : Rsp) : State := (s.portRecv r).noteResponse r

theorem sends_answerNoted (s : State) (r : Rsp) : s.Sends (s.answerNoted r) := (sends_portRecv s r).trans (sends_noteResponse _ r)

/-- An answer for this device is handled here (R319). -/
theorem rspOrPass_here {r : Rsp} (h : r.on = none) (s : State) (x : Inner) (here : State → State) :
    s.rspOrPass r x here = here s := by
  simp [rspOrPass, h, orPass]

/-! ### The checks of an answer's blocks -/

theorem Sends.crcBad {s t : State} (k : s.Sends t) (h : Half) (b : Blk) : t.crcBad h b = s.crcBad h b := by
  simp [State.crcBad, checksCrc, k.cfgBit]

theorem sends_countChecks (s : State) (h : Half) (bs : List Blk) : s.Sends (s.countChecks h bs) :=
  Sends.ite (sends_count _ _ _ _ _) (Sends.refl s)

/-- No block of a list fails its check. -/
theorem any_crcBad_eq_false {s : State} {h : Half} {bs : List Blk} (hgood : ∀ k ∈ bs, s.crcBad h k = false) :
    bs.any (s.crcBad h) = false := by
  rw [List.any_eq_false]
  intro k hk
  simp [hgood k hk]

theorem checkBulk_good {s : State} {a : Acc} {r : Reply} (hgood : ∀ k ∈ r.blks, s.crcBad (accHalf a) k = false) :
    s.checkBulk a r = (r, s.countChecks (accHalf a) r.blks) := by
  have hcounted : ∀ k ∈ r.blks, (s.countChecks (accHalf a) r.blks).crcBad (accHalf a) k = false := fun k hk =>
    ((sends_countChecks s _ _).crcBad _ k).trans (hgood k hk)
  simp [checkBulk, any_crcBad_eq_false hcounted]

/-! ### The completion at the entry device -/

/-- A read is not counted as outstanding (R279). -/
theorem trackDone_read {s : State} {a : Acc} {st : Status} (h : isWrite a = false) : s.trackDone a st = s := by
  simp [trackDone, h]

/-- An OK answer of a job that depends on no group faults no context and ends no job: its write is no longer counted, and it
goes to its requester (R225, R279). -/
theorem entryDone_ok {s : State} {a : Acc} {r : Reply} (level stage : Nat) (hst : r.status = .ok) (hjob : a.q.job ≠ 0xFFFF)
    (hids : replyIds r = []) : s.entryDone a r level stage = (s.trackDone a .ok).deliver a r := by
  simp [entryDone, recordFault, hst, hids, hjob, addDeps, Status.good, Status.consumes]

theorem finish_host {s : State} {a : Acc} {d : Party} {r : Reply} (horg : a.org = .host d) (hjob : a.q.job ≠ 0xFFFF)
    (hst : r.status = .ok) (hids : replyIds r = []) (hgood : ∀ k ∈ r.blks, s.crcBad (accHalf a) k = false) :
    s.finish a r = ((s.countChecks (accHalf a) r.blks).trackDone a .ok).sendReply d a r := by
  simp [finish, finishAt, horg, checkBulk_good hgood, entryDone_ok 0 0 hst hjob hids, deliver]

/-! ### The outstanding request -/

/-- The state in which no request is outstanding. -/
def noneOut (s : State) : State := { s with eng.outs := [] }

theorem dropOut_only {s : State} {o : OutReq} (houts : s.eng.outs = [o]) : s.dropOut o = s.noneOut := by
  simp [dropOut, noneOut, houts]

theorem outOf_only {s : State} {o : OutReq} {r : Rsp} (houts : s.eng.outs = [o]) (hname : o.NamedBy r) :
    s.outOf r.sid r.tag = some o := by
  simp [outOf, houts, hname.sid, hname.tag, hname.sent]

/-- An OK answer that passes its checks ends the one outstanding request, and its host has the answer (R279, R330). -/
theorem settleOut_host {s : State} {o : OutReq} {d : Party} {r : Reply} (ho : o.OfHost d) (houts : s.eng.outs = [o])
    (hst : r.status = .ok) (hloc : r.loc = none) (hids : replyIds r = [])
    (hgood : ∀ k ∈ r.blks, s.crcBad (accHalf o.acc) k = false) :
    s.settleOut o r = ((s.noneOut.countChecks (accHalf o.acc) r.blks).trackDone o.acc .ok).sendReply d o.acc r := by
  have hpass : r.blks.any (s.noneOut.crcBad (accHalf o.acc)) = false := any_crcBad_eq_false hgood
  have hrow : isRowReq o.acc = false := by simp [isRowReq, ho.host]
  have hanswers : joinedReplies o r = [(o.acc, r)] := by simp [joinedReplies, ho.alone]
  have hstall : s.noneOut.endStall o r = s.noneOut := by simp [endStall, ho.cause]
  unfold settleOut
  simp only [dropOut_only houts, hloc, ho.fell, hst, hrow, hpass, hanswers, hstall, ho.reread]
  exact finish_host ho.host ho.job hst hids hgood

theorem probeAnswered_host {s : State} {o : OutReq} {d : Party} (h : o.acc.org = .host d) : s.probeAnswered o = s := by
  simp [probeAnswered, h]

/-! ### One answer -/

/-- An answer that names an outstanding request settles it, and the windows are looked at again (R334). -/
theorem response_named {s : State} {o : OutReq} {r : Rsp} (h : (s.answerNoted r).outOf r.sid r.tag = some o) :
    s.response r = (((s.answerNoted r).probeAnswered o).settleOut o (replyOf r)).relaunch := by
  unfold answerNoted at h ⊢
  simp only [response, h]

/-- An OK answer to a host's one outstanding request that is none of a block read (R279, R312). -/
theorem response_host {s : State} {o : OutReq} {d : Party} {r : Rsp} (ho : o.OfHost d) (houts : s.eng.outs = [o])
    (hname : o.NamedBy r) (hst : r.status = 0) (hloc : r.loc = none) (hu : r.u = false) :
    s.response r = (((s.answerNoted r).noneOut.trackDone o.acc .ok).sendReply d o.acc (replyOf r)).relaunch := by
  have hnoted : (s.answerNoted r).eng.outs = [o] := by rw [(sends_answerNoted s r).eng, houts]
  have hok : (replyOf r).status = .ok := by simp [replyOf, hst, Status.ofCode]
  have hids : replyIds (replyOf r) = [] := by simp [replyIds, replyOf, hu]
  rw [response_named (outOf_only hnoted hname), probeAnswered_host ho.host,
    settleOut_host ho hnoted hok hloc hids (fun k hk => absurd hk List.not_mem_nil)]
  rfl

/-! ### Segments -/

/-- The state whose one outstanding request is `o`. -/
def onlyOut (s : State) (o : OutReq) : State := { s with eng.outs := [o] }

/-- A bulk answer that is whole (R317). -/
def wholeReply (r : Rsp) (ks : List Blk) : Reply := { replyOf r with status := .ok, data := [], blks := ks, u := false, pz := 0 }

/-- With no unconfirmed data it is the last segment's fields with the blocks in place of its own data. -/
theorem wholeReply_confirmed {r : Rsp} (hu : r.u = false) (ks : List Blk) :
    wholeReply r ks = { replyOf r with status := .ok, data := [], blks := ks, pz := 0 } := by
  simp [wholeReply, replyOf, hu]

/-- A segment is kept with its request; the last one settles it (R315, R317). -/
theorem segment_named {s : State} {o : OutReq} {r : Rsp} (houts : s.eng.outs = [o]) (hname : o.NamedBy r) :
    s.segment r = if r.last then
        (((s.answerNoted r).onlyOut (o.withSegment r)).settleOut (o.withSegment r) (wholeReply r (blksOf (o.segs ++ [r])))).relaunch
      else (s.answerNoted r).onlyOut (o.withSegment r) := by
  have hnoted : (s.answerNoted r).eng.outs = [o] := by rw [(sends_answerNoted s r).eng, houts]
  have hnamed := outOf_only hnoted hname
  unfold answerNoted at hnoted hnamed ⊢
  simp only [segment, hnamed, hnoted, List.map_cons, List.map_nil, if_true]
  rfl

/-- The last segment makes a bulk answer whole (R317): its blocks are counted as checked, and its host has them. -/
theorem segment_last {s : State} {o : OutReq} {d : Party} {r : Rsp} {ks : List Blk} (ho : o.OfHost d) (houts : s.eng.outs = [o])
    (hname : o.NamedBy r) (hop : o.acc.op = .bget) (hloc : r.loc = none) (hlast : r.last = true)
    (hks : ks = blksOf (o.segs ++ [r])) (hck : ∀ k ∈ ks, k.ck = none) (hgood : ∀ k ∈ ks, s.crcBad (accHalf o.acc) k = false) :
    s.segment r = (((s.answerNoted r).noneOut.countChecks (accHalf o.acc) ks).sendReply d o.acc (wholeReply r ks)).relaunch := by
  have hsame : (o.withSegment r).OfHost d := ⟨ho.host, ho.job, ho.alone, ho.fell, ho.reread, ho.cause⟩
  have hpass : ∀ b ∈ ks, ((s.answerNoted r).onlyOut (o.withSegment r)).crcBad (accHalf o.acc) b = false := fun b hb =>
    ((sends_answerNoted s r).crcBad _ b).trans (hgood b hb)
  have hids : replyIds (wholeReply r ks) = [] := by simpa [replyIds, wholeReply] using hck
  have hread : isWrite (o.withSegment r).acc = false := by simp [isWrite, OutReq.withSegment, hop]
  rw [segment_named houts hname, if_pos hlast, ← hks, settleOut_host hsame rfl rfl hloc hids hpass, trackDone_read hread]
  rfl

end State

/-! ### The obligation -/

theorem exec_rsp (dt : Nat) (r : Rsp) (s : State) :
    exec (.rsp dt r) s = act (.rsp dt r) dt s (fun s => s.rspOrPass r (.rsp r) (fun s => s.response r)) := rfl

theorem exec_bdone (dt : Nat) (r : Rsp) (s : State) :
    exec (.bdone dt r) s = act (.bdone dt r) dt s (fun s => s.rspOrPass r (.bdone r) (fun s => s.response r)) := rfl

theorem exec_bdataSegment (dt : Nat) (r : Rsp) (s : State) :
    exec (.bdataSegment dt r) s =
      act (.bdataSegment dt r) dt s (fun s => s.rspOrPass r (.bdata r) (fun s => s.segment r)) := rfl

/-- Settles O39: what an answer tells of its node leaves the outstanding request as it was; the answer then ends it, or is one
segment of its answer. -/
theorem answersReachRequester : Obligations.AnswersReachRequester := by
  rintro dt r o d s b hwf hquiet rfl houts hsid htag hsent horg hjob hjoined hfell - hreread hcause hon hloc hu
  have ho : o.OfHost d := ⟨horg, hjob, hjoined, hfell, hreread, hcause⟩
  have hname : o.NamedBy r := ⟨hsid, htag, hsent⟩
  have hbegun : (s.begun dt).eng.outs = [o] := houts
  have hhere := State.rspOrPass_here hon (s.begun dt)
  refine ⟨?answer, ?more, ?last⟩
  case answer =>
    rintro c hc - - - hst
    have hresponse := State.response_host ho hbegun hname hst hloc hu
    simp only [List.mem_cons, List.not_mem_nil, or_false] at hc
    rcases hc with rfl | rfl
    · exact (exec_rsp _ _ _).trans (act_settles hwf ((hhere _ _).trans hresponse))
    · exact (exec_bdone _ _ _).trans (act_settles hwf ((hhere _ _).trans hresponse))
  case more =>
    intro hlast
    have hnoted := (State.sends_answerNoted (s.begun dt) r).quiet (hquiet.begun dt)
    have hkept : (((s.begun dt).answerNoted r).onlyOut (o.withSegment r)).Quiet :=
      ⟨hnoted.todo, hnoted.retries, hnoted.fronts, hnoted.behind, hnoted.fences, hnoted.waiting, hnoted.retracts⟩
    have hsegment : (s.begun dt).segment r = ((s.begun dt).answerNoted r).onlyOut (o.withSegment r) := by
      rw [State.segment_named hbegun hname, hlast, if_neg Bool.false_ne_true]
    rw [exec_bdataSegment, act_settles (c := .bdataSegment dt r) hwf ((hhere _ _).trans hsegment), State.settle_idle _ hkept]
    rfl
  case last =>
    rintro ks hlast hop rfl hck hgood
    have hsegment := State.segment_last ho hbegun hname hop hloc hlast rfl hck hgood
    rw [exec_bdataSegment, act_settles (c := .bdataSegment dt r) hwf ((hhere _ _).trans hsegment), State.wholeReply_confirmed hu]
    rfl

end Sys2Proof.Machine
end

section
/-! PROOFS. The ends of the Geled Link: what a frame, a change of width and the loss of an end leave of it. -/

namespace Sys2Proof.Machine
namespace State

/-! ### The two ends -/

@[simp] theorem half_other_other (e : Half) : e.other.other = e := by cases e <;> rfl

@[simp] theorem geled_modGeled_other (s : State) (e : Half) (f : GEnd → GEnd) :
    (s.modGeled e f).geled e.other = s.geled e.other := by cases e <;> rfl

theorem geled_congr {s t : State} (h : t.gel = s.gel) (e : Half) : t.geled e = s.geled e := by
  cases e <;> simp [geled, h]

/-- Two changes of an end that agree on it are one. -/
theorem modGeled_congr (s : State) (e : Half) {f g : GEnd → GEnd} (h : f (s.geled e) = g (s.geled e)) :
    s.modGeled e f = s.modGeled e g := by
  cases e
  · exact congrArg (fun x => { s with gel.west := x }) h
  · exact congrArg (fun x => { s with gel.east := x }) h

theorem modGeled_self (s : State) (e : Half) (f : GEnd → GEnd) (h : f (s.geled e) = s.geled e) : s.modGeled e f = s :=
  (modGeled_congr s e (g := id) h).trans (by cases e <;> rfl)

theorem modGeled_modGeled (s : State) (e : Half) (f g : GEnd → GEnd) :
    (s.modGeled e f).modGeled e g = s.modGeled e (fun x => g (f x)) := by cases e <;> rfl

theorem endUp_either (s : State) (e : Half) : (s.endUp .west || s.endUp .east) = (s.endUp e || s.endUp e.other) := by
  cases e
  · rfl
  · exact Bool.or_comm _ _

/-! ### Messages offered on an end -/

/-- `t` is `s` but for messages that have left on end `e` or wait on it. -/
structure Offered (s t : State) (e : Half) : Prop where
  sends : s.Sends t
  far : t.geled e.other = s.geled e.other
  st : (t.geled e).st = (s.geled e).st
  downSince : t.gel.downSince = s.gel.downSince

theorem Offered.refl (s : State) (e : Half) : s.Offered s e := ⟨Sends.refl s, rfl, rfl, rfl⟩

theorem Offered.trans {s t u : State} {e : Half} (h : s.Offered t e) (k : t.Offered u e) : s.Offered u e :=
  ⟨h.sends.trans k.sends, k.far.trans h.far, k.st.trans h.st, k.downSince.trans h.downSince⟩

theorem Offered.endUp {s t : State} {e : Half} (h : s.Offered t e) (x : Half) : t.endUp x = s.endUp x := by
  have hx : x = e ∨ x = e.other := by cases x <;> cases e <;> simp [Half.other]
  rcases hx with rfl | rfl
  · simp [State.endUp, h.st]
  · simp [State.endUp, h.far]

theorem offered_emit (s : State) (e : Half) (o : Out) : s.Offered (s.emit o) e :=
  ⟨sends_emit s o, geled_congr (emit_gel s o) _, congrArg GEnd.st (geled_congr (emit_gel s o) _), by rw [emit_gel]⟩

/-- A change of an end that leaves its state alone. -/
theorem offered_modGeled (s : State) (e : Half) {f : GEnd → GEnd} (hf : ∀ g, (f g).st = g.st) : s.Offered (s.modGeled e f) e :=
  ⟨sends_modGeled s e f, geled_modGeled_other s e f, by rw [geled_modGeled_same, hf], by cases e <;> rfl⟩

theorem offered_offerGeled (s : State) (e : Half) (hv : Bool) (m : Msg) : s.Offered (s.offerGeled e hv m) e := by
  unfold offerGeled
  rcases geledChannel m with ⟨vc, n⟩
  dsimp only
  split
  · rcases intoFlash (s.geled e).link s.now n [] with ⟨l, f⟩
    refine Offered.trans ?_ (offered_emit _ e _)
    refine Offered.trans ?_ (offered_modGeled _ e fun _ => ?_)
    · cases f with
      | none => exact Offered.refl s e
      | some q => exact offered_emit s e _
    · rfl
  · exact offered_modGeled s e fun _ => rfl

theorem offered_moveGeled (s : State) (e : Half) (q : List (Nat × Nat × Bool × Msg)) : s.Offered (s.moveGeled e q) e :=
  List.foldlRecOn (motive := (s.Offered · e)) q _ (Offered.refl s e) fun t ht x _ => ht.trans (offered_offerGeled t e x.2.2.1 x.2.2.2)

/-! ### The loss of an end or of its stream -/

/-- The count and the gutter record of a loss (R306). -/
def lossNoted (s : State) (e : Half) : State :=
  (s.count e 0x40B0 3).gutter e 0x10 0x01 (if e = .west then 0 else 306) 0x04 (severity := 2)

/-- What is left of an end that goes down, or of one that has lost its stream alone (R296, R306). -/
def lostEnd (down : Bool) (g : GEnd) : GEnd := if down then dropEnd g else { g with partUnits := 0, partHead := none }

/-- `t` is `s` after end `e` has come to `g` while an end of the link stays Up: the other end still is what it was, one gutter
record tells of the loss, and memory, groups and what is to be done are as they were. -/
structure Lost (s t : State) (e : Half) (g : GEnd) : Prop where
  lost : t.geled e = g
  far : t.endUp e.other = s.endUp e.other
  downSince : t.gel.downSince = s.gel.downSince
  nextSeq : t.mgm.nextSeq = (s.mgm.nextSeq + 1) % 2 ^ 32
  near : t.near = s.near
  itg : t.itg = s.itg
  quiet : s.Quiet → t.Quiet

@[simp] theorem lossNoted_gel (s : State) (e : Half) : (s.lossNoted e).gel = s.gel := by simp [lossNoted]

theorem geled_lossNoted (s : State) (e x : Half) : (s.lossNoted e).geled x = s.geled x := geled_congr (lossNoted_gel s e) x

theorem Quiet.lossNoted {s : State} (h : s.Quiet) (e : Half) : (s.lossNoted e).Quiet :=
  ((sends_count s e 0x40B0 3 1).quiet h).gutter ..

/-- The end-lost message, and what waited on an end that goes down, leave on the other end (R298, R306). -/
def lossTold (s : State) (e : Half) (down : Bool) (rcvd : Nat) (q : List (Nat × Nat × Bool × Msg)) : State :=
  if s.endUp e.other then
    if down then (s.offerGeled e.other true (.endLost e rcvd)).moveGeled e.other q
    else s.offerGeled e.other true (.endLost e rcvd)
  else if down then s.modGeled e (fun x => { x with queue := q }) else s

/-- With neither end Up the time of the link's loss begins (R307). -/
def downNoted (s : State) : State :=
  if s.endUp .west || s.endUp .east then s else { s with gel.downSince := some (s.gel.downSince.getD s.now) }

theorem loseEnd_eq (s : State) (e : Half) (down : Bool) :
    s.loseEnd e down =
      (((s.lossNoted e).modGeled e (lostEnd down)).lossTold e down (s.geled e).rcvd (s.geled e).queue).downNoted := by
  cases down <;> rfl

theorem lossTold_offered {s : State} {e : Half} {down : Bool} (h : s.endUp e.other = true ∨ down = false) (rcvd : Nat)
    (q : List (Nat × Nat × Bool × Msg)) : s.Offered (s.lossTold e down rcvd q) e.other := by
  have hmessage := s.offered_offerGeled e.other true (.endLost e rcvd)
  unfold lossTold
  split
  · split
    · exact hmessage.trans (offered_moveGeled _ _ _)
    · exact hmessage
  · next hup =>
    rw [h.resolve_left hup]
    exact Offered.refl s _

theorem downNoted_up {s : State} {e : Half} (h : s.endUp e = true ∨ s.endUp e.other = true) : s.downNoted = s := by
  unfold downNoted
  rw [endUp_either s e, if_pos (Bool.or_eq_true_iff.mpr h)]

/-- A loss that leaves an end Up is a note, the change of the end, and messages on the other end (R296, R306). -/
theorem loseEnd_offered (s : State) (e : Half) (down : Bool)
    (hkept : s.endUp e.other = true ∨ down = false ∧ s.endUp e = true) :
    ((s.lossNoted e).modGeled e (lostEnd down)).Offered (s.loseEnd e down) e.other := by
  have hfar : ((s.lossNoted e).modGeled e (lostEnd down)).endUp e.other = s.endUp e.other := by
    simp [State.endUp, geled_lossNoted]
  have hnear (hd : down = false) : ((s.lossNoted e).modGeled e (lostEnd down)).endUp e = s.endUp e := by
    simp [State.endUp, geled_lossNoted, lostEnd, hd]
  have k := lossTold_offered (hfar.symm ▸ hkept.imp_right And.left) (s.geled e).rcvd (s.geled e).queue
  rw [loseEnd_eq, downNoted_up (e := e)]
  · exact k
  · rw [k.endUp, k.endUp, hfar]
    exact hkept.symm.imp_left fun h => (hnear h.1).trans h.2

theorem loseEnd_lost (s : State) (e : Half) (down : Bool)
    (hkept : s.endUp e.other = true ∨ down = false ∧ s.endUp e = true) :
    s.Lost (s.loseEnd e down) e (lostEnd down (s.geled e)) := by
  have k := loseEnd_offered s e down hkept
  exact {
    lost := by simpa [geled_lossNoted] using k.far
    far := by rw [k.endUp]; simp [State.endUp, geled_lossNoted]
    downSince := by rw [k.downSince]; cases e <;> simp [modGeled]
    nextSeq := by rw [k.sends.mgm]; simp [lossNoted, gutter_nextSeq]
    near := by rw [k.sends.near]; simp [lossNoted]
    itg := by rw [k.sends.itg]; simp [lossNoted]
    quiet := fun h => k.sends.quiet ((sends_modGeled _ _ _).quiet (h.lossNoted e)) }

/-- An end that has been Up goes down with an end-lost message (R306). -/
theorem endLostEvent_trained {s : State} {e : Half} (hst : 2 ≤ (s.geled e).st) (hfirst : (s.geled e).first = false) :
    s.endLostEvent e = s.loseEnd e true := by
  have htrained : ¬ (s.geled e).st ≤ 1 := by omega
  simp [endLostEvent, htrained, hfirst]

/-! ### The units of a frame -/

theorem walkUnit_stopped {w : Walked} (h : w.ok = false) (u : Nat) : walkUnit w u = w := by simp [walkUnit, h]

/-- Idle fill between messages (R292). -/
theorem walkUnit_idle {w : Walked} (h : w.head = none) : walkUnit w 0 = w := by simp [walkUnit, h]

/-- A unit that cannot begin a message: from here the stream cannot be followed (R296). -/
theorem walkUnit_unreadable {w : Walked} {u : Nat} (hok : w.ok = true) (hhead : w.head = none) (hu : u ≠ 0)
    (hbad : u % 16 = 0 ∨ 8 < u % 16 ∨ u / 256 % 4096 ≤ 1) : walkUnit w u = { w with ok := false, left := 0 } := by
  simp [walkUnit, hok, hhead, hu, or_assoc, hbad]

/-- A frame's number and the credits it returns (R292, R297; log entry 34). -/
def frameTaken (fseq : Nat) (cr : List Nat) (g : GEnd) : GEnd :=
  trimLog { g with rcvd := fseq, sent := fseq, credits := List.zipWith (· + ·) g.credits cr }

@[simp] theorem frameTaken_st (fseq : Nat) (cr : List Nat) (g : GEnd) : (frameTaken fseq cr g).st = g.st := rfl

/-- An end between messages, with nothing waiting. -/
structure Between (g : GEnd) : Prop where
  up : g.st = 4
  queue : g.queue = []
  left : g.partUnits = 0
  head : g.partHead = none

/-- A frame none of whose units belong to a message gives its number and credits; then the stream is followed or lost. -/
theorem frame_noMessage {s : State} {e : Half} (h : Between (s.geled e)) (fseq : Nat) (cr units : List Nat) {ok : Bool}
    (hunits : units.foldl walkUnit { left := 0, head := none, cr := [0, 0, 0, 0] } =
      { left := 0, head := none, cr := [0, 0, 0, 0], ok := ok }) :
    s.frame e fseq cr units =
      if ok then s.modGeled e (frameTaken fseq cr) else (s.modGeled e (frameTaken fseq cr)).loseEnd e false := by
  have htaken :
      s.modGeled e (fun g => trimLog
        { g with rcvd := fseq, sent := fseq, partUnits := 0, partHead := none, credits := List.zipWith (· + ·) g.credits cr }) =
      s.modGeled e (frameTaken fseq cr) :=
    modGeled_congr s e (by simp only [frameTaken, ← h.left, ← h.head])
  have hqueue : ((s.modGeled e (frameTaken fseq cr)).geled e).queue = [] := by
    rw [geled_modGeled_same]; exact h.queue
  have hdrained : (s.modGeled e (frameTaken fseq cr)).drainGeled e = s.modGeled e (frameTaken fseq cr) := by
    unfold drainGeled
    rw [hqueue]
    exact modGeled_self _ e _ (by rw [← hqueue])
  unfold frame upFrame
  simp only [h.up, h.left, h.head, hunits, htaken, hdrained]
  rfl

/-! ### A change of width -/

/-- A width that is still the end's own is only noted (R304). -/
theorem widthChange_same {s : State} {e : Half} {good : Nat} (h8 : 8 ≤ good) (hup : (s.geled e).st = 4)
    (hwidth : (s.geled e).half = decide (good < 16)) : s.widthChange e good = s.modGeled e (fun g => { g with good := good }) := by
  simp [widthChange, Nat.not_lt.mpr h8, hup, hwidth]

/-- With fewer than 16 lanes an end at full width aligns anew at half width; the other end keeps the link Up (R304). -/
theorem widthChange_narrows {s : State} {e : Half} {good : Nat} (h8 : 8 ≤ good) (hup : (s.geled e).st = 4)
    (hfew : good < 16) (hfull : (s.geled e).half = false) (hother : s.endUp e.other = true) :
    s.widthChange e good =
      (s.modGeled e (fun g => { g with good := good, st := 2, half := true, inits := 0 })).count e 0x40B0 4 := by
  have hkept : ((s.modGeled e (fun g => { g with good := good, st := 2, half := true, inits := 0 })).count e 0x40B0 4).endUp
      e.other = true := by
    rw [State.endUp, geled_congr (count_gel _ _ _ _ _), geled_modGeled_other]
    exact hother
  unfold widthChange
  simp only [Nat.not_lt.mpr h8, hup, hfew, hfull, modGeled_modGeled, hkept, decide_true, bne_self_eq_false, beq_iff_eq,
    Bool.true_eq_false, Bool.false_eq_true, reduceIte]

/-! ### The far side's loss -/

/-- What the far side did not receive of its lost end goes again on the other (R306). -/
theorem resendLost_other (s : State) (e : Half) (fseq : Nat) :
    s.resendLost e e.other fseq =
      ((s.geled e.other).log.filter (fun m => 0 < fseqAhead m.1 fseq && fseqAhead m.1 fseq < 32768)).foldl
        (fun (u : State) m => u.offerGeled e m.2.1 m.2.2) (s.modGeled e.other (fun g => { g with log := [] })) := by
  cases e <;> rfl

theorem sends_resendLost (s : State) (e lost : Half) (fseq : Nat) : s.Sends (s.resendLost e lost fseq) := by
  unfold resendLost
  dsimp only
  split
  · exact sends_modGeled _ _ _
  · exact (sends_modGeled _ _ _).trans (Sends.foldl _ (fun t _ => sends_offerGeled t e _ _) _ _)

/-! ### The loss of the whole link -/

theorem sends_linkLost (s : State) (b : Bool) : s.Sends { s with gel.lost := b } := by constructor <;> rfl

theorem agentDies_free {s : State} {a : Nat} (h : (s.agentRec a).state = 0) : s.agentDies a = s := by simp [agentDies, h]

/-- After 100 µs with no end Up the messages that wait are counted and given up, and the link is lost (R307). -/
theorem linkLoss_due {s : State} {since : Nat} (hdown : s.gel.downSince = some since) (hdue : since + 160000 ≤ s.now)
    (hwest : s.endUp .west = false) (heast : s.endUp .east = false) (hlost : s.gel.lost = false)
    (hagent : (s.agentRec 0).state = 0) :
    s.linkLoss =
      ({ ((s.count .west 0x40B0 8 ((s.gel.west.queue ++ s.gel.east.queue).filter (fun m => m.1 == 1)).length).modGeled .west
          (fun g => { g with queue := [], log := [] })).modGeled .east (fun g => { g with queue := [], log := [] })
          with gel.lost := true } : State).count .west 0x40B0 9 := by
  have hnow : ¬ s.now < since + 160000 := by omega
  unfold linkLoss
  simp only [hdown, hwest, heast, hlost, hnow, decide_false, Bool.or_self, Bool.false_eq_true, if_false]
  exact agentDies_free hagent

end State

/-! ### The obligation -/

/-- A command whose effect is `u` is all that it does when `u` leaves nothing to do. -/
theorem act_quiet {c : Instr} {dt : Nat} {s u : State} {f : State → State} (hwf : c.wf = true) (hf : f (s.begun dt) = u)
    (hq : u.Quiet) : act c dt s f = .next (s.after dt u) := by
  rw [act_settles hwf hf, State.settle_idle u hq]

theorem exec_geledFrame (dt : Nat) (e : Half) (fseq a b c d : Nat) (rep : Bool) (qy : Nat) (units : List Nat) (s : State) :
    exec (.geledFrame dt e fseq a b c d rep qy units) s =
      act (.geledFrame dt e fseq a b c d rep qy units) dt s (fun s => s.frame e fseq [a, b, c, d] units) := rfl

theorem exec_endWidthChange (dt : Nat) (e : Half) (good : Nat) (s : State) :
    exec (.endWidthChange dt e good) s = act (.endWidthChange dt e good) dt s (fun s => s.widthChange e good) := rfl

theorem exec_endLost (dt : Nat) (e : Half) (s : State) :
    exec (.endLost dt e) s = act (.endLost dt e) dt s (fun s => s.endLostEvent e) := rfl

theorem exec_endLostMessage (dt : Nat) (e lost : Half) (fseq : Nat) (s : State) :
    exec (.endLostMessage dt e lost fseq) s = act (.endLostMessage dt e lost fseq) dt s (fun s => s.resendLost e lost fseq) := rfl

theorem exec_linkLossTimeout (dt : Nat) (s : State) :
    exec (.linkLossTimeout dt) s = act (.linkLossTimeout dt) dt s (fun s => s.linkLoss) := rfl

/-- Settles O49: each event of the link is what its operation leaves of the end, with nothing left to do. -/
theorem geledEnds : Obligations.GeledEnds := by
  intro dt e s hquiet
  have hbegun : (s.begun dt).Quiet := hquiet.begun dt
  refine ⟨?frame, ?width, ?lost, ?resent, ?linkLoss⟩
  case frame =>
    intro fseq a b c d rep qy units hwf hup hqueue hleft hhead
    have hbetween : State.Between ((s.begun dt).geled e) := ⟨hup, hqueue, hleft, hhead⟩
    have hframe := fun ok => State.frame_noMessage (ok := ok) hbetween fseq [a, b, c, d] units
    constructor
    · intro hidle
      refine (exec_geledFrame ..).trans (State.idle_sends (State.sends_modGeled _ _ _) hbegun _ dt _ hwf (hframe true ?_))
      refine State.foldl_fixed_mem _ _ _ fun u hu => ?_
      rw [hidle u hu, State.walkUnit_idle rfl]
    · rintro u us rfl hu hbad
      have hlostFrame : (s.begun dt).frame e fseq [a, b, c, d] (u :: us) =
          ((s.begun dt).modGeled e (State.frameTaken fseq [a, b, c, d])).loseEnd e false := by
        refine hframe false ?_
        rw [List.foldl_cons, State.walkUnit_unreadable rfl rfl hu hbad]
        exact State.foldl_fixed _ _ _ (State.walkUnit_stopped rfl)
      have hstill : ((s.begun dt).modGeled e (State.frameTaken fseq [a, b, c, d])).endUp e = true := by
        simp [State.endUp, hbetween.up]
      have k := State.loseEnd_lost _ e false (.inr ⟨rfl, hstill⟩)
      rw [State.geled_modGeled_same] at k
      refine ⟨_, (exec_geledFrame ..).trans (act_quiet hwf hlostFrame (k.quiet ((State.sends_modGeled _ _ _).quiet hbegun))),
        (congrArg GEnd.st k.lost).trans hup, congrArg GEnd.partUnits k.lost, congrArg GEnd.partHead k.lost,
        k.nextSeq.trans (by rw [State.modGeled_mgm]; rfl), k.near.trans (State.modGeled_near _ _ _),
        k.itg.trans (State.modGeled_itg _ _ _)⟩
  case width =>
    intro good h8 h18 hup
    have hwf : (Instr.endWidthChange dt e good).wf = true := by simp [Instr.wf, h18]
    constructor
    · intro hfew hfull hother
      exact (exec_endWidthChange ..).trans (State.idle_sends
        ((State.sends_modGeled _ _ _).trans (State.sends_count _ _ _ _ _)) hbegun _ dt _ hwf
        (State.widthChange_narrows (s := s.begun dt) h8 hup hfew hfull hother))
    · intro hwidth
      exact (exec_endWidthChange ..).trans (State.idle_sends (State.sends_modGeled _ _ _) hbegun _ dt _ hwf
        (State.widthChange_same (s := s.begun dt) h8 hup hwidth))
  case lost =>
    intro hst hfirst hother
    have hevent : (s.begun dt).endLostEvent e = (s.begun dt).loseEnd e true :=
      State.endLostEvent_trained (s := s.begun dt) hst hfirst
    have k := (s.begun dt).loseEnd_lost e true (.inl hother)
    exact ⟨_, (exec_endLost ..).trans (act_quiet rfl hevent (k.quiet hbegun)), congrArg GEnd.st k.lost,
      congrArg GEnd.credits k.lost, congrArg GEnd.partUnits k.lost, congrArg GEnd.queue k.lost, congrArg (·.link.up) k.lost,
      k.far.trans hother, k.downSince, k.nextSeq, k.near, k.itg⟩
  case resent =>
    intro fseq hfseq
    have hwf : (Instr.endLostMessage dt e e.other fseq).wf = true := by simpa [Instr.wf] using hfseq
    have hagain := (s.begun dt).resendLost_other e fseq
    exact (exec_endLostMessage ..).trans
      (State.idle_sends (hagain ▸ State.sends_resendLost _ _ _ _) hbegun _ dt _ hwf hagain)
  case linkLoss =>
    rintro since n hdown hdue hwest heast hlost hagent rfl
    refine (exec_linkLossTimeout ..).trans (State.idle_sends ?_ hbegun _ dt _ rfl
      (State.linkLoss_due (s := s.begun dt) hdown hdue hwest heast hlost hagent))
    refine State.Sends.trans ?_ (State.sends_count _ _ _ _ _)
    refine State.Sends.trans ?_ (State.sends_linkLost _ true)
    exact ((State.sends_count _ _ _ _ _).trans (State.sends_modGeled _ _ _)).trans (State.sends_modGeled _ _ _)

end Sys2Proof.Machine
end

section
/-! PROOFS. The dictionary by index: reads and descriptions that are answered, pending reads, and the mailbox. -/

namespace Sys2Proof.Machine
namespace State

/-! ### A request that is looked at -/

/-- A read or describe PDU whose object is looked at: every path answers now, it is well formed, carries no trailer and is new to
the reply cache (R431, R436 to R438). -/
structure Looks (s : State) (p : Pdu) (kind index sub : Nat) : Prop where
  gate : s.phaseGate p index sub = .go
  phase : s.phase ≠ 0xF0
  good : pduGood p = true
  trailer : p.trailer = none
  fresh : s.keptReply p kind index sub = none

theorem takePdu_keptReply (s : State) (p q : Pdu) (kind index sub : Nat) :
    (s.takePdu p).keptReply q kind index sub = s.keptReply q kind index sub := by
  obtain ⟨hmgm, -⟩ := s.takePdu_keeps p
  simp [keptReply, hmgm]

theorem Looks.dictRead {s : State} {p : Pdu} {kind index sub : Nat} {o : Obj} (h : s.Looks p kind index sub)
    (hobj : objAt index sub = some o) :
    s.dictRead p kind index sub =
      if mayRead p index then (s.takePdu p).readObject p kind index sub o
      else (s.takePdu p).answerRead p kind index sub (replyPdu p index sub (outcome .rightsFault dPath) 0 0) := by
  obtain ⟨-, hphase, -⟩ := s.takePdu_keeps p
  have hfresh := (s.takePdu_keptReply p p kind index sub).trans h.fresh
  unfold State.dictRead
  cases hmay : mayRead p index <;>
    simp [h.gate, h.phase, hphase, h.good, h.trailer, hfresh, hobj]

/-- The reply of a read: as much of the value as it asks for and its path carries, from the offset it asks for (R436, R437). -/
def valueReply (p : Pdu) (index sub : Nat) (v : Bytes) : WReply :=
  replyPdu p index sub
    { data := (v.drop p.offset).take (min (pduLimit p) (if p.total == 0 then (v.drop p.offset).length else p.total)) }
    p.offset v.length

/-- A read answers the object's value; a gutter record then counts as read (R392, R436). -/
theorem readObject_value (s : State) (p : Pdu) (index sub : Nat) (o : Obj) :
    s.readObject p 1 index sub o =
      (s.markRead index).answerRead p 1 index sub (valueReply p index sub (s.objectValue o index sub)) := rfl

theorem Looks.dictRead_read {s : State} {p : Pdu} {kind index sub : Nat} {o : Obj} (h : s.Looks p kind index sub)
    (hobj : objAt index sub = some o) (hmay : mayRead p index = true) :
    s.dictRead p kind index sub = (s.takePdu p).readObject p kind index sub o := by
  rw [h.dictRead hobj, if_pos hmay]

/-! ### Replies leave nothing to do -/

/-- The gutter record that a read of an object shows, if any (R392). -/
def recordRead (s : State) (index : Nat) : Option Gutter :=
  if 0x6800 ≤ index && index ≤ 0x68FF then tget (index - 0x6800) s.mgm.ring else none

theorem markRead_none {s : State} {index : Nat} (h : s.recordRead index = none) : s.markRead index = s := by
  unfold markRead
  rw [show (if 0x6800 ≤ index && index ≤ 0x68FF then tget (index - 0x6800) s.mgm.ring else none) = none from h]

theorem markRead_some {s : State} {index : Nat} {r : Gutter} (h : s.recordRead index = some r) :
    s.markRead index = { s with mgm.ring := tput (index - 0x6800) { r with readBy := true } s.mgm.ring } := by
  unfold markRead
  rw [show (if 0x6800 ≤ index && index ≤ 0x68FF then tget (index - 0x6800) s.mgm.ring else none) = some r from h]

theorem markRead_mailbox (s : State) (index : Nat) : (s.markRead index).mgm.mailbox = s.mgm.mailbox := by
  cases h : s.recordRead index with
  | none => rw [markRead_none h]
  | some r => rw [markRead_some h]

theorem Quiet.with_mgm {s : State} (h : s.Quiet) (m : Mgmt) : ({ s with mgm := m } : State).Quiet :=
  ⟨h.todo, h.retries, h.fronts, h.behind, h.fences, h.waiting, h.retracts⟩

theorem Quiet.markRead {s : State} (h : s.Quiet) (index : Nat) : (s.markRead index).Quiet := by
  cases hr : s.recordRead index with
  | none => rwa [markRead_none hr]
  | some r => exact markRead_some hr ▸ h.with_mgm _

/-- Keeping a reply is a change of the management state. -/
theorem keepReply_shape (s : State) (p : Pdu) (kind index sub : Nat) (r : Option WReply) :
    ∃ k, s.keepReply p kind index sub r = { s with mgm.kept := k } := by
  unfold keepReply
  dsimp only
  repeat' split
  all_goals exact ⟨_, rfl⟩

theorem Quiet.keepReply {s : State} (h : s.Quiet) (p : Pdu) (kind index sub : Nat) (r : Option WReply) :
    (s.keepReply p kind index sub r).Quiet := by
  obtain ⟨k, hk⟩ := s.keepReply_shape p kind index sub r
  exact hk ▸ h.with_mgm _

theorem sends_countPort (s : State) (p : Pdu) (sub : Nat) : s.Sends (s.countPort p sub) := by
  unfold countPort
  split
  · exact sends_count _ _ _ _ _
  · exact Sends.refl s

theorem Quiet.sendWaest {s : State} (h : s.Quiet) (p : Pdu) (r : WReply) : (s.sendWaest p r).Quiet := by
  unfold State.sendWaest
  split
  · exact (sends_toCompanion _ _ _ _).quiet (h.with_mgm _)
  · exact ((sends_countPort s p 6).trans (sends_emit _ _)).quiet h

theorem Quiet.answerRead {s : State} (h : s.Quiet) (p : Pdu) (kind index sub : Nat) (r : WReply) :
    (s.answerRead p kind index sub r).Quiet :=
  (h.keepReply p kind index sub _).sendWaest p r

theorem sends_takePdu (s : State) (p : Pdu) : s.Sends (s.takePdu p) := by
  unfold takePdu
  split
  · exact sends_countPort s p 5
  · exact sends_count _ _ _ _ _
  · exact Sends.refl s

theorem Quiet.readObject {s : State} (h : s.Quiet) (p : Pdu) (kind index sub : Nat) (o : Obj) :
    (s.readObject p kind index sub o).Quiet := by
  unfold State.readObject
  split
  · exact h.answerRead ..
  · exact (h.markRead index).answerRead ..

theorem Quiet.answered {s : State} (h : s.Quiet) (p : Pdu) (index sub : Nat) (x : Result) : (s.answered p index sub x).Quiet := by
  obtain ⟨m, hm⟩ := s.answered_keeps p index sub x
  exact hm.quiet (h.with_mgm m)

/-! ### Pending reads -/

theorem pendingCmd_slated {s : State} {d : Bytes} {x : Obj} (hobj : objAt (field 0 2 d) (field 2 1 d) = some x)
    (hlow : 0x2000 ≤ field 0 2 d) (hhigh : field 0 2 d ≤ 0x2EFF) (hsub : field 2 1 d ≠ 0) :
    s.pendingCmd d = ({ data := s.pendingBytes (field 0 2 d) (field 2 1 d) }, s) := by
  simp [pendingCmd, hobj, hsub, Nat.not_lt.mpr hlow, Nat.not_lt.mpr hhigh]

theorem pendingCmd_unslated {s : State} {d : Bytes} {x : Obj} (hobj : objAt (field 0 2 d) (field 2 1 d) = some x)
    (hout : field 0 2 d < 0x2000 ∨ 0x2EFF < field 0 2 d) : s.pendingCmd d = (outcome .translationFault dValue, s) := by
  simp [pendingCmd, hobj, hout]

/-- A pending read is no critical command. -/
theorem cmdClass_pendingRead (d : Bytes) : cmdClass 0x2F01 4 d = none := by
  have hobj : findObj dictObjs 0x2F01 4 = some ⟨0x2F01, 0x2F01, 4, 4, .domain, .rw, 0, 0⟩ := by decide +kernel
  simp [cmdClass, hobj]

/-! ### The mailbox -/

/-- The tags of the mailbox requests still to be answered. -/
def withMailbox (s : State) (l : List Nat) : State := { s with mgm.mailbox := l }

/-- No object shows how many mailbox requests there are. -/
theorem withMailbox_objectValue (s : State) (l : List Nat) (o : Obj) (index sub : Nat) :
    (s.withMailbox l).objectValue o index sub = s.objectValue o index sub := rfl

theorem withMailbox_markRead (s : State) (l : List Nat) (index : Nat) :
    (s.withMailbox l).markRead index = (s.markRead index).withMailbox l := by
  cases h : s.recordRead index with
  | none => rw [markRead_none h, markRead_none (s := s.withMailbox l) h]
  | some r => rw [markRead_some h, markRead_some (s := s.withMailbox l) h]; rfl

theorem withMailbox_keepReply (s : State) (l : List Nat) (p : Pdu) (kind index sub : Nat) (r : Option WReply) :
    (s.withMailbox l).keepReply p kind index sub r = (s.keepReply p kind index sub r).withMailbox l := by
  unfold keepReply
  cases r with
  | none => rfl
  | some w =>
    dsimp only
    cases w.status == Status.retry <;> rfl

theorem keepReply_mailbox (s : State) (p : Pdu) (kind index sub : Nat) (r : Option WReply) :
    (s.keepReply p kind index sub r).mgm.mailbox = s.mgm.mailbox := by
  obtain ⟨k, hk⟩ := s.keepReply_shape p kind index sub r
  rw [hk]

section
variable {p : Pdu} {e : Half} {hv : Bool} {c : Nat} (hpath : p.path = .mailbox e hv c)
include hpath

theorem takePdu_mailbox (s : State) : s.takePdu p = s := by
  unfold takePdu
  rw [hpath]

/-- A reply by the mailbox takes its tag out, and leaves on the Geled Link (R298). -/
theorem sendWaest_mailbox (s : State) (r : WReply) :
    s.sendWaest p r = (s.withMailbox (s.mgm.mailbox.erase p.src)).toCompanion e hv (.mailbox p.src r) := by
  unfold sendWaest
  rw [hpath]
  rfl

/-- The tags that wait matter to a reply only by what is left of them. -/
theorem withMailbox_answerRead (s : State) {l : List Nat} (hl : l.erase p.src = s.mgm.mailbox.erase p.src) (kind index sub : Nat)
    (r : WReply) : (s.withMailbox l).answerRead p kind index sub r = s.answerRead p kind index sub r := by
  unfold answerRead
  rw [withMailbox_keepReply, sendWaest_mailbox hpath, sendWaest_mailbox hpath, keepReply_mailbox, ← hl]
  rfl

theorem answerRead_mailbox (s : State) (kind index sub : Nat) (r : WReply) :
    (s.answerRead p kind index sub r).mgm.mailbox = s.mgm.mailbox.erase p.src := by
  unfold answerRead
  rw [sendWaest_mailbox hpath, (sends_toCompanion _ _ _ _).mgm, keepReply_mailbox]
  rfl

theorem withMailbox_readObject (s : State) {l : List Nat} (hl : l.erase p.src = s.mgm.mailbox.erase p.src) (index sub : Nat)
    (o : Obj) : (s.withMailbox l).readObject p 1 index sub o = s.readObject p 1 index sub o := by
  rw [readObject_value, readObject_value, withMailbox_objectValue, withMailbox_markRead, withMailbox_answerRead hpath]
  rw [hl, markRead_mailbox]

theorem readObject_mailbox (s : State) (index sub : Nat) (o : Obj) :
    (s.readObject p 1 index sub o).mgm.mailbox = s.mgm.mailbox.erase p.src := by
  rw [readObject_value, answerRead_mailbox hpath, markRead_mailbox]

end

theorem Looks.withMailbox {s : State} {p : Pdu} {kind index sub : Nat} (h : s.Looks p kind index sub) (l : List Nat) :
    (s.withMailbox l).Looks p kind index sub := ⟨h.gate, h.phase, h.good, h.trailer, h.fresh⟩

theorem mailboxAsked_full {s : State} {e : Half} {hv : Bool} {c tag : Nat} {raw : Bytes} (hup : s.endUp e = true)
    (hfull : 16 ≤ s.mgm.mailbox.length) :
    s.mailboxAsked e hv c tag raw = (s.count e 0x40B0 0xB).toCompanion e hv (.mailboxRetry tag) := by
  simp [mailboxAsked, hup, hfull]

/-- A read by a mailbox that nothing waits in is the read: its tag comes in and goes with the reply (R302). -/
theorem mailboxAsked_read {s : State} {e : Half} {hv : Bool} {c tag : Nat} {raw : Bytes} {p : Pdu} {o : Obj}
    (hup : s.endUp e = true) (hnone : s.mgm.mailbox = []) (hp : p = parsePdu (.mailbox e hv c) tag raw)
    (hkind : field 3 1 raw = 1) (h : s.Looks p 1 (field 6 2 raw) (field 8 1 raw))
    (hobj : objAt (field 6 2 raw) (field 8 1 raw) = some o) (hmay : mayRead p (field 6 2 raw) = true) :
    s.mailboxAsked e hv c tag raw = s.readObject p 1 (field 6 2 raw) (field 8 1 raw) o := by
  have hpath : p.path = .mailbox e hv c := by rw [hp]; rfl
  have hsrc : p.src = tag := by rw [hp]; rfl
  have hread : (s.withMailbox [tag]).dictRead p 1 (field 6 2 raw) (field 8 1 raw) =
      s.readObject p 1 (field 6 2 raw) (field 8 1 raw) o := by
    rw [(h.withMailbox _).dictRead_read hobj hmay, takePdu_mailbox hpath, withMailbox_readObject hpath]
    simp [hnone, hsrc]
  have hasked : ({ s with mgm.mailbox := s.mgm.mailbox ++ [tag] } : State) = s.withMailbox [tag] := by rw [hnone]; rfl
  have hdone : (s.readObject p 1 (field 6 2 raw) (field 8 1 raw) o).mgm.mailbox = [] := by
    rw [readObject_mailbox hpath, hnone]
    rfl
  unfold mailboxAsked
  simp only [← hp, hup, hasked, hkind, hread, hdone]
  simp [hnone]

end State

/-! ### The obligation -/

theorem exec_waestRead (dt : Nat) (p : Pdu) (index sub : Nat) (s : State) :
    exec (.waestRead dt p index sub) s = act (.waestRead dt p index sub) dt s (fun s => s.dictRead p 1 index sub) := rfl

theorem exec_waestDescribe (dt : Nat) (p : Pdu) (index sub : Nat) (s : State) :
    exec (.waestDescribe dt p index sub) s = act (.waestDescribe dt p index sub) dt s (fun s => s.dictRead p 3 index sub) := rfl

theorem exec_objectWrite (dt : Nat) (p : Pdu) (index sub : Nat) (s : State) :
    exec (.objectWrite dt p index sub) s =
      act (.objectWrite dt p index sub) dt s (fun s => s.dictWrite p index sub (State.writeEffect p index sub)) := rfl

theorem exec_pendingRead (dt : Nat) (p : Pdu) (s : State) :
    exec (.pendingRead dt p) s = act (.pendingRead dt p) dt s (fun s => s.dictWrite p 0x2F01 4 (fun d s => s.pendingCmd d)) := rfl

theorem exec_mailboxRequest (dt : Nat) (e : Half) (hv : Bool) (c tag : Nat) (raw : Bytes) (s : State) :
    exec (.mailboxRequest dt e hv c tag raw) s =
      act (.mailboxRequest dt e hv c tag raw) dt s (fun s => s.mailboxAsked e hv c tag raw) := rfl

/-- Settles O60: an object that is looked at is read or described in one reply, a write is its effect and its answer, and a
mailbox request is the request in it. -/
theorem dictionaryAccess : Obligations.DictionaryAccess := by
  rintro dt index sub p o s b hquiet hindex hsub hpwf hgood hgate hphase hobj rfl
  have hbegun : (s.begun dt).Quiet := hquiet.begun dt
  have htaken : ((s.begun dt).takePdu p).Quiet := (State.sends_takePdu _ p).quiet hbegun
  have hlooks : ∀ kind, p.trailer = none → s.keptReply p kind index sub = none → (s.begun dt).Looks p kind index sub :=
    fun kind htrailer hfresh => ⟨hgate, hphase, hgood, htrailer, hfresh⟩
  have hwfRead : (Instr.waestRead dt p index sub).wf = true := by simp [Instr.wf, hpwf, hindex, hsub]
  have hwfDescribe : (Instr.waestDescribe dt p index sub).wf = true := by simp [Instr.wf, hpwf, hindex, hsub]
  have hwfWrite : (Instr.objectWrite dt p index sub).wf = true := by simp [Instr.wf, hpwf, hindex, hsub]
  refine ⟨?read, ?describe, ?barred, ?write, ?critical, ?pending, ?mailbox⟩
  case read =>
    rintro v htrailer hmay hfresh rfl
    exact (exec_waestRead ..).trans (act_quiet hwfRead ((hlooks 1 htrailer hfresh).dictRead_read hobj hmay)
      (htaken.readObject p 1 index sub o))
  case describe =>
    intro htrailer hmay hfresh
    exact (exec_waestDescribe ..).trans (act_quiet hwfDescribe ((hlooks 3 htrailer hfresh).dictRead_read hobj hmay)
      (htaken.readObject p 3 index sub o))
  case barred =>
    intro htrailer hmay hfresh
    refine (exec_waestRead ..).trans (act_quiet hwfRead ?_ (htaken.answerRead ..))
    rw [(hlooks 1 htrailer hfresh).dictRead hobj, if_neg (by simp [hmay])]
    rfl
  case write =>
    intro htrailer htakes hplain x u heffect
    refine (exec_objectWrite ..).trans (act_settles hwfWrite ?_)
    rw [State.dictWrite_plain _ p index sub _ htakes hplain htrailer, heffect]
  case critical =>
    intro k c x u htakes hauth heffect
    refine (exec_objectWrite ..).trans (act_settles hwfWrite ?_)
    rw [State.dictWrite_critical _ p index sub k c _ htakes hauth, heffect]
  case pending =>
    rintro i k x htrailer rfl rfl htakes rfl rfl hx
    have hwf : (Instr.pendingRead dt p).wf = true := hpwf
    have hwrite := State.dictWrite_plain _ p _ _ (fun d s => s.pendingCmd d) htakes (State.cmdClass_pendingRead _) htrailer
    constructor
    · rintro ⟨hlow, hhigh, hne⟩
      refine (exec_pendingRead ..).trans (act_quiet hwf ?_ (htaken.answered ..))
      rw [hwrite, State.pendingCmd_slated hx hlow hhigh hne]
    · intro hout
      refine (exec_pendingRead ..).trans (act_quiet hwf ?_ (htaken.answered ..))
      rw [hwrite, State.pendingCmd_unslated hx hout]
  case mailbox =>
    intro e hv c tag raw hwf hup
    constructor
    · intro hfull
      exact (exec_mailboxRequest ..).trans (State.idle_sends
        ((State.sends_count _ _ _ _ _).trans (State.sends_toCompanion _ _ _ _)) hbegun _ dt _ hwf
        (State.mailboxAsked_full (s := s.begun dt) hup hfull))
    · rintro v htrailer hnone hp hkind rfl rfl hmay hfresh rfl
      have hpath : p.path = .mailbox e hv c := by rw [hp]; rfl
      rw [State.takePdu_mailbox hpath]
      exact (exec_mailboxRequest ..).trans (act_quiet hwf
        (State.mailboxAsked_read (s := s.begun dt) hup hnone hp hkind (hlooks 1 htrailer hfresh) hobj hmay)
        (hbegun.readObject p 1 _ _ o))

end Sys2Proof.Machine
end
